-- ==== Sys2Proof/Word.lean ====
section
/-! DEFINITION. The words of the block: bytes, 64-bit register words, byte strings, sparse tables. -/

namespace Sys2Proof

/-- A byte. -/
abbrev Byte := BitVec 8

/-- A register word (00:R9: a register is 64 bits wide). -/
abbrev Word := BitVec 64

/-- A byte string in the order of its bytes. -/
abbrev Bytes := List Byte

/-- A table with a default: the entries that differ from it, keys strictly rising.
The default is the one its reader names (`Machine/Ops.lean`, `Sparse.get`). -/
abbrev Sparse (α : Type) := List (Nat × α)

/-- The master that sends a write or a read (14:R356). A fabric peer is named by its node. -/
inductive Master where
  | host
  | mc
  | peer (node : BitVec 20)
  deriving DecidableEq, Repr

/-- One state of a one-bit thing as a word. -/
def bit64 (b : Bool) : Word := if b then 1 else 0

end Sys2Proof
end

