-- ==== Sys2Proof/Syntax.lean ====
section
/-! DEFINITION. The commands of the block: one constructor for each row of the opcode table, with the row's operands. What the outside supplies (bytes from the host bus, packets, readings, hardware faults) is an operand; what the block itself knows it reads from its state. -/

namespace Sys2Proof

/-- A difference that a shadow's comparison latches (13:R330, R333): the primary, the engine code, the operation, the tick offset, the first differing address. -/
structure ShadowDiff where
  die : Fin 16
  cell : Fin 68
  engine : BitVec 8
  opId : BitVec 32
  tick : BitVec 32
  addr : BitVec 22
  deriving DecidableEq, Repr

/-- A lay-by entry (07:R187): a burst of a cell, a slot of a link die, or the sill. -/
inductive LaybyRef where
  | mem (die : Fin 16) (cell : Fin 68) (entry : Fin 64)
  | link (die : Fin 6) (slot : Nat)
  | sill
  deriving DecidableEq, Repr

/-- A weight handle (12:R315): an epoch of a slot, or a base. -/
inductive Handle where
  | epoch (slot : Fin 8) (n : Fin 4)
  | base (n : Fin 4)
  deriving DecidableEq, Repr

/-- The header of a barge packet but for the sequence number (11:Table 11.4): a route or a collective, the index in its send. -/
structure PacketHead where
  collective : Bool
  number : BitVec 32
  index : BitVec 32
  deriving DecidableEq, Repr

/-- How a numbered packet comes in (11:R294, R295): the port, the packet's number there, the node it is for, the codewords corrected and uncorrectable that carry it, and whether its CRC holds (a barge has none). -/
structure Carriage where
  port : Fin 36
  seq : BitVec 32
  node : BitVec 20
  corrected : Nat
  uncorrectable : Nat
  crcOk : Bool
  deriving DecidableEq, Repr

/-- A discovery packet (11:Tables 11.4, 11.6): the record, and whether its CRC holds (11:R290). -/
structure DiscoveryPacket where
  record : BitVec 256
  crcOk : Bool
  deriving DecidableEq, Repr

/-- The stamp of an echo packet, and whether its CRC holds (11:R290, R292). -/
structure EchoPacket where
  stamp : Nat
  crcOk : Bool
  deriving DecidableEq, Repr

/-- What an acknowledge packet says: that it asks for the packet again, and whether its CRC holds (11:R290, R295). -/
structure AckPacket where
  resend : Bool
  crcOk : Bool
  deriving DecidableEq, Repr

/-- The header of a barge packet (11:Table 11.4) with its number at the port and the node it is for. -/
structure BargeHead where
  seq : BitVec 32
  node : BitVec 20
  place : PacketHead
  deriving DecidableEq, Repr

/-- The codewords of a barge packet that the port corrected, and those it could not (11:R290). -/
structure Codewords where
  corrected : Nat
  uncorrectable : Nat
  deriving DecidableEq, Repr

/-- A step and a pound of it, as a sill token and a loss notice name them (11:R301, R302). -/
structure Moment where
  step : BitVec 40
  pound : BitVec 20
  deriving DecidableEq, Repr

/-- The slot and the generation of a context, as a join names them (11:R300). -/
structure ContextName where
  slot : BitVec 3
  gen : BitVec 8
  deriving DecidableEq, Repr

/-- The collective and the sender's position of a survey packet (11:R307). -/
structure SurveyHead where
  coll : BitVec 32
  position : BitVec 16
  deriving DecidableEq, Repr

/-- A number of bytes from an offset on. -/
structure ByteRange where
  offset : Nat
  bytes : Nat
  deriving DecidableEq, Repr

/-- A record of the INSTRUCTIONS section that runs, and whether the two lanes, or the two sums, of an audit cell differ at it (05:R145). -/
structure AuditRun where
  k : Nat
  differ : Bool
  deriving DecidableEq, Repr

/-- The end of a scratchpad sample before all of it is delivered: the pages that the port has delivered, and whether it is the 5 ms of a die's samples that end and not the 200 µs of this one (13:R346, R349). -/
structure SampleEnd where
  pages : Nat
  dieLimit : Bool
  deriving DecidableEq, Repr

/-- What a level-2 reset of a memory base die meets: whether the stack enters self-refresh (13:R346), and the failed lanes that the training after it finds, by channel (09:R247). -/
structure BaseDieFindings where
  selfRefresh : Bool
  lanes : List (Fin 32 × Nat)
  deriving DecidableEq, Repr

/-- What the fetch of a firmware object brings, none where it fails, and whether its verification is taken with it or by a later command: the module is in VERIFY between the two (15:Table 15.3). -/
structure FwFetch where
  object : Option Bytes
  verified : Bool
  deriving DecidableEq, Repr

/-- What INIT finds (15:R389, R403, R247): cells and dies that fail the boot self-test, lanes that fail training (stack, channel, number of failed lanes). -/
structure BootFindings where
  badCells : List (Fin 16 × Fin 68)
  badDies : List (Fin 32)
  /-- PLLs 2 to 16; PLLs 0 and 1 are essential, and their failure ends start-up. -/
  badPlls : List (Fin 17)
  badSensors : List (Fin 82)
  lanes : List (Fin 8 × Fin 32 × Nat)
  deriving DecidableEq, Repr

/-- One flooded link of the fabric (11:R294, R299): its two nodes and its one-way latency in ps. -/
structure FabricLink where
  a : BitVec 20
  b : BitVec 20
  delta : Nat
  /-- The lanes in use: 1, 2 or 4. -/
  width : Nat
  deriving DecidableEq, Repr

/-- What the sideband master does outside the vendor-defined commands (14:R363): an MCTP control message that the module supports, or ENTDAA, by which the target takes its dynamic address. -/
inductive MctpControl where
  | assignEndpoint (eid : Byte)
  | getVersion (messageType : Byte)
  | getMessageTypes
  | enterDynamicAddress (addr : BitVec 7)
  deriving DecidableEq, Repr

/-- A write of the function's configuration space that the module's own behaviour depends on (14:Table 14.2): the size of BAR2 (2^(30 + k) bytes), D0 or D3hot, and the MSI-X message control. -/
inductive ConfigWrite where
  | resizeBar2 (k : Fin 11)
  | powerState (d3hot : Bool)
  | msixControl (enable functionMask : Bool)
  deriving DecidableEq, Repr

/-- Which register is read, and whether all 8 bytes of it or the 4 at the offset (14:R358). -/
structure RegRead where
  offset : Nat
  wide : Bool
  deriving DecidableEq, Repr

/-- What a register write brings: its value, and, where it is an SEC_CMD that fetches a signed object, what the fetch from the host bus gives (15:R386, R409). -/
structure RegData where
  value : Word
  object : Option Bytes
  deriving DecidableEq, Repr

/-- A comparator whose condition becomes false, with the reading of what it watches (16:Table 16.4). -/
structure CmpClear where
  m : Fin 8
  reading : BitVec 32
  deriving DecidableEq, Repr

/-- A PLDM request that the module supports (14:R364). -/
inductive PldmRequest where
  | discovery (code : Byte)
  | sensorReading (sensor : BitVec 16)
  deriving DecidableEq, Repr

/-- A shard request of a peer (12:R322). -/
structure ShardRequest where
  node : BitVec 20
  tensor : BitVec 32
  layout : BitVec 16
  format : BitVec 8
  first : Nat
  count : Nat
  deriving DecidableEq, Repr

/-- A shard request as a port takes it. -/
structure ShardPacket where
  via : Carriage
  request : ShardRequest
  deriving DecidableEq, Repr

/-- The commands. `m` is the master whose write or read it is; `k` names a record of the INSTRUCTIONS section of the executing context's image (08:R214); a reading is the one the outside supplies. `lanesDiffer`, or `r.differ`, says that the two lanes or the two sums of an audit cell gave different results (05:R145), which only a hardware fault does. An echo without a turnaround is the partner's, to be returned (11:R292). -/
inductive Instr where
  -- contexts (08)
  | ctxLoad (m : Master)
  | loadComplete
  | ctxRunWrite (m : Master) (value : Word)
  | unload (m : Master) (slot : Fin 8)
  | exportBlock (m : Master) (slot : Fin 8)
  | restoreBlock (m : Master) (slot : Fin 8)
  | drainHorizon (slot : Fin 8)
  | weightModeRequest (m : Master) (slot : Fin 8) (split : Bool)
  | stepStart
  -- schedule (07)
  | poundStart
  | phaseStart
  | shadowClose (diffs : List ShadowDiff)
  | phaseEnd (hung : List (Fin 16 × Fin 68))
  | sillLeadReached
  | sillToken (via : Carriage) (origin : BitVec 16) (gen : BitVec 8) (at_ : Moment) (completed : Bool)
  | poundEnd
  | stepBoundary
  | laybyCheck (tick : Nat)
  | holdQuantumEnd
  | holdLimit
  | laybyRelease (entry : LaybyRef)
  | fabricTransferLate (i : Nat)
  -- cell engines (05, 04, 03)
  | matrixProduct (k : Nat) (rows cols : List Byte)
  | tileEnd (k : Nat)
  | vectorChain (k : Nat) (lanesDiffer : Bool)
  | softmax (k : Nat) (lanesDiffer : Bool)
  | rmsNormalisation (k : Nat) (lanesDiffer : Bool)
  | layerNormalisation (k : Nat) (lanesDiffer : Bool)
  | crossEntropy (k : Nat) (lanesDiffer : Bool)
  | dropOut (r : AuditRun)
  | initialisation (r : AuditRun)
  | sampling (r : AuditRun)
  | routing (r : AuditRun)
  | optimizerUpdate (k : Nat) (lanesDiffer : Bool)
  | conversion (r : AuditRun)
  | reduction (k : Nat) (surveys : List Byte)
  | reductionClose (r : AuditRun)
  -- copies, gathers, scatters (06)
  | layoutCopy (k : Nat)
  | gather (k : Nat)
  | scatterStore (k : Nat)
  | scatterAdd (k : Nat)
  | collective (coll : BitVec 32)
  -- DMA and sends (10, 07, 11)
  | dmaDescriptorWrite (k : Nat)
  | descriptorIssue (die : Fin 16) (cell : Fin 68) (channel : Fin 8)
  | burstSlot (die : Fin 16) (cell : Fin 68) (tick : Nat)
  | inPackageSend (k : Nat)
  | inPackageDelivery (i : Nat)
  | linkSend (k : Nat)
  | memoryReadReturn (die : Fin 16) (cell : Fin 68) (entry : Fin 64)
  | correctedWriteBack (i : Nat)
  | wholeBargeWrite (i : Nat)
  | partialWrite (i : Nat)
  | accumulatingBurst (i : Nat)
  | adderContribution (stack : Fin 8)
  | regionClose (region : Nat)
  | dredgeSweep (stack : Fin 8)
  | refresh (stack : Fin 8)
  | refreshManagement (stack : Fin 8)
  | tgStart (m : Master) (stack : Fin 8) (channel : Fin 32) (value : Word)
  | tgAbort (m : Master) (stack : Fin 8) (channel : Fin 32) (value : Word)
  | tgRunDone (stack : Fin 8) (channel : Fin 32)
  -- links (11)
  | portEnable (m : Master) (port : Fin 36) (value : Word)
  | portDisable (m : Master) (port : Fin 36) (value : Word)
  | retrain (m : Master) (port : Fin 36) (value : Word)
  | laneDetected (port : Fin 36) (lane : Fin 4)
  | trainingDone (port : Fin 36) (lanes : BitVec 4) (loss : BitVec 16)
  | discovery (port : Fin 36) (packet : Option DiscoveryPacket) (roundTrips : List Nat)
  | echo (port : Fin 36) (packet : EchoPacket) (turnaround : Option Nat) (receive : Nat) (loss : BitVec 16)
  | remeasure (port : Fin 36)
  | signalLoss (port : Fin 36)
  | portRetry (port : Fin 36)
  | laneLoss (port : Fin 36) (lane : Fin 4)
  | portWidening (port : Fin 36) (lanes : BitVec 4)
  | linkTimeout (port : Fin 36)
  | acknowledge (port : Fin 36) (seq : BitVec 32) (packet : AckPacket)
  | bargePacket (port : Fin 36) (head : BargeHead) (payload : Bytes) (tag : BitVec 256) (codewords : Codewords)
  | forwardingTableUpdate (links : List FabricLink)
  | lnkNodeWrite (m : Master) (value : Word)
  | join (via : Carriage) (position : BitVec 16) (node : BitVec 20) (ctx : ContextName) (digest : Word)
  | lossNotice (via : Carriage) (node : BitVec 20) (position : BitVec 16) (at_ : Moment)
  | memberLost (position : BitVec 16)
  | remoteReadRequest (via : Carriage) (slot : Fin 8) (route : BitVec 16) (tensor : BitVec 32) (range : ByteRange)
  -- weights (12)
  | openHandle (m : Master) (value : Word)
  | submit (m : Master) (value : Word)
  | freeHandle (m : Master) (value : Word)
  | arrivalUnitWrite (h : Handle) (entry : Nat) (encoded : Bytes)
  | shardComplete (h : Handle) (entry : Nat) (failure : Option (Fin 6))
  | shardTimeout (h : Handle) (entry : Nat)
  | peerShardRequest (p : ShardPacket)
  | wldRootWrite (m : Master) (slot : Fin 8) (value : Word)
  -- resets (13)
  | cellReset (die : Fin 16) (cell : Fin 68)
  | sampleTimeout (die : Fin 16) (cell : Fin 68) (stop : SampleEnd)
  | dieReset (die : Fin 32) (found : BaseDieFindings)
  | railOff (die : Fin 32)
  | warmReset (cause : BitVec 8)
  | resetComplete
  | resetTimeout
  | cellReturn (m : Master) (die : Fin 16) (cell : BitVec 7)
  | logClear (m : Master)
  | watchdogExpiry
  | heartbeatLoss
  | bootStartTimeout
  | powerOnReset
  -- host interface (14)
  | registerWrite (m : Master) (offset : Nat) (wide : Bool) (data : RegData)
  | bar0BadAccess (m : Master) (offset : Nat) (write : Bool)
  | numStepIdRead (m : Master) (slot : Fin 8)
  | schTickRead (m : Master)
  | bar2Access (m : Master) (range : ByteRange) (write : Option Bytes) (config : Option ConfigWrite)
  | hostReadModifyWrite (i : Nat)
  | registerRead (m : Master) (at_ : RegRead)
  | vendorRegisterWrite (m : Master) (offset : Nat) (data : RegData)
  | memoryRead (m : Master) (addr : Word) (length : Nat)
  | memoryWrite (m : Master) (addr : Word) (data : Bytes)
  | mctpControlMessage (msg : MctpControl)
  | pldmRequest (msg : PldmRequest)
  -- ownership (14)
  | ownClaim (m : Master) (value : Word)
  | ownAccept (m : Master) (value : Word)
  | ownHeartbeat (m : Master) (value : Word)
  | ownHandover (m : Master) (value : Word)
  | ownRelease (m : Master) (value : Word)
  | leaseExpiry
  | handoverExpiry
  -- PCIe and host DMA (14)
  | functionReset
  | perstOrHotReset
  | pcieLinkDown
  | hostDmaStart (m : Master) (channel : Fin 16) (value : Word)
  | bargeModeRecord (channel : Fin 16) (data : Bytes)
  | hostDmaAbort (m : Master) (channel : Fin 16) (value : Word)
  | hostDmaDone (channel : Fin 16) (data : Bytes)
  -- events (14)
  | ringRecordWrite
  | enable (m : Master) (value : Word)
  | disable (m : Master) (value : Word)
  | evtHeadWrite (m : Master) (value : Word)
  | sidebandActivation (n : Fin 16)
  | stormMaskEnd (n : Fin 16)
  -- start-up and security (15)
  | loadFw (m : Master)
  | fwFetchComplete (fetch : FwFetch) (found : BootFindings)
  | initComplete (essentialFailed : Option (Fin 34))
  | loadPack (m : Master) (object : Option Bytes)
  | attest (m : Master)
  | attestReportWritten
  | commitSvn (m : Master)
  | revoke (m : Master) (object : Option Bytes)
  | lifecycle (m : Master) (object : Option Bytes)
  | scan (m : Master)
  -- self-test (15)
  | tstCmd (m : Master) (value : Word)
  | testDue (testId : BitVec 32) (unit : BitVec 8) (cell : BitVec 7)
  | testComplete (testId : BitVec 32) (unit : BitVec 8) (cell : BitVec 7) (result : Word)
  -- power (16)
  | reqA0 (m : Master)
  | reqA2 (m : Master)
  | reqA3 (m : Master)
  | enterA1
  | exitA1
  | wake (source : BitVec 9)
  | l12Exit
  | powerTransitionComplete (romMatches : Bool) (lanes : List (Fin 8 × Fin 32 × Nat))
  | cellStart (die : Fin 16) (cell : Fin 68) (droop : Nat)
  | startLimitRestore
  | droopTrip (die : Fin 16)
  | stretchEnd (periods : Nat)
  | comparatorOccurrence (m : Fin 8) (reading : BitVec 32)
  | mainPowerRestore
  | alwaysOnPowerLoss
  | sensorSample (n : Fin 82) (reading : Option (BitVec 32))
  | thermalUpdate
  | powerUpdate (power current : List Nat)
  | thermtrip (die : Fin 32)
  | flowWarning
  -- added later to the table
  | surveyPacket (via : Carriage) (head : SurveyHead) (bytes : Bytes)
  | romReady (mbistPass : Bool)
  | alwaysOnPowerApplied
  | uncorrectableInternalError (hostDie : Bool)
  | comparatorConditionClears (c : CmpClear)
  | sidebandInputInactive (n : Fin 16)
  | testOverdue (testId : BitVec 32) (unit : BitVec 8) (cell : BitVec 7)
  deriving DecidableEq, Repr

end Sys2Proof
end

