-- ==== Sys2Proof/Decode.lean ====
section
/-! DEFINITION. The block has no encoding of its commands: spec/opcode_table.json gives no bits for any of its rows, so no word spells a command. -/

namespace Sys2Proof

/-- The command that a word of `nbits` bits spells by the table's bits: the table gives none. -/
def decodeTableWord (_nbits _w : Nat) : Option Instr := none

end Sys2Proof
end

