-- ==== Sys2Proof/Config.lean ====
section
/-! DEFINITION. What the spec leaves open: constants without a body, which no proof can look into. Each is named in the assumption log. -/

namespace Sys2Proof.Config

open Sys2Proof

/-- What the decoder of a stored word reports for an error of 6 or more symbols (09:R241): 0 uncorrectable, 1 miscorrected, anything else a valid codeword. The argument is the error pattern (symbol, difference). -/
opaque eccBeyond : List (Nat × Byte) → Nat

/-- The 64 data bytes of the word that a miscorrection or a wrong valid codeword delivers (09:R241). -/
opaque eccWrongByte : List (Nat × Byte) → Nat → Byte

/-- What the scratchpad code reports for more than two wrong bits in 8 bytes (13:R334 gives a single-error-correcting, double-error-detecting code): 0 corrected, 1 uncorrectable, anything else no error. -/
opaque spadBeyond : BitVec 72 → Nat

/-- The 8 bytes that the scratchpad delivers when it takes an error of more than two bits for a corrected one or for none. -/
opaque spadWrong : BitVec 72 → BitVec 64

/-- The first stack and the stack offset that an allocation would choose for each of its items, a function of the inputs of placement (08:R218, 09:R238 and R239 leave the choice open). -/
opaque placeChoice : List Nat → List (Nat × Nat)

/-- The scratchpad address of the scale bytes of a region (06:R157 names a second base, the image holds none): tensor id, address of the operand. -/
opaque scaleBase : Nat → Int → Int

/-- The scratchpad address of the skim words beside a body (05:R147; no record field names it): tensor id of the skim, address of the body. -/
opaque skimBase : Nat → Int → Int

/-- Whether an SLH-DSA-SHAKE-256s signature verifies (15:R387 item 6, FIPS 205): public key, context byte, message, signature. -/
opaque slhVerify : Bytes → Byte → Bytes → Bytes → Bool

/-- The SLH-DSA-SHAKE-256f public key (64 bytes) of the 96 derivation bytes (15:R396, FIPS 205). -/
opaque slhPublicKey : Bytes → Bytes

/-- The SLH-DSA-SHAKE-256f signature (15:R397, FIPS 205): the 96 derivation bytes, the context byte, the message. -/
opaque slhSign : Bytes → Byte → Bytes → Bytes

/-- The built-in test records of a firmware object (15:R399 says that the firmware has them and gives no place in the body), as 64-byte numbers. -/
opaque builtinTests : Bytes → List Nat

/-- The test records of the boot ROM, which serves TST_CMD in the safe state (15:R388). -/
opaque romTests : List Nat

/-- The fused module number (15:Table 15.1), which each module has of its own. -/
opaque fuseUid : Word

/-- The fused identity seed. -/
opaque fuseSeed : BitVec 256

/-- The fused key hash of a slot; zero is an unprogrammed slot. -/
opaque fuseKeyHash : Nat → BitVec 512

/-- The fused trims and repairs (15:Table 15.1). -/
opaque fuseTrims : Nat

/-- The measurement of the boot ROM's contents (15:Table 15.4). -/
opaque romMeasurement : BitVec 512

/-- A byte of an answer whose contents another standard lays out (DMTF DSP0236, DSP0248): request, byte number. -/
opaque foreignByte : Nat → Nat → Byte

/-- A fresh value (the argument is the counter that the step reads and advances). -/
opaque freeWord : Nat → Word

/-- The bytes of the last page of a dump record beyond its body (13:R350 says only that the record occupies whole pages). -/
opaque dumpPad : Nat → Byte

/-- The power of x that a symbol of a stored word takes, by its number from 0 to 71 (09:R241 does not say which). -/
opaque symbolPower : Nat → Nat

/-- The tick in which the matrix engine reads the operand words of a K position, within the 33 ticks from its place in the stream to its accumulation (05:Table 5.4 gives none): operation, part, K position. -/
opaque operandTick : Nat → Nat → Nat → Nat

/-- The anchor of an element of an anchored tensor of which the module keeps no survey record (02:R57, R58): tensor × 2^64 + logical index. -/
opaque unknownAnchor : Nat → Int

/-- The bytes of a packet before its CRC, from its content field by field (11:Table 11.4 gives sizes and contents and no layout). -/
opaque packetBytes : List Nat → Bytes

end Sys2Proof.Config
end

