-- ==== Sys2Proof/Machine/State.lean ====
section
/-! DEFINITION. The state of the block as plain data, its reset value, and the reasons a step can stop. -/

namespace Sys2Proof.Machine

open Sys2Proof

/-- The reasons a command can stop the block. The spec gives the block no stop: its faults are states of a context and events (08:R230, 14:R379). No command raises one. -/
inductive Fault where
  deriving DecidableEq, Repr

/-- The reasons a command can be refused. -/
inductive Refusal where
  /-- Raised by an arm of `exec` whose command has no meaning yet. Safe: nothing is said of the command. -/
  | notModelled (mnemonic : String)
  deriving DecidableEq, Repr

/-! ## Numbers -/

/-- The class of an anchored result (02:Table 2.4): finite, or one of the special patterns. -/
inductive AncClass where
  | fin
  | nan
  | pinf
  | ninf
  deriving DecidableEq, Repr

/-- An accumulator: an anchored integer with its special class (05:R122, 02:R62). -/
structure Acc where
  cls : AncClass
  q : Int
  deriving DecidableEq, Repr

/-- The six counts of a context (03:R86, 06:R166). -/
structure Counts where
  satW : Word
  satA : Word
  satG : Word
  satO : Word
  oobRead : Word
  oobWrite : Word
  deriving DecidableEq, Repr

def Counts.zero : Counts := ⟨0, 0, 0, 0, 0, 0⟩

/-! ## The image (08, 06, 09, 10, 11) -/

/-- A layout descriptor (06:Table 6.1). The lists hold RANK entries. -/
structure Layout where
  id : Nat
  format : Nat
  rank : Nat
  blockAxis : Nat
  interleaved : Bool
  fill : BitVec 32
  scaleBlock0 : Nat
  dims : List Nat
  tstride : List Nat
  tileLog2 : List Nat
  order : List Nat
  swzShift : Nat
  swzBits : Nat
  deriving DecidableEq, Repr

/-- A tensor record (08:Table 8.4). -/
structure TensorRec where
  id : Nat
  layoutId : Nat
  kind : Nat
  persist : Bool
  critical : Bool
  shared : Bool
  companion : Nat
  deriving DecidableEq, Repr

/-- An operation record (08:Table 8.5). -/
structure OpRec where
  id : Nat
  opcode : Nat
  window : Nat
  stream : Nat
  dst : Nat
  src0 : Nat
  src1 : Nat
  src2 : Nat
  km1 : Nat
  flags : Nat
  params : BitVec 256
  deriving DecidableEq, Repr

/-- A digest-point record (08:Table 8.3, DIGESTS). -/
structure DigestRec where
  point : Nat
  replica : Bool
  tensor : Nat
  opId : Nat
  deriving DecidableEq, Repr

/-- An accumulation-region record (08:Table 8.3, REGIONS). -/
structure RegionRec where
  tensor : Nat
  cellType : Nat
  anchor : Int
  opId : Nat
  deriving DecidableEq, Repr

/-- A logical cell (08:Table 8.10). -/
structure CellRec where
  position : Nat
  ldie : Nat
  audit : Bool
  g2 : Nat
  g4 : Nat
  deriving DecidableEq, Repr

/-- A pound of the step (08:Table 8.3, POUNDS). -/
structure PoundRec where
  lead : Nat
  length : Nat
  deriving DecidableEq, Repr

/-- An instruction record (08:Table 8.8) with the logical cell and the pound that its place in INSTRUCTIONS gives it (08:R214). -/
structure IRec where
  cell : Nat
  pound : Nat
  offset : Nat
  engine : Nat
  opId : Nat
  part : Nat
  args : BitVec 160
  deriving DecidableEq, Repr

/-- A link route (11:Table 11.2, TYPE 1). -/
structure LinkRoute where
  number : Nat
  toScratchpad : Bool
  src : Nat
  dst : Nat
  cell : Nat
  addr : Nat
  barges : Nat
  pound : Nat
  tick : Nat
  deriving DecidableEq, Repr

/-- A MEMORY record (09:Table 9.2). -/
structure MemRec where
  tensor : Nat
  use : Nat
  stripe : Nat
  size : Nat
  deriving DecidableEq, Repr

/-- An owner table (06:Tables 6.6 and 6.7). An entry is its node and FIRST. -/
structure OwnerTable where
  tensor : Nat
  blocks : Nat
  kind : Nat
  grain : Nat
  entries : List (Nat × Nat)
  deriving DecidableEq, Repr

/-- A collective record (11:Table 11.7) with its members' positions. -/
structure CollRec where
  coll : Nat
  op : Nat
  tree : Bool
  innet : Bool
  root : Nat
  issuePound : Nat
  issueTick : Nat
  releasePound : Nat
  releaseTick : Nat
  members : List Nat
  deriving DecidableEq, Repr

/-- A DMA descriptor (10:Table 10.4). -/
structure Descr where
  route : Nat
  m2offset : Nat
  m2tensor : Nat
  moffset : Nat
  mtensor : Nat
  saddr : Nat
  dynaddr : Nat
  dynS : Bool
  dynM : Bool
  mwrap : Nat
  swrap : Nat
  format : Nat
  kind : Nat
  length : Nat
  deriving DecidableEq, Repr

/-- The DMA records of a logical cell (10:R271). -/
structure DmaCell where
  cell : Nat
  weights : List Nat
  descrs : List Descr
  deriving DecidableEq, Repr

/-- An Edtotar image as the module holds it after a load (08). -/
structure Image where
  minLevel : Nat
  compat : Bool
  fold2 : Bool
  fold4 : Bool
  modules : Nat
  logicalCells : Nat
  bytes : Nat
  tensors : List TensorRec
  layouts : List Layout
  ops : List OpRec
  streams : List Nat
  digests : List DigestRec
  regions : List RegionRec
  dieMask : BitVec 16
  cells : List CellRec
  sill : List Nat
  pounds : List PoundRec
  instrs : List IRec
  linkRoutes : List LinkRoute
  connections : List (Nat × Nat)
  surveyBindings : List (Nat × Nat)
  sillTree : List (Nat × Nat)
  memory : List MemRec
  owners : List OwnerTable
  colls : List CollRec
  dma : List DmaCell
  deriving DecidableEq, Repr

/-! ## Placement and contexts (08) -/

/-- Where a logical cell is bound (08:R223). -/
structure Binding where
  logical : Nat
  die : Nat
  cell : Nat
  phase : Nat
  audit : Bool
  deriving DecidableEq, Repr

/-- Where the local barges of a tensor lie (09:R238): the stacks σ_0 …, the stack offset o_0, the local block indices in order. -/
structure TensorPlace where
  tensor : Nat
  stks : List Nat
  offset : Nat
  blocks : Nat
  deriving DecidableEq, Repr

/-- A stack range that an allocation holds: stack, first offset, end. -/
structure StackRange where
  stack : Nat
  first : Nat
  stop : Nat
  deriving DecidableEq, Repr

/-- The home of a route or a collective (11:R297): link die, lay-by slots. -/
structure Home where
  collective : Bool
  number : Nat
  die : Nat
  slots : List Nat
  deriving DecidableEq, Repr

/-- The result of placement (08:R218 to R223). -/
structure Placement where
  fold : Nat
  position : Nat
  bindings : List Binding
  tensors : List TensorPlace
  ranges : List StackRange
  homes : List Home
  imageAddr : Nat
  deriving DecidableEq, Repr

def Placement.none : Placement := ⟨1, 0, [], [], [], [], 0⟩

/-- The states of a slot (08:Table 8.12). -/
inductive SlotState where
  | empty
  | loading
  | idle
  | active
  | faulted
  | draining
  deriving DecidableEq, Repr

/-- The state of a weight handle (12:R315). -/
inductive HandleState where
  | free
  | filling
  | ready
  deriving DecidableEq, Repr

/-- A weight handle with its shard table, the AO time of each entry's SUBMIT, the memory of its tensors, and whether it has skim content (12:R315 to R319). `image` is the image that gives its structure; `key` is the key of a base (12:R321). -/
structure WeightHandle where
  state : HandleState
  tableAddr : Nat
  count : Nat
  submitAt : Sparse Nat
  /-- Entries whose barges the arrival unit has written. -/
  arrived : List Nat
  places : List TensorPlace
  ranges : List StackRange
  skim : Bool
  image : Option Image
  key : BitVec 512
  deriving DecidableEq, Repr

def WeightHandle.none : WeightHandle := ⟨.free, 0, 0, [], [], [], [], false, Option.none, 0⟩

/-- The digest of one point in the step in progress (01:R32, R36): the elements digested, by logical index, each with its encoded value and whether it is a NaN. -/
structure DigestAcc where
  point : Nat
  fired : Bool
  elems : Sparse (Option (Nat × Bool))
  deriving DecidableEq, Repr

/-- A join that a context holds (11:R300): the sender's position, slot and generation. -/
structure Join where
  position : Nat
  slot : BitVec 3
  gen : BitVec 8
  deriving DecidableEq, Repr

/-- The loss of one cross-entropy row of the step (05:R137): operation, row, loss, counted or ignored, saturated or not. -/
structure RowLoss where
  op : Nat
  row : Nat
  loss : BitVec 32
  counts : Bool
  sat : Bool
  deriving DecidableEq, Repr

/-- An event of an operation, posted at the end of the pound of its last record (14:R373). -/
structure OpEvent where
  op : Nat
  code : Nat
  payload : BitVec 128
  deriving DecidableEq, Repr

/-- A context slot (08:R225 to R234, 12:Table 12.9). -/
structure Slot where
  state : SlotState
  started : Bool
  wmode : Bool
  wreq : Bool
  step : BitVec 40
  seed : BitVec 128
  xferAddr : Word
  placeAddr : Word
  progDigest : BitVec 512
  structDigest : BitVec 512
  image : Option Image
  place : Placement
  /-- Step offsets by stream (04:R106). -/
  offsets : Sparse (BitVec 40)
  /-- AO time at which the drain horizon passes (08:R233). -/
  drainAt : Nat
  /-- The context faults at its next sill (07:R184). -/
  sillFault : Bool
  digests : List DigestAcc
  /-- Region counts: the step in progress, the last completed step, since load (09:R253). -/
  regionStep : Sparse Word
  regionLast : Sparse Word
  regionTotal : Sparse Word
  /-- Regions closed in the step in progress (09:R251). -/
  closed : List Nat
  /-- Next record of the digest log (01:R36). -/
  logNext : Nat
  joins : List Join
  /-- Join records still to be sent before the first step or after a restore (11:R300). -/
  joinDue : Bool
  /-- Anchors of the words of anchored tensors (02:R58), by tensor id × 2^64 + logical index. -/
  anchors : Sparse (Option Int)
  losses : List RowLoss
  /-- Events 0x2002 to 0x2004 that operations of the step have due (14:R373). -/
  opEvents : List OpEvent
  /-- Operations whose last record of each part has run in the step: (operation, record). -/
  doneRecs : List Nat
  /-- Routes, collectives and the sill that are short (11:R299): kind, number, deficit. -/
  short : List (Nat × Nat × Nat)
  /-- The loss notice has been forwarded (11:R302). -/
  lossForwarded : Bool
  /-- Re-binding due before the next step (08:R224). -/
  rebind : Bool
  epochCur : BitVec 2
  baseCur : BitVec 3
  epochReq : BitVec 2
  baseReq : BitVec 3
  epochs : Sparse WeightHandle
  deriving DecidableEq, Repr

def Slot.reset : Slot :=
  { state := .empty, started := false, wmode := false, wreq := false, step := 0, seed := 0, xferAddr := 0, placeAddr := 0,
    progDigest := 0, structDigest := 0, image := none, place := .none, offsets := [], drainAt := 0, sillFault := false,
    digests := [], regionStep := [], regionLast := [], regionTotal := [], closed := [], logNext := 0, joins := [],
    joinDue := false, anchors := [], losses := [], opEvents := [], doneRecs := [], short := [], lossForwarded := false,
    rebind := false, epochCur := 0, baseCur := 7, epochReq := 0, baseReq := 7, epochs := [] }

/-- The CTX block's own registers and the load in progress (08:R234, Tables 8.14, 8.15). -/
structure Ctx where
  loadAddr : Word
  loadLen : Word
  seedLo : Word
  seedHi : Word
  busy : Bool
  slot : BitVec 3
  reason : BitVec 8
  section_ : BitVec 16
  record : BitVec 32
  /-- Address, length and seed of the load in progress. -/
  curAddr : Word
  curLen : Word
  curSeed : BitVec 128
  target : BitVec 4
  slots : Sparse Slot
  deriving DecidableEq, Repr

def Ctx.reset : Ctx := ⟨0, 0, 0, 0, false, 0, 0, 0, 0, 0, 0, 0, 0xF, []⟩

/-! ## Schedule (07) -/

/-- The states of SCH_STATUS (07:Table 7.8). -/
inductive SchState where
  | idle
  | inPound
  | holding
  | boundary
  deriving DecidableEq, Repr

/-- The causes of a hold (07:Table 7.2). -/
inductive HoldCause where
  | mem
  | link
  | sill
  | thermal
  | power
  deriving DecidableEq, Repr

/-- A hold in progress: its tick ρ − 64 (0 for throttle quanta), the cause of its running quantum, the data quanta so far, the AO time of its start. -/
structure Hold where
  tick : Nat
  cause : HoldCause
  quanta : Nat
  start : Nat
  deriving DecidableEq, Repr

/-- The SCH block and the schedule position (07:R204). -/
structure Sch where
  state : SchState
  exec : Option (Fin 8)
  /-- The next step has started: its first pound may begin. -/
  begun : Bool
  pound : Nat
  tickIn : Nat
  phase : Nat
  /-- The phase has started and has not ended (07:R195). -/
  phaseOpen : Bool
  tick : Word
  tickAoHost : Word
  tickAoMc : Word
  tickAoPeer : Word
  holdMem : Word
  holdLink : Word
  holdThermal : Word
  holdPower : Word
  holdSill : Word
  holdNs : Word
  stretch : Word
  longest : Word
  thermalQ : BitVec 16
  powerQ : BitVec 16
  limitUs : BitVec 32
  hold : Option Hold
  /-- Throttle quanta still to insert before the pound's first tick (07:R193). -/
  leftT : Nat
  leftP : Nat
  /-- Sill lead reached, subtree tokens held, subtree token sent, completed token present (07:R184, 11:R301). -/
  leadReached : Bool
  subtree : List Nat
  subtreeSent : Bool
  completed : Bool
  /-- AO time spent at the step boundary in overdue tests (15:R406). -/
  boundaryMs : Nat
  deriving DecidableEq, Repr

def Sch.reset : Sch :=
  { state := .idle, exec := none, begun := false, pound := 0, tickIn := 0, phase := 0, phaseOpen := false, tick := 0, tickAoHost := 0, tickAoMc := 0,
    tickAoPeer := 0, holdMem := 0, holdLink := 0, holdThermal := 0, holdPower := 0, holdSill := 0, holdNs := 0,
    stretch := 0, longest := 0, thermalQ := 0, powerQ := 0, limitUs := 1000000, hold := none, leftT := 0, leftP := 0,
    leadReached := false, subtree := [], subtreeSent := false, completed := false, boundaryMs := 0 }

/-! ## Numeric counters (03:R88) -/

/-- The NUM registers of one slot, the counts of the step in progress and the read copies. -/
structure NumSlot where
  total : Counts
  stepValid : Bool
  stepId : BitVec 40
  last : Counts
  current : Counts
  deriving DecidableEq, Repr

def NumSlot.zero : NumSlot := ⟨.zero, false, 0, .zero, .zero⟩

/-- The NUM block. A read copy's key is 8 × master + slot (masters: 0 host, 1 controller, 2 peer). -/
structure Num where
  slots : Sparse NumSlot
  copies : Sparse (Option Counts)
  thresh : Word
  deriving DecidableEq, Repr

def Num.reset : Num := ⟨[], [], 0⟩

/-! ## Cells (05, 10, 13) -/

/-- The role of a cell (05:Table 5.6). -/
inductive Role where
  | spare
  | enabled
  | audit
  | out
  deriving DecidableEq, Repr

/-- A tile in the accumulators of the array (05:R122): the surveys in use, the sums in row-major order, and for an audit cell what it added and its checksums (05:R142). -/
structure Tile where
  op : Nat
  part : Nat
  rows : List Byte
  cols : List Byte
  acc : List Acc
  added : List Acc
  checkRows : List Acc
  checkCols : List Acc
  positions : Nat
  bad : List Nat
  deriving DecidableEq, Repr

def Tile.zero : Tile := ⟨0, 0, [], [], [], [], [], [], 0, []⟩

/-- A burst in the memory-read lay-by (07:R187): where it is read, where it goes, its release point, and its data once it has arrived. `stale` marks an entry that was cleared when the cell stopped (10:R266). -/
structure Burst where
  slot : BitVec 3
  gen : BitVec 8
  tensor : Nat
  block : Nat
  device : Nat
  /-- Where its four words go. -/
  places : List Nat
  release : Nat
  index : Nat
  channel : Nat
  descr : Nat
  /-- The issue of the descriptor that read it (10:R264). -/
  issue : Nat
  whole : Bool
  data : Option Bytes
  stale : Bool
  deriving DecidableEq, Repr

/-- A byte that a write of the current phase has put into the scratchpad (07:R185): the tick of the pound at which it lands, its place, and the byte that stood there before. -/
structure Landing where
  tick : Nat
  addr : Nat
  old : Byte
  deriving DecidableEq, Repr

/-- A drain into the tile queue (05:R126, R132): its first tick, the first place of its entry, and the values that the entry held before. -/
structure QueueLanding where
  tick : Nat
  base : Nat
  old : Sparse (BitVec 32)
  deriving DecidableEq, Repr

/-- A use of a scratchpad port whose place was known only at its issue (06:R160): the tick, a write or a read, the place. -/
structure PortUse where
  engine : Nat
  tick : Nat
  write : Bool
  addr : Nat
  deriving DecidableEq, Repr

/-- The last drain of the back accumulators (05:R126, R132): its first tick, the tick after its last one, and where it goes: into the tile queue from `base` on, or to the ticks and places of `puts` in the scratchpad. -/
structure Drain where
  start : Nat
  stop : Nat
  queue : Bool
  base : Nat
  puts : List (Nat × Nat)
  deriving DecidableEq, Repr

/-- How a routed read resolved its sides: start and cursor in the scratchpad, the byte offset of its first byte in the tensor. -/
structure RouteAt where
  start : Nat
  cursor : Nat
  offset : Nat
  deriving DecidableEq, Repr

/-- A descriptor written to a channel's queue (10:R274), with the record that wrote it and its write tick. -/
structure Queued where
  descr : Nat
  opId : Nat
  part : Nat
  tick : Nat
  deriving DecidableEq, Repr

/-- The descriptor a channel carries out: the resolved addresses, bursts issued, refused or not (10:R274, R277). -/
structure Current where
  descr : Nat
  opId : Nat
  part : Nat
  /-- Write tick of the descriptor. -/
  tick : Nat
  /-- The number of this issue in the cell. -/
  issue : Nat
  moffset : Int
  saddr : Int
  burst : Nat
  refused : Bool
  /-- Bursts of the whole barges in progress, as taken out of the scratchpad so far, by byte offset div 256. -/
  parts : List (Nat × Bytes)
  deriving DecidableEq, Repr

/-- A whole barge that one issue of a descriptor reads (10:R264 hop 2): the bursts that have arrived, by their index. -/
structure Arrival where
  issue : Nat
  tensor : Nat
  block : Nat
  got : List (Nat × Bytes)
  deriving DecidableEq, Repr

/-- A DMA channel: its queue in the order written, and the current descriptor (10:R274). -/
structure Channel where
  queue : List Queued
  current : Option Current
  /-- The first tick of the pound whose burst slot the channel has not had yet. -/
  free : Nat
  deriving DecidableEq, Repr

def Channel.empty : Channel := ⟨[], none, 0⟩

/-- A snag entry (13:Table 13.2). -/
structure Snag where
  tensor : Nat
  firstBlock : Nat
  lastBlock : Nat
  firstStep : BitVec 40
  lastStep : BitVec 40
  node : BitVec 20
  kind : BitVec 2
  slot : BitVec 3
  gen : BitVec 8
  deriving DecidableEq, Repr

/-- DIE_DMA_LAST (10:Table 10.6). -/
structure DmaLast where
  type : BitVec 2
  channel : BitVec 3
  descr : BitVec 15
  reason : BitVec 4
  block : BitVec 40
  deriving DecidableEq, Repr

/-- A physical cell: its registers, its scratchpad and its engines. -/
structure Cell where
  role : Role
  power : BitVec 3
  suspect : Bool
  auditTiles : Word
  auditFail : Word
  auditSkip : Word
  vecDupFail : Word
  sparseMetaErr : Word
  surveyErr : Word
  towFail : Word
  towStale : Word
  dmaRefused : Word
  dmaLast : DmaLast
  dmaBursts : Word
  spadCe : Word
  spadUe : Word
  workedPhases : Word
  spad : Sparse Byte
  /-- Differences of the stored 8 bytes and 8 check bits from the codeword last written, by 8-byte word (13:R334). -/
  spadErr : Sparse (BitVec 72)
  front : Tile
  /-- Tiles that have issued while the front accumulators still take in the one before: their first accumulation follows its exchange (05:R122, Table 5.4). -/
  issued : List Tile
  back : Tile
  backFull : Bool
  /-- The writes of the current phase, the latest tick first, and the uses of the ports that the image does not fix (06:R160, R172; 07:R185, R200). -/
  landed : List Landing
  ports : List PortUse
  /-- The tile queue (05:R131): 4 entries, tiles written and values read in this pound. -/
  tileQ : Sparse (BitVec 32)
  queueLanded : List QueueLanding
  drain : Option Drain
  tilesIn : Nat
  readOut : Nat
  /-- Reduction accumulators (05:R138), the surveys in use, and the output of each open one (its logical index + 1). -/
  racc : Sparse Acc
  rsurvey : Sparse Byte
  rout : Sparse Nat
  /-- What a vector chain has passed to the reduction unit in this pound (05:R133): the tensor, and its elements by position (scale byte × 2^64 + bits). -/
  feedTensor : Nat
  feed : Sparse (BitVec 72)
  /-- Survey inputs (11:R307): the operation they are for, its rows and columns. -/
  inOp : Nat
  inRows : List Byte
  inCols : List Byte
  channels : Sparse Channel
  /-- Cursors of circular sides, by 2 × descriptor + side (0 memory, 1 scratchpad) (10:R276). -/
  cursors : Sparse Nat
  /-- Where the barges of a route go, as its descriptor resolved it, by route (10:R276, R277, 11:R286). -/
  routeAt : Sparse (Option RouteAt)
  layby : Sparse (Option Burst)
  laybyNext : Nat
  arrivals : List Arrival
  /-- Descriptors issued so far. -/
  issues : Nat
  /-- The cell issued work in this phase (13:R328). -/
  worked : Bool
  late : Bool
  /-- The primary this cell shadows in this phase (13:R328). -/
  shadowOf : Option Nat
  snags : List Snag
  snagOverflow : Bool
  snagIncomplete : Bool
  /-- For each context slot, the first phase that the last passing shadow, or the binding, leaves unchecked: step, pound (13:R339). -/
  clean : Sparse (Nat × Nat)
  /-- It was an audit cell when it left service, and carries the pound on as one (05:R141, 13:R327). -/
  auditLeft : Bool
  /-- In reset, its planks closed (13:R345). -/
  inReset : Bool
  /-- The phase monitor has found the cell hung in this pound; its reset follows the fault at the sill (13:R341). -/
  hung : Bool
  deriving DecidableEq, Repr

def Cell.reset : Cell :=
  { role := .spare, power := 0, suspect := false, auditTiles := 0, auditFail := 0, auditSkip := 0, vecDupFail := 0,
    sparseMetaErr := 0, surveyErr := 0, towFail := 0, towStale := 0, dmaRefused := 0, dmaLast := ⟨0, 0, 0, 0, 0⟩,
    dmaBursts := 0, spadCe := 0, spadUe := 0, workedPhases := 0, spad := [], spadErr := [], front := .zero, issued := [], back := .zero,
    backFull := false, landed := [], ports := [], tileQ := [], queueLanded := [], drain := none, tilesIn := 0, readOut := 0, racc := [], rsurvey := [], rout := [], feedTensor := 0, feed := [], inOp := 0, inRows := [],
    inCols := [], channels := [], cursors := [], routeAt := [], layby := [], laybyNext := 0, arrivals := [], issues := 0, worked := false, late := false,
    shadowOf := none, snags := [], snagOverflow := false, snagIncomplete := false, clean := [],
    auditLeft := false, inReset := true, hung := false }

/-! ## Device memory (09) -/

/-- What is wrong with a stored word (09:R241, R256): differences of symbols from the codeword last written, or the eight side bytes that a traffic generator wrote with no check symbols. -/
inductive WordErr where
  | symbols (l : List (Nat × Byte))
  | noCodeword (side : BitVec 64)
  deriving DecidableEq, Repr

/-- One contribution in an adder queue (09:R250, 02:R61): slot, region tensor, cell, format, bits, anchor, the operation that issued it. -/
structure Contribution where
  slot : Fin 8
  tensor : Nat
  cell : Nat
  format : Nat
  bits : Nat
  anchor : Int
  opId : Nat
  deriving DecidableEq, Repr

/-- MEM_LAST_ERR (09:Table 9.6). -/
structure LastErr where
  type : BitVec 2
  source : BitVec 2
  addr : BitVec 40
  deriving DecidableEq, Repr

/-- A traffic generator's run: the settings it began with (09:R256). -/
structure TgRun where
  pattern : Nat
  mode : Nat
  pcs : Nat
  first : Nat
  last : Nat
  seed : Word
  deriving DecidableEq, Repr

/-- A traffic generator (09:R256, Tables 9.8 to 9.10). -/
structure TrafficGen where
  pattern : BitVec 4
  mode : BitVec 2
  pcs : BitVec 2
  first : BitVec 23
  last : BitVec 23
  seed : Word
  /-- The run in progress (BUSY). -/
  run : Option TgRun
  done : Bool
  pass : Bool
  sideFail : BitVec 8
  errors : BitVec 32
  failAddr : BitVec 40
  failLanes : Word
  deriving DecidableEq, Repr

def TrafficGen.reset : TrafficGen := ⟨0, 0, 0, 0, 0, 0, none, false, false, 0, 0, 0, 0⟩

/-- Is a run in progress (09:Table 9.10)? -/
def TrafficGen.busy (g : TrafficGen) : Bool := g.run.isSome

/-- A stack with its MEM block and its base die (09:R258). -/
structure Stack where
  inService : Bool
  trained : Bool
  hot : Bool
  dump : Bool
  selfRefresh : Bool
  /-- The planks of its interface are closed for a test of it (15:R402). -/
  closed : Bool
  chanOos : BitVec 32
  ce : Word
  ue : Word
  lastErr : LastErr
  periodH : BitVec 8
  thresh : BitVec 32
  /-- Current sweep period in ms when halved below PERIOD_H (09:R245). -/
  shortened : Option Nat
  sweeps : Word
  rfm : Word
  addRetired : Word
  addPeak : Word
  /-- Corrected errors of the running sweep, by frame (09:R244). -/
  sweepCe : Sparse Nat
  queue : List Contribution
  gens : Sparse TrafficGen
  deriving DecidableEq, Repr

def Stack.reset : Stack :=
  { inService := false, trained := false, hot := false, dump := false, selfRefresh := false, closed := false, chanOos := 0, ce := 0, ue := 0,
    lastErr := ⟨0, 0, 0⟩, periodH := 24, thresh := 16, shortened := none, sweeps := 0, rfm := 0, addRetired := 0,
    addPeak := 0, sweepCe := [], queue := [], gens := [] }

/-- Device memory: data bytes by device address, tag nibbles and error patterns by word (09:R235, R240, R241). -/
structure DevMem where
  bytes : Sparse Byte
  tags : Sparse (BitVec 4)
  errs : Sparse (Option WordErr)
  deriving DecidableEq, Repr

/-- A whole barge on its way from a scratchpad, the arrival unit or a link die to a memory base die (10:R264). -/
structure BargeWrite where
  device : Nat
  payload : Bytes
  tag : BitVec 256
  /-- The shard-table entry whose delivery it belongs to, for one that the arrival unit writes (12:R318). -/
  load : Option (Handle × Nat)
  deriving DecidableEq, Repr

/-- A write of part of a barge on its way (10:R264 hop 3): the context that issues it, its unit. -/
structure PartWrite where
  device : Nat
  data : Bytes
  slot : BitVec 3
  gen : BitVec 8
  /-- The shard-table entry whose delivery it belongs to, for one that the arrival unit writes: its barges carry STEP 0 (12:R313, R318). -/
  load : Option (Handle × Nat)
  /-- The unit that requests it (09:R243): its die, its cell or 0xFF. -/
  die : Nat
  cell : Nat
  deriving DecidableEq, Repr

/-- An accumulating burst on its way (10:R278). -/
structure AccBurst where
  slot : BitVec 3
  gen : BitVec 8
  tensor : BitVec 32
  offset : Word
  format : Nat
  data : Bytes
  crc : BitVec 32
  opId : Nat
  anchors : List Int
  /-- The region tensor that the receiver expects at its working area. -/
  expect : BitVec 32
  deriving DecidableEq, Repr

/-- A package transfer in flight (07:R185, R186): source die, destination logical binding, address, bytes, the tick it is due, lost or not. -/
structure PkgTransfer where
  slot : Fin 8
  srcDie : Nat
  dstDie : Nat
  dstCell : Nat
  /-- Where its words go. -/
  places : List Nat
  data : Bytes
  due : Nat
  deriving DecidableEq, Repr

/-- A corrected word waiting for write-back (09:R242): its address and its bytes. -/
structure WriteBack where
  word : Nat
  data : Bytes
  deriving DecidableEq, Repr

/-- A host write below a word, waiting for its read-modify-write (09:R434). -/
structure SubWrite where
  addr : Nat
  data : Bytes
  deriving DecidableEq, Repr

/-- Traffic in flight inside the package. -/
structure Flight where
  barges : List BargeWrite
  parts : List PartWrite
  bursts : List AccBurst
  transfers : List PkgTransfer
  backs : List WriteBack
  subs : List SubWrite
  deriving DecidableEq, Repr

def Flight.none : Flight := ⟨[], [], [], [], [], []⟩

/-! ## Links (11) -/

/-- The packets of 11:Table 11.4 that leave on a port. -/
inductive Packet where
  | barge (head : PacketHead) (seq : BitVec 32) (payload : Bytes) (tag : BitVec 256)
  | ack (seq : BitVec 32) (resend : Bool)
  | sillToken (origin : BitVec 16) (gen : BitVec 8) (step : BitVec 40) (pound : BitVec 20) (completed : Bool)
  | join (position : BitVec 16) (node : BitVec 20) (slot : BitVec 3) (gen : BitVec 8) (digest : Word)
  | lossNotice (node : BitVec 20) (position : BitVec 16) (step : BitVec 40) (pound : BitVec 20)
  | discovery (record : BitVec 256)
  | echo (stamp turnaround : Nat)
  | survey (coll : BitVec 32) (bytes : Bytes)
  | routeRequest (route : BitVec 16) (tensor : BitVec 32) (offset : Nat) (bytes : Nat)
  | shardRequest (r : ShardRequest)
  | shardRefused (r : ShardRequest)
  | shardBarge (payload : Bytes) (tag : BitVec 256)
  | management (data : Bytes)
  deriving DecidableEq, Repr

/-- A packet in a replay buffer (11:R295): its sequence number, the node it goes to, the packet, the times sent. -/
structure Replay where
  seq : BitVec 32
  node : Nat
  packet : Packet
  sends : Nat
  deriving DecidableEq, Repr

/-- The states of a port (11:Table 11.5). -/
inductive PortState where
  | disabled
  | detect
  | train
  | discover
  | up
  | failed
  deriving DecidableEq, Repr

/-- A link port (11:R308). Widths are coded as in Table 11.6: 0, 1, 2 for 1, 2, 4 lanes. -/
structure Port where
  ctlEnable : Bool
  maxWidth : BitVec 2
  state : PortState
  lanesUp : BitVec 4
  lanesOk : BitVec 4
  width : BitVec 2
  partner : Word
  loss : BitVec 16
  cable : BitVec 16
  delta : BitVec 32
  retry : Word
  fecCorr : Word
  fecUncorr : Word
  downs : Word
  /-- The number of the next packet sent; the last of the numbers received in order, and those received after it (11:R295). -/
  nextSeq : BitVec 32
  lastSeq : BitVec 32
  early : List (BitVec 32)
  replay : List Replay
  /-- Round trips of the last 16 echoes, in fabric cycles (11:R292). -/
  trips : List Nat
  /-- δ at the last budget check that a change of it ran, or before the measurement in progress (11:R299). -/
  deltaRef : BitVec 32
  /-- Failed receptions of a packet by sequence number (11:R295). -/
  fails : Sparse Nat
  /-- Held in FAILED after a failed self-test (15:R402). -/
  held : Bool
  deriving DecidableEq, Repr

def Port.reset : Port :=
  { ctlEnable := true, maxWidth := 2, state := .disabled, lanesUp := 0, lanesOk := 0, width := 0, partner := 0, loss := 0,
    cable := 0, delta := 0, retry := 0, fecCorr := 0, fecUncorr := 0, downs := 0, nextSeq := 1, lastSeq := 0, early := [], replay := [],
    trips := [], deltaRef := 0, fails := [], held := false }

/-- A slot of a link lay-by (07:R187, 11:R298): whose it is, the barge, and where it is released. -/
structure LinkSlot where
  slot : Fin 8
  collective : Bool
  number : Nat
  index : Nat
  payload : Bytes
  tag : BitVec 256
  present : Bool
  deriving DecidableEq, Repr

/-- One block of a collective at its home link die (11:R306): contributions received, whether the own one is combined, whether the result is known, the payload so far. -/
structure CollPart where
  slot : Fin 8
  coll : Nat
  block : Nat
  got : Nat
  own : Bool
  result : Bool
  payload : Bytes
  tag : BitVec 256
  deriving DecidableEq, Repr

/-- The survey bytes of a global survey at its home link die (11:R307), coded as a block of a collective. -/
structure SurveyPart where
  slot : Fin 8
  coll : Nat
  got : Nat
  own : Bool
  result : Bool
  bytes : Bytes
  deriving DecidableEq, Repr

/-- One entry of the forwarding table (11:R294): node, the up ports on a fewest-hop path, intermediate modules, the sum of the latencies in ps, the narrowest width on the path in lanes. -/
structure Path where
  node : BitVec 20
  ports : List Nat
  hops : Nat
  delta : Nat
  width : Nat
  deriving DecidableEq, Repr

/-- A peer's request for barges: slot, route, tensor, byte offset, bytes (11:R286). -/
structure RemoteAsk where
  slot : Nat
  route : Nat
  tensor : Nat
  offset : Nat
  bytes : Nat
  deriving DecidableEq, Repr

/-- The LNK blocks (11:R308). Per-die tables are keyed by link die, ports by module port, slots by die × 2^40 + slot. -/
structure Lnk where
  node : BitVec 20
  budgetId : BitVec 32
  budgetKind : BitVec 2
  budgetDeficit : BitVec 24
  lostValid : Bool
  lostPosition : BitVec 16
  lostNode : BitVec 20
  innetWords : Sparse Word
  laybyPeak : Sparse Word
  ports : Sparse Port
  slots : Sparse (Option LinkSlot)
  parts : List CollPart
  surveys : List SurveyPart
  /-- The flooded partner lists and the forwarding table formed from them (11:R294). -/
  links : List FabricLink
  paths : List Path
  /-- The partner lists as this module sent them last. -/
  flooded : List FabricLink
  /-- Packets to nodes that no UP port leads to. -/
  waiting : List Replay
  /-- Peers' requests for barges of regions that have not closed yet (09:R252). -/
  asked : List RemoteAsk
  /-- AO time until which the link dies accept no barges (13:R348). -/
  quietUntil : Nat
  deriving DecidableEq, Repr

def Lnk.reset : Lnk :=
  { node := 0xFFFFF, budgetId := 0, budgetKind := 0, budgetDeficit := 0, lostValid := false, lostPosition := 0,
    lostNode := 0, innetWords := [], laybyPeak := [], ports := [], slots := [], parts := [], surveys := [],
    links := [], paths := [], flooded := [], waiting := [], asked := [], quietUntil := 0 }

/-! ## Weights (12) -/

/-- The WLD block (12:R326). -/
structure Wld where
  tableAddr : Word
  tableCount : Word
  busy : Bool
  reason : BitVec 8
  timeout : Word
  serveEnable : Bool
  serveSlot : BitVec 4
  serveBase : Bool
  serveHandle : BitVec 2
  bases : Sparse WeightHandle
  deriving DecidableEq, Repr

def Wld.reset : Wld := ⟨0, 0, false, 0, 10000, false, 0, false, 0, []⟩

/-! ## Faults and resets (13) -/

/-- A reset in progress at levels 1 to 4 (13:Table 13.3): its level, die and cell, a level-1 reset that returns the cell to service (13:R335), and whether its sample has been taken and reset asserted (13:R346). -/
structure ResetJob where
  level : Nat
  die : Nat
  cell : Nat
  returning : Bool
  asserted : Bool
  /-- Samples that their 200 µs have cut short in a level-2 reset, by cell: the pages that each has (13:R349). -/
  cuts : List (Nat × Nat)
  /-- The failed lanes that the training after a level-2 reset finds, by channel (09:R247). -/
  lanes : List (Nat × Nat)
  deriving DecidableEq, Repr

/-- The FLT block (13:R354). BUSY is that `resets`, oldest first, is not empty. -/
structure Flt where
  /-- FLT_DIE_STATE: two bits for each die (13:Table 13.7). -/
  dieState : Word
  resets : List ResetJob
  level : BitVec 3
  die : BitVec 5
  cell : BitVec 7
  result : BitVec 8
  wdtMs : BitVec 32
  nextPage : BitVec 18
  dumpSeq : Word
  logSel : BitVec 11
  shadowPass : Word
  shadowMismatch : Word
  shadowLate : Word
  shadowNoSpare : Word
  hangs : Word
  plankDrops : Word
  staleMem : Word
  staleLink : Word
  /-- FLT_TOW_FAILh, by h (13:R354). -/
  towFail : Sparse Word
  /-- Dies that have posted 0x500B (13:R332). -/
  noSpare : List Nat
  deriving DecidableEq, Repr

def Flt.reset : Flt :=
  { dieState := 0x0555555555555555, resets := [], level := 0, die := 0, cell := 0, result := 0, wdtMs := 1000, nextPage := 0,
    dumpSeq := 1, logSel := 0, shadowPass := 0, shadowMismatch := 0, shadowLate := 0, shadowNoSpare := 0, hangs := 0,
    plankDrops := 0, staleMem := 0, staleLink := 0, towFail := [], noSpare := [] }

/-! ## Events (14) -/

/-- An event record (14:Table 14.15). -/
structure EvRec where
  payload : BitVec 128
  code : BitVec 16
  gen : BitVec 8
  slot : BitVec 3
  slotValid : Bool
  coalesced : Bool
  phase : Bool
  severity : BitVec 4
  source : BitVec 16
  aoTime : Word
  deriving DecidableEq, Repr

/-- The configuration of an enabled ring (14:R376): SIZE_LOG2, in device memory or not, its address. -/
structure Ring where
  sizeLog2 : Nat
  device : Bool
  base : Nat
  deriving DecidableEq, Repr

/-- The EVT block (14:R383). `phase` is the PHASE that the next record carries. -/
structure Evt where
  err : BitVec 4
  sizeLog2 : BitVec 5
  loc : Bool
  ring : Option Ring
  base : Word
  head : BitVec 16
  tail : BitVec 16
  phase : Bool
  coalesced : Word
  masked : Word
  overflows : Word
  sbEnable : BitVec 16
  sbActiveLow : BitVec 16
  sbMasked : BitVec 16
  /-- The accepted level of each input's contact, high or low (14:R380). -/
  sbPin : BitVec 16
  /-- Activation times of each input, latest first, at most 64 (14:R381), and the activation counts. -/
  sbTimes : Sparse (List Nat)
  sbCount : Sparse Word
  /-- Pending sources with their latched records (14:R374), by source. -/
  pend : Sparse (Option EvRec)
  mask : BitVec 512
  wakeEn : BitVec 16
  wakeSrc : Sparse (BitVec 9)
  deriving DecidableEq, Repr

def Evt.reset : Evt :=
  { err := 0, sizeLog2 := 12, loc := false, ring := none, base := 0, head := 0, tail := 0, phase := true, coalesced := 0,
    masked := 0, overflows := 0, sbEnable := 0xFFFF, sbActiveLow := 0x002F, sbMasked := 0, sbPin := 0x002F, sbTimes := [],
    sbCount := [], pend := [], mask := 0, wakeEn := 0, wakeSrc := [] }

/-! ## Ownership (14) -/

/-- A pending handover (14:R365): target, AO time of its end. -/
structure Handover where
  target : Master
  stop : Nat
  deriving DecidableEq, Repr

/-- OWN_RESULT as a master reads it (14:Table 14.10). -/
structure OwnResult where
  msg : BitVec 4
  result : BitVec 4
  deriving DecidableEq, Repr

/-- OWN_DROP_LAST and GLB_BAD_LAST (14:Table 14.12). -/
structure AccessLast where
  master : BitVec 2
  kind : BitVec 2
  addr : BitVec 40
  deriving DecidableEq, Repr

/-- The OWN block (14:R369). -/
structure Own where
  owner : Option Master
  token : BitVec 32
  epoch : BitVec 8
  /-- AO time at which the lease reaches 0. -/
  leaseEnd : Nat
  handover : Option Handover
  peerNode : BitVec 20
  pcieReset : Bool
  allowPeer : Bool
  allowHost : Bool
  resultHost : OwnResult
  resultMc : OwnResult
  resultPeer : OwnResult
  droppedHost : Word
  droppedMc : Word
  droppedPeer : Word
  dropLast : AccessLast
  deriving DecidableEq, Repr

def Own.reset : Own :=
  { owner := none, token := 0, epoch := 0, leaseEnd := 0, handover := none, peerNode := 0xFFFFF, pcieReset := true,
    allowPeer := false, allowHost := true, resultHost := ⟨0, 0⟩, resultMc := ⟨0, 0⟩, resultPeer := ⟨0, 0⟩, droppedHost := 0,
    droppedMc := 0, droppedPeer := 0, dropLast := ⟨0, 0, 0⟩ }

/-! ## Host die (14) -/

/-- A host DMA channel (14:Tables 14.25, 14.26): its registers, its status, and the transfer latched at START. -/
structure DmaChan where
  len : BitVec 32
  slot : BitVec 3
  base : Bool
  irq : Bool
  barge : Bool
  dir : Bool
  host : Word
  dev : BitVec 40
  busy : Bool
  done : Bool
  error : BitVec 4
  ue : Bool
  checkFails : BitVec 24
  firstFail : BitVec 32
  curLen : Nat
  curSlot : BitVec 3
  curBase : Bool
  curIrq : Bool
  curBarge : Bool
  curDir : Bool
  curHost : Nat
  curDev : Nat
  record : Nat
  aborting : Bool
  deriving DecidableEq, Repr

def DmaChan.reset : DmaChan :=
  { len := 0, slot := 0, base := false, irq := false, barge := false, dir := false, host := 0, dev := 0, busy := false,
    done := false, error := 0, ue := false, checkFails := 0, firstFail := 0, curLen := 0, curSlot := 0, curBase := false,
    curIrq := false, curBarge := false, curDir := false, curHost := 0, curDev := 0, record := 0, aborting := false }

/-- The GLB block (14:R384), the MCTP endpoint identifier and the I3C dynamic address (14:R363), and the PCIe function's state (14:R357, R378): BAR2's size, the MSI-X table by 4-byte word with the pending bit of vector 0, MSI-X Enable and Function Mask, D3hot. -/
structure Glb where
  bar2Base : Word
  badAccess : Word
  badLast : AccessLast
  dma : Sparse DmaChan
  eid : Byte
  bar2Size : Nat
  msix : Sparse (BitVec 32)
  msixPending : Bool
  msixEnable : Bool
  msixMask : Bool
  d3 : Bool
  i3cAddr : Option (BitVec 7)
  deriving DecidableEq, Repr

def Glb.reset : Glb :=
  { bar2Base := 0, badAccess := 0, badLast := ⟨0, 0, 0⟩, dma := [], eid := 0, bar2Size := 0x40000000, msix := [], msixPending := false,
    msixEnable := false, msixMask := false, d3 := false, i3cAddr := none }

/-! ## Security and self-test (15) -/

/-- The fuses (15:Table 15.1). KEY_HASH is byte 0 first. -/
structure Fuses where
  uid : Word
  grade : BitVec 4
  stepMajor : BitVec 4
  stepMinor : BitVec 4
  seed : BitVec 256
  keyHash0 : BitVec 512
  keyHash1 : BitVec 512
  keyHash2 : BitVec 512
  revoked : BitVec 3
  svn : Nat
  field : Bool
  ret : Bool
  romMeas : BitVec 512
  /-- PLL trims and SRAM repairs: visible nowhere, and of no stated width. -/
  trims : Nat
  deriving DecidableEq, Repr

/-- The boot states (15:Table 15.3). -/
inductive Boot where
  | rom
  | wait
  | fetch
  | verify
  | init
  | running
  | failed
  deriving DecidableEq, Repr

/-- The contents of an attestation report taken at admission (15:R397). -/
structure Report where
  addr : Nat
  body : Bytes
  deriving DecidableEq, Repr

/-- The SEC block (15:R409). `life` is the lifecycle in force: 0 MANUFACTURE, 1 FIELD, 2 RETURN (15:R393). -/
structure Sec where
  busy : Bool
  boot : Boot
  lastCmd : BitVec 4
  reason : BitVec 8
  keySlot : BitVec 2
  fwVersion : BitVec 32
  objAddr : Word
  objLen : Word
  /-- SEC_OBJ_LEN as LOAD_FW took it. -/
  fetchLen : Nat
  /-- The object that the ROM verifies, while in VERIFY. -/
  object : Bytes
  reportAddr : Word
  reportSeq : Word
  fwFails : Word
  nonce : BitVec 512
  fwMeas : BitVec 512
  packChain : BitVec 512
  idKey : BitVec 512
  idSeed : BitVec 768
  fwSvn : BitVec 8
  scanEn : Bool
  seedLock : Bool
  life : BitVec 2
  report : Option Report
  deriving DecidableEq, Repr

def Sec.reset : Sec :=
  { busy := false, boot := .rom, lastCmd := 0, reason := 0, keySlot := 0, fwVersion := 0, objAddr := 0, objLen := 0, fetchLen := 0, object := [],
    reportAddr := 0, reportSeq := 0, fwFails := 0, nonce := 0, fwMeas := 0, packChain := 0, idKey := 0, idSeed := 0,
    fwSvn := 0, scanEn := false, seedLock := false, life := 0, report := none }

/-- A test record (15:Table 15.8). -/
structure TestRec where
  id : BitVec 32
  expect : Word
  seed : Word
  count : BitVec 32
  limit : BitVec 32
  intervalH : BitVec 16
  stepping : BitVec 8
  kind : BitVec 4
  cls : BitVec 4
  deriving DecidableEq, Repr

/-- A test on a unit: due, deferred or running (15:R404 to R407). `cmd` marks one that TST_CMD started, `out` one whose unit was out of service. -/
structure TestJob where
  id : BitVec 32
  unit : BitVec 8
  cell : BitVec 7
  due : Nat
  overdue : Bool
  cmd : Bool
  out : Bool
  deriving DecidableEq, Repr

/-- The TST block (15:R410). -/
structure Tst where
  busy : Bool
  result : BitVec 3
  testId : BitVec 32
  unit : BitVec 8
  cell : BitVec 7
  signature : Word
  limitMin : BitVec 32
  runs : Word
  fails : Word
  forced : Word
  table : List TestRec
  packs : BitVec 8
  deferred : List TestJob
  running : List TestJob
  /-- Cells that have left the roster for a deferred test, until the boundary at which they return as spares (15:R405). -/
  moved : List Nat
  /-- AO time in ns at which a held test first counts its interval, by TEST_ID: the boot, or the acceptance of its pack (15:R404). -/
  born : Sparse Nat
  /-- AO time in ns of the last run of a test on a unit, by `testKey` (15:R404). -/
  ran : Sparse Nat
  deriving DecidableEq, Repr

def Tst.reset : Tst :=
  { busy := false, result := 0, testId := 0, unit := 0, cell := 0, signature := 0, limitMin := 240, runs := 0, fails := 0,
    forced := 0, table := [], packs := 0, deferred := [], running := [], moved := [], born := [], ran := [] }

/-! ## Power (16) -/

/-- The power states (16:Table 16.1). -/
inductive PowerState where
  | a0
  | a1
  | a2
  | a3
  deriving DecidableEq, Repr

/-- A power transition in progress: the state it leaves, the state it enters, its cause (14:Table 14.27, 0x6007). -/
structure Transition where
  old : PowerState
  new : PowerState
  cause : BitVec 9
  deriving DecidableEq, Repr

/-- A sensor's reading (16:Table 16.20). -/
structure Reading where
  valid : Bool
  value : BitVec 32
  deriving DecidableEq, Repr

/-- The PWR block (16:R433) and the start budget (16:R414). -/
structure Pwr where
  state : PowerState
  reason : BitVec 3
  req : BitVec 2
  trans : Option Transition
  /-- The wake that came first during an entry (16:Table 16.19, SOURCE), and the last value of REQ written during a transition (16:R413). -/
  laterWake : Option (BitVec 9)
  laterReq : Option (BitVec 2)
  cap : Word
  cp : Word
  aoCmp : Word
  outletLim : BitVec 8
  inletLim : BitVec 8
  cmpEn : BitVec 8
  sigdet : BitVec 36
  wakeFrom : BitVec 2
  wakeSource : BitVec 9
  wakeUs : BitVec 52
  starts : Word
  halvings : Word
  halved : Bool
  /-- AO time of the last start droop; starts of the last microsecond: (AO time, die). -/
  lastDroop : Nat
  recent : List (Nat × Nat)
  sensors : Sparse Reading
  sensorBad : List Nat
  stretching : Bool
  tripped : List Nat
  /-- AO time at which the low-flow interval began; the event of the interval has been posted (16:R426). -/
  flowSince : Option Nat
  flowPosted : Bool
  deriving DecidableEq, Repr

def Pwr.reset : Pwr :=
  { state := .a0, reason := 0, req := 0, trans := none, laterWake := none, laterReq := none, cap := 3600, cp := 4180, aoCmp := 0, outletLim := 70,
    inletLim := 40, cmpEn := 0x0F, sigdet := 0, wakeFrom := 0, wakeSource := 0, wakeUs := 0, starts := 0, halvings := 0,
    halved := false, lastDroop := 0, recent := [], sensors := [], sensorBad := [], stretching := false, tripped := [],
    flowSince := none, flowPosted := false }

/-! ## Always-on domain (16:R417, 13:R353) -/

/-- The always-on domain: AO time in ns, the error log, the marks and lists of the always-on SRAM, FLT_LAST_RESET, the comparators, the rails. -/
structure AlwaysOn where
  time : Word
  logCount : Word
  logNext : BitVec 16
  log : Sparse (Option EvRec)
  /-- Retired frames of each stack, by stack (09:R244). -/
  retired : Sparse (List Nat)
  /-- Failed lanes repaired, by stack × 32 + channel (09:R247). -/
  repairs : Sparse Nat
  cursors : Sparse Nat
  /-- Cells marked out of service: die × 68 + cell (13:R335). -/
  oos : List Nat
  gens : Sparse (BitVec 8)
  resetKind : BitVec 4
  resetCause : BitVec 8
  resetUs : BitVec 52
  cmpActive : BitVec 8
  /-- Main rails on, THERMTRIP_N low, main input seen below 20 V since the trip (16:R419, R425). -/
  railsOn : Bool
  aoPower : Bool
  tripLatched : Bool
  inputFell : Bool
  deriving DecidableEq, Repr

/-- Just after a power-on reset by main power at AO time 0 (13:Table 13.10: KIND 3, CAUSE 6). -/
def AlwaysOn.reset : AlwaysOn :=
  { time := 0, logCount := 0, logNext := 1, log := [], retired := [], repairs := [], cursors := [], oos := [], gens := [],
    resetKind := 3, resetCause := 6, resetUs := 0, cmpActive := 0, railsOn := true, aoPower := true, tripLatched := false,
    inputFell := false }

/-! ## What leaves the block -/

/-- What the block sends out: the answers, notifications, host-bus writes, packets and pins that a command causes. -/
inductive Output where
  /-- A register read's answer: completion code 0 done, 1 dropped, 2 bad access (14:R363). -/
  | answer (m : Master) (code : Nat) (poison : Bool) (data : Bytes)
  /-- A PCIe completion of a BAR0 or BAR2 read. -/
  | completion (poison : Bool) (data : Bytes)
  /-- The ring is not empty (14:R378). -/
  | notify (m : Master)
  /-- A write to the host bus (host DMA, a ring in host memory). -/
  | hostWrite (addr : Nat) (data : Bytes)
  /-- A read of the host bus by the host DMA for the arrival unit: address, length (12:R318). -/
  | hostFetch (addr length : Nat)
  /-- A packet on a port, with the CRC-32C that ends it, none for a barge (11:R290). -/
  | packet (port : Nat) (p : Packet) (crc : Option (BitVec 32))
  /-- The partner lists that a link die floods on a port (11:R294). -/
  | partnerLists (port : Nat) (links : List FabricLink)
  | mctp (data : Bytes)
  | pldm (data : Bytes)
  /-- THERMTRIP_N driven low, or MAIN_PG changed. -/
  | thermtrip
  | mainGood (good : Bool)
  deriving DecidableEq, Repr

/-- The state of the block. `pending` is the queue of commands, first in first out; `out` is what has left, latest first; `fresh` is the counter of free values. -/
structure State where
  pending : List Instr
  out : List Output
  fresh : Nat
  ao : AlwaysOn
  fuses : Fuses
  sec : Sec
  tst : Tst
  glb : Glb
  own : Own
  evt : Evt
  pwr : Pwr
  ctx : Ctx
  sch : Sch
  num : Num
  wld : Wld
  flt : Flt
  stks : Sparse Stack
  mem : DevMem
  lnk : Lnk
  cells : Sparse Cell
  flight : Flight
  deriving DecidableEq, Repr

/-- The fuses as a module leaves manufacture: its own number, seed, key hashes and ROM measurement, which are free; grade F, stepping 0.0, security version 0, no slot revoked, lifecycle MANUFACTURE (log entry 5). -/
def Fuses.blank : Fuses :=
  { uid := Config.fuseUid, grade := 0, stepMajor := 0, stepMinor := 0, seed := Config.fuseSeed, keyHash0 := Config.fuseKeyHash 0
    keyHash1 := Config.fuseKeyHash 1, keyHash2 := Config.fuseKeyHash 2, revoked := 0, svn := 0, field := false, ret := false
    romMeas := Config.romMeasurement, trims := Config.fuseTrims }

/-- The block right after a power-on reset (13:R348, R353): STATE ROM, nobody owns it, every slot EMPTY, memory empty. -/
def State.reset : State :=
  { pending := [], out := [], fresh := 0, ao := .reset, fuses := .blank, sec := .reset, tst := .reset, glb := .reset,
    own := .reset, evt := .reset, pwr := .reset, ctx := .reset, sch := .reset, num := .reset, wld := .reset, flt := .reset,
    stks := [], mem := ⟨[], [], []⟩, lnk := .reset, cells := [], flight := .none }

end Sys2Proof.Machine
end

