-- ==== Sys2Proof/Machine/Numbers.lean ====
section
/-! DEFINITION. Exact values, the formats of chapter 03, rounding into a value set, block scales, and binary32 arithmetic. -/

namespace Sys2Proof.Machine

open Sys2Proof

/-- An exact value: (−1)^neg × mag × 2^e, an infinity, or NaN. A zero keeps its sign. -/
inductive Val where
  | nan
  | inf (neg : Bool)
  | fin (neg : Bool) (mag : Nat) (e : Int)
  deriving DecidableEq, Repr

/-- floor(n × 2^k). -/
def scale2 (n : Nat) (k : Int) : Nat := if 0 ≤ k then n * 2 ^ k.toNat else n / 2 ^ (-k).toNat

/-- ceil(log2 k) (02:R44): the least n with 2^n ≥ k. -/
def ceilLog2 (k : Nat) : Nat := if k ≤ 1 then 0 else Nat.log2 (k - 1) + 1

def ceilDiv (a b : Nat) : Nat := (a + b - 1) / b

/-- m1 × 2^e1 ≤ m2 × 2^e2. -/
def leMag (m1 : Nat) (e1 : Int) (m2 : Nat) (e2 : Int) : Bool :=
  let e := min e1 e2
  decide (m1 * 2 ^ (e1 - e).toNat ≤ m2 * 2 ^ (e2 - e).toNat)

/-- The exact value of an integer times a power of two; zero is +0 (02:R55). -/
def Val.ofInt (q : Int) (e : Int) : Val := .fin (decide (q < 0)) q.natAbs e

/-! ## Formats (03:Table 3.1) -/

def isBlockFmt (f : Nat) : Bool := decide (1 ≤ f ∧ f ≤ 6)
def isAncFmt (f : Nat) : Bool := f == 0x20 || f == 0x21 || f == 0x22
def isFormat (f : Nat) : Bool := isBlockFmt f || f == 0x10 || f == 0x11 || f == 0x12 || f == 0x13 || isAncFmt f

/-- Element bits of a format (01:Table 1.3). -/
def fmtBits : Nat → Nat
  | 0x01 => 4
  | 0x02 => 6
  | 0x03 => 6
  | 0x04 => 8
  | 0x05 => 8
  | 0x06 => 8
  | 0x10 => 16
  | 0x11 => 32
  | 0x12 => 32
  | 0x13 => 64
  | 0x20 => 32
  | 0x21 => 64
  | 0x22 => 128
  | _ => 8

/-- Mantissa bits, bias and largest finite magnitude code of a floating-point format (03:Table 3.1). -/
def floatParams : Nat → Nat × Int × Nat
  | 0x01 => (1, 1, 0x7)
  | 0x02 => (2, 3, 0x1F)
  | 0x03 => (3, 1, 0x1F)
  | 0x04 => (3, 7, 0x7E)
  | 0x05 => (2, 15, 0x7B)
  | 0x10 => (7, 127, 0x7F7F)
  | _ => (23, 127, 0x7F7FFFFF)

/-- The value of a magnitude code (03:R67). -/
def magValue (p : Nat) (bias : Int) (code : Nat) : Nat × Int :=
  let x := code / 2 ^ p
  let f := code % 2 ^ p
  if x = 0 then (f, 1 - bias - p) else (2 ^ p + f, (x : Int) - bias - p)

/-- Two's complement of the low `n` bits. -/
def signedOf (n : Nat) (x : Nat) : Int :=
  let y := x % 2 ^ n
  if y < 2 ^ (n - 1) then y else (y : Int) - 2 ^ n

/-- The low `n` bits of an integer. -/
def bitsOf (n : Nat) (x : Int) : Nat := (x % (2 ^ n : Nat)).toNat

/-- Largest finite anchored magnitude is 2^w − 1 (02:Table 2.2). -/
def ancWindow : Nat → Nat
  | 0x20 => 30
  | 0x21 => 62
  | 0x22 => 126
  | _ => 94

/-- The container bits of a window; the compatibility window sits in 128 bits (02:R64). -/
def ancBits : Nat → Nat
  | 0x20 => 32
  | 0x21 => 64
  | 0x22 => 128
  | _ => 128

/-- The value of an encoding (03:R67, R69): format, E8M0 scale byte, element bits, anchor of an anchored element. -/
def decodeVal (f : Nat) (scale : Nat) (bits : Nat) (anchor : Int) : Val :=
  let n := fmtBits f
  let x := bits % 2 ^ n
  if isBlockFmt f ∧ scale = 255 then .nan
  else if f = 0x06 then
    let s := signedOf 8 x
    .fin (decide (s < 0)) s.natAbs (-6 + ((scale : Int) - 127))
  else if f = 0x12 ∨ f = 0x13 then .ofInt (signedOf n x) 0
  else if isAncFmt f then
    let q := signedOf n x
    let w := ancWindow f
    if q.natAbs < 2 ^ w then .ofInt q (anchor - w)
    else if q = 2 ^ (n - 1) - 1 then .inf false
    else if q = -(2 ^ (n - 1) : Int) + 1 then .inf true
    else .nan
  else
    let (p, bias, maxc) := floatParams f
    let neg := decide (x / 2 ^ (n - 1) = 1)
    let c := x % 2 ^ (n - 1)
    let se : Int := if isBlockFmt f then (scale : Int) - 127 else 0
    if c ≤ maxc then
      let (m, e) := magValue p bias c
      .fin neg m (e + se)
    else if (f = 0x05 ∧ c = 0x7C) ∨ (f = 0x10 ∧ c = 0x7F80) ∨ (f = 0x11 ∧ c = 0x7F800000) then .inf neg
    else .nan

/-! ## Rounding (03:R75, R84) -/

/-- A magnitude as the code at or below it with the remainder of a code step, as a fraction. -/
structure Split where
  code : Nat
  rem : Nat
  den : Nat
  deriving DecidableEq, Repr

/-- The largest code of a floating-point format at or below m × 2^e. -/
def splitFloat (p : Nat) (bias : Int) (m : Nat) (e : Int) : Split :=
  if m = 0 then ⟨0, 0, 1⟩ else
  let emin : Int := 1 - bias - p
  let u := max ((Nat.log2 m : Int) + e - p) emin
  let base := (u - emin).toNat * 2 ^ p
  if u ≤ e then ⟨base + m * 2 ^ (e - u).toNat, 0, 1⟩
  else ⟨base + m / 2 ^ (u - e).toNat, m % 2 ^ (u - e).toNat, 2 ^ (u - e).toNat⟩

/-- The largest multiple of 2^g at or below m × 2^e. -/
def splitGrid (g : Int) (m : Nat) (e : Int) : Split :=
  if g ≤ e then ⟨m * 2 ^ (e - g).toNat, 0, 1⟩
  else ⟨m / 2 ^ (g - e).toNat, m % 2 ^ (g - e).toNat, 2 ^ (g - e).toNat⟩

/-- Round to nearest even, or with a random word stochastically; `neg` is the sign (R84: "up" is toward +∞). -/
def roundSplit (neg : Bool) (word : Option Nat) (s : Split) : Nat :=
  if s.rem = 0 then s.code else
  match word with
  | none => if 2 * s.rem > s.den ∨ (2 * s.rem = s.den ∧ s.code % 2 = 1) then s.code + 1 else s.code
  | some r =>
    if neg then (if r < (s.den - s.rem) * 2 ^ 32 / s.den then s.code else s.code + 1)
    else (if r < s.rem * 2 ^ 32 / s.den then s.code + 1 else s.code)

/-- Rounding into a value set whose largest magnitude of this sign is `top`; a value beyond it becomes `top` and counts (R81). -/
def roundInto (neg : Bool) (word : Option Nat) (top : Nat) (s : Split) : Nat × Bool :=
  if top < s.code ∨ (s.code = top ∧ s.rem ≠ 0) then (top, true) else (roundSplit neg word s, false)

/-- The largest magnitude code of each sign: (positive, negative). -/
def topCode : Nat → Nat × Nat
  | 0x06 => (127, 127)
  | 0x12 => (2 ^ 31 - 1, 2 ^ 31)
  | 0x13 => (2 ^ 63 - 1, 2 ^ 63)
  | f => ((floatParams f).2.2, (floatParams f).2.2)

/-- The bits of a sign and a magnitude code. A zero is signed only in a floating-point format (R82). -/
def packCode (f : Nat) (neg : Bool) (code : Nat) : Nat :=
  if f = 0x06 ∨ f = 0x12 ∨ f = 0x13 then bitsOf (fmtBits f) (if neg then -(code : Int) else code)
  else (if neg then 2 ^ (fmtBits f - 1) else 0) + code

/-- Conversion of one exact value into an element (R77 to R82): target format, scale exponent of its block, random word where the recipe is stochastic, whether the source is an anchored sum. The answer is the bits and whether the write counts. A NaN for a block-scaled target is the block's matter (R76). A value that rounds to zero keeps its source's sign, that of an INT8 element too (log entry 176). -/
def convertVal (f : Nat) (se : Int) (word : Option Nat) (fromSum : Bool) (v : Val) : Nat × Bool :=
  match v with
  | .nan =>
    if f = 0x10 then (0x7FC0, false) else if f = 0x11 then (0x7FC00000, false)
    else if f = 0x12 ∨ f = 0x13 then (0, true) else (0, false)
  | .inf neg =>
    if f = 0x10 then ((if neg then 0xFF80 else 0x7F80), false)
    else if f = 0x11 then ((if neg then 0xFF800000 else 0x7F800000), false)
    else (packCode f neg (if neg then (topCode f).2 else (topCode f).1), true)
  | .fin neg m e =>
    let top := if neg then (topCode f).2 else (topCode f).1
    let s := if f = 0x06 then splitGrid (-6) m (e - se) else if f = 0x12 ∨ f = 0x13 then splitGrid 0 m e
      else splitFloat (floatParams f).1 (floatParams f).2.1 m (e - se)
    let (c, sat) := roundInto neg word top s
    (packCode f (neg && !(fromSum && c == 0)) c, sat)

/-- The recipe limit M of a block-scaled format, as m × 2^e (R74). -/
def recipeLimit (f : Nat) : Nat × Int :=
  if f = 0x06 then (127, -6) else magValue (floatParams f).1 (floatParams f).2.1 (floatParams f).2.2

/-- The largest magnitude among finite values. -/
def amax : List Val → Nat × Int
  | [] => (0, 0)
  | .fin _ m e :: t => let a := amax t; if leMag a.1 a.2 m e then (m, e) else a
  | _ :: t => amax t

/-- The scale byte of a block (R74). -/
def recipeScale (f : Nat) (xs : List Val) : Nat :=
  if xs.any (fun v => v == .nan) then 0xFF
  else if xs.any (fun v => match v with | .inf _ => true | _ => false) then 0xFE
  else
    let a := amax xs
    let l := recipeLimit f
    match (List.range 255).find? (fun (b : Nat) => leMag a.1 a.2 l.1 (l.2 + ((b : Int) - 127))) with
    | some b => b
    | none => 0xFE

/-- A block written into a block-scaled format (R74, R76): the scale byte and the elements with their counts. The list holds an exact value and a random word for each position; a position outside the shape is `none` and is written +0 (R68). -/
def convertBlock (f : Nat) (fromSum : Bool) (xs : List (Option (Val × Option Nat))) : Nat × List (Nat × Bool) :=
  let sc := recipeScale f (xs.filterMap (fun x => x.map (fun y => y.1)))
  if sc = 0xFF then (0xFF, xs.map (fun _ => (0, false)))
  else (sc, xs.map (fun x => match x with
    | none => (0, false)
    | some (v, w) => convertVal f ((sc : Int) - 127) w fromSum v))

/-! ## Binary32 (03:R91 to R98) -/

/-- A binary32 word with the mark that an operation in its computation saturated (R86). -/
structure F32 where
  bits : BitVec 32
  sat : Bool
  deriving DecidableEq, Repr

def f32NaN : BitVec 32 := 0x7FC00000
def f32Max (neg : Bool) : BitVec 32 := if neg then 0xFF7FFFFF else 0x7F7FFFFF
def f32Inf (neg : Bool) : BitVec 32 := if neg then 0xFF800000 else 0x7F800000
def f32Zero (neg : Bool) : BitVec 32 := if neg then 0x80000000 else 0

def f32Val (x : BitVec 32) : Val := decodeVal 0x11 0 x.toNat 0

def isNaN32 (x : BitVec 32) : Bool := f32Val x == .nan

/-- A finite exact result rounded to nearest even; a result whose rounding is infinite becomes the largest finite value and counts (R92). -/
def roundF32 (neg : Bool) (m : Nat) (e : Int) : F32 :=
  let c := roundSplit neg none (splitFloat 23 127 m e)
  if 0x7F7FFFFF < c then ⟨f32Max neg, true⟩ else ⟨(if neg then 0x80000000 else 0) + BitVec.ofNat 32 c, false⟩

/-- The sum of two finite exact values, as an integer and an exponent. -/
def addExact (n1 : Bool) (m1 : Nat) (e1 : Int) (n2 : Bool) (m2 : Nat) (e2 : Int) : Int × Int :=
  let e := min e1 e2
  let a : Int := m1 * 2 ^ (e1 - e).toNat
  let b : Int := m2 * 2 ^ (e2 - e).toNat
  ((if n1 then -a else a) + (if n2 then -b else b), e)

/-- Exact value arithmetic to binary32: p + a for exact p and a (R91, R92, R94). -/
def addVal (p a : Val) : F32 :=
  match p, a with
  | .nan, _ => ⟨f32NaN, false⟩
  | _, .nan => ⟨f32NaN, false⟩
  | .inf n1, .inf n2 => if n1 = n2 then ⟨f32Inf n1, false⟩ else ⟨f32NaN, false⟩
  | .inf n, _ => ⟨f32Inf n, false⟩
  | _, .inf n => ⟨f32Inf n, false⟩
  | .fin n1 m1 e1, .fin n2 m2 e2 =>
    let (q, e) := addExact n1 m1 e1 n2 m2 e2
    if q = 0 then ⟨f32Zero (n1 && n2), false⟩ else roundF32 (decide (q < 0)) q.natAbs e

/-- The exact product. -/
def mulVal (p a : Val) : Val :=
  match p, a with
  | .nan, _ => .nan
  | _, .nan => .nan
  | .inf n1, .inf n2 => .inf (n1 != n2)
  | .inf n1, .fin n2 m _ => if m = 0 then .nan else .inf (n1 != n2)
  | .fin n1 m _, .inf n2 => if m = 0 then .nan else .inf (n1 != n2)
  | .fin n1 m1 e1, .fin n2 m2 e2 => .fin (n1 != n2) (m1 * m2) (e1 + e2)

/-- An exact value rounded to binary32 as a vector result. -/
def valF32 : Val → F32
  | .nan => ⟨f32NaN, false⟩
  | .inf n => ⟨f32Inf n, false⟩
  | .fin n m e => roundF32 n m e

def negVal : Val → Val
  | .nan => .nan
  | .inf n => .inf (!n)
  | .fin n m e => .fin (!n) m e

def f32Neg (x : BitVec 32) : BitVec 32 := x ^^^ 0x80000000

def addF32 (p a : BitVec 32) : F32 := addVal (f32Val p) (f32Val a)
def subF32 (p a : BitVec 32) : F32 := addVal (f32Val p) (negVal (f32Val a))
def mulF32 (p a : BitVec 32) : F32 := valF32 (mulVal (f32Val p) (f32Val a))

/-- Fused multiply-add, rounded once (R91). -/
def fmaF32 (p a b : BitVec 32) : F32 := addVal (mulVal (f32Val p) (f32Val a)) (f32Val b)

/-- The order of two values that are not NaN; −0 and +0 are equal. -/
def ltVal (p a : Val) : Bool :=
  match p, a with
  | .nan, _ => false
  | _, .nan => false
  | .inf n1, .inf n2 => n1 && !n2
  | .inf n, _ => n
  | _, .inf n => !n
  | .fin n1 m1 e1, .fin n2 m2 e2 => decide ((addExact n1 m1 e1 (!n2) m2 e2).1 < 0)

def eqVal (p a : Val) : Bool :=
  p != .nan && a != .nan && !ltVal p a && !ltVal a p

/-- Maximum with −0 below +0 (R95). -/
def maxF32 (p a : BitVec 32) : BitVec 32 :=
  if isNaN32 p || isNaN32 a then f32NaN
  else if ltVal (f32Val p) (f32Val a) then a
  else if ltVal (f32Val a) (f32Val p) then p
  else p &&& a

/-- Minimum with −0 below +0 (R95). -/
def minF32 (p a : BitVec 32) : BitVec 32 :=
  if isNaN32 p || isNaN32 a then f32NaN
  else if ltVal (f32Val p) (f32Val a) then p
  else if ltVal (f32Val a) (f32Val p) then a
  else p ||| a

/-- A comparison's mask (R96): 1.0 or +0. -/
def maskF32 (b : Bool) : BitVec 32 := if b then 0x3F800000 else 0

/-- Comparison codes 0x07 to 0x0C of Table 8.7. -/
def cmpF32 (code : Nat) (p a : BitVec 32) : BitVec 32 :=
  let x := f32Val p
  let y := f32Val a
  let un := x == .nan || y == .nan
  maskF32 (match code with
    | 0x07 => eqVal x y
    | 0x08 => !eqVal x y
    | 0x09 => ltVal x y
    | 0x0A => !un && !ltVal y x
    | 0x0B => ltVal y x
    | _ => !un && !ltVal x y)

/-- Widening of an operand element to binary32 (R91, Table 3.4): exact but for the rounding of integers and the overflow of a block-scaled element (R81). -/
def widen (f scale bits : Nat) : F32 :=
  if f = 0x11 then ⟨BitVec.ofNat 32 bits, false⟩
  else
    match decodeVal f scale bits 0 with
    | .nan => ⟨f32NaN, false⟩
    | .inf n => ⟨f32Inf n, false⟩
    | .fin n m e => let (b, _) := convertVal 0x11 0 none false (.fin n m e); ⟨BitVec.ofNat 32 b, false⟩

end Sys2Proof.Machine
end

