-- ==== Sys2Proof/Machine/Functions.lean ====
section
/-! DEFINITION. The correctly rounded functions of 03:Table 3.9: square root, reciprocal square root and division from exact integer quotients; exp, log, tanh and sigmoid from nested intervals of fixed-point numbers that are narrowed until both ends round alike. -/

namespace Sys2Proof.Machine

open Sys2Proof

/-- floor(sqrt n), bit by bit from bit `k`. -/
def isqrtFrom (n : Nat) : Nat → Nat → Nat
  | 0, r => if (r + 1) * (r + 1) ≤ n then r + 1 else r
  | k + 1, r => let t := r + 2 ^ (k + 1); isqrtFrom n k (if t * t ≤ n then t else r)

def isqrt (n : Nat) : Nat := if n = 0 then 0 else isqrtFrom n (Nat.log2 n / 2) 0

/-- Rounds the value m × 2^e, or one strictly between it and (m + 1) × 2^e when `inexact`; m has more bits than the target. -/
def roundSticky (neg : Bool) (m : Nat) (e : Int) (inexact : Bool) : F32 :=
  roundF32 neg (2 * m + (if inexact then 1 else 0)) (e - 1)

/-- sqrt (Table 3.9). -/
def sqrtF32 (x : BitVec 32) : F32 :=
  match f32Val x with
  | .nan => ⟨f32NaN, false⟩
  | .inf n => if n then ⟨f32NaN, false⟩ else ⟨f32Inf false, false⟩
  | .fin n m e =>
    if m = 0 then ⟨f32Zero n, false⟩ else if n then ⟨f32NaN, false⟩ else
    let k : Int := if e % 2 = 0 then e else e - 1
    let v := (if e % 2 = 0 then m else 2 * m) * 2 ^ 64
    let r := isqrt v
    roundSticky false r (k / 2 - 32) (r * r != v)

/-- rsqrt (Table 3.9). -/
def rsqrtF32 (x : BitVec 32) : F32 :=
  match f32Val x with
  | .nan => ⟨f32NaN, false⟩
  | .inf n => if n then ⟨f32NaN, false⟩ else ⟨0, false⟩
  | .fin n m e =>
    if m = 0 then ⟨f32Max n, true⟩ else if n then ⟨f32NaN, false⟩ else
    let v := if e % 2 = 0 then m else 2 * m
    let k : Int := if e % 2 = 0 then e else e - 1
    let r := isqrt (2 ^ 128 / v)
    roundSticky false r (-(k / 2) - 64) (r * r * v != 2 ^ 128)

/-- x / y of finite exact values, y ≠ 0. -/
def divMag (neg : Bool) (m1 : Nat) (e1 : Int) (m2 : Nat) (e2 : Int) : F32 :=
  if m1 = 0 then ⟨f32Zero neg, false⟩ else
  let v := m1 * 2 ^ 64
  roundSticky neg (v / m2) (e1 - e2 - 64) (v % m2 != 0)

/-- divide (Table 3.9). -/
def divF32 (x y : BitVec 32) : F32 :=
  match f32Val x, f32Val y with
  | .nan, _ => ⟨f32NaN, false⟩
  | _, .nan => ⟨f32NaN, false⟩
  | .inf _, .inf _ => ⟨f32NaN, false⟩
  | .inf n1, .fin n2 _ _ => ⟨f32Inf (n1 != n2), false⟩
  | .fin n1 _ _, .inf n2 => ⟨f32Zero (n1 != n2), false⟩
  | .fin n1 m1 e1, .fin n2 m2 e2 =>
    if m2 = 0 then (if m1 = 0 then ⟨f32NaN, false⟩ else ⟨f32Max (n1 != n2), true⟩)
    else divMag (n1 != n2) m1 e1 m2 e2

/-! ## Intervals: fixed-point numbers with `p` fraction bits, a lower and an upper end -/

/-- Lower and upper end, in units of 2^−p. -/
structure Iv where
  lo : Nat
  hi : Nat
  deriving DecidableEq, Repr

def Iv.mul (p : Nat) (a b : Iv) : Iv := ⟨a.lo * b.lo / 2 ^ p, ceilDiv (a.hi * b.hi) (2 ^ p)⟩
def Iv.add (a b : Iv) : Iv := ⟨a.lo + b.lo, a.hi + b.hi⟩
def Iv.div (p : Nat) (a b : Iv) : Iv := ⟨a.lo * 2 ^ p / b.hi, ceilDiv (a.hi * 2 ^ p) b.lo⟩

/-- The interval of m × 2^e. -/
def Iv.of (p : Nat) (m : Nat) (e : Int) : Iv :=
  let lo := scale2 m (e + p)
  if 0 ≤ e + p then ⟨lo, lo⟩ else ⟨lo, lo + 1⟩

/-- The Taylor terms of exp from term `i`: the running term, the sum. -/
def expTerms (p : Nat) (x : Iv) : Nat → Nat → Iv → Iv → Iv
  | 0, _, t, s => ⟨s.lo, s.hi + 2 * t.hi + 2⟩
  | n + 1, i, t, s =>
    let t' : Iv := ⟨t.lo * x.lo / 2 ^ p / i, ceilDiv (ceilDiv (t.hi * x.hi) (2 ^ p)) i⟩
    expTerms p x n (i + 1) t' (s.add t')

def Iv.squares (p : Nat) : Nat → Iv → Iv
  | 0, x => x
  | n + 1, x => Iv.squares p n (x.mul p x)

/-- exp of a non-negative value below 2^7: the argument is divided by 2^16, and the result squared 16 times. -/
def expIv (p : Nat) (m : Nat) (e : Int) : Iv :=
  let x := Iv.of p m (e - 16)
  let one : Iv := ⟨2 ^ p, 2 ^ p⟩
  Iv.squares p 16 (expTerms p x (p / 8 + 2) 1 one one)

/-- exp of m × 2^e or of its negative. -/
def expSigned (p : Nat) (neg : Bool) (m : Nat) (e : Int) : Iv :=
  let y := expIv p m e
  if neg then Iv.div p ⟨2 ^ p, 2 ^ p⟩ y else y

/-- The odd powers of z, z ≤ 1/3, divided by 1, 3, 5 …: half of log((1 + z)/(1 − z)). -/
def atanhTerms (p : Nat) (z2 : Iv) : Nat → Nat → Iv → Iv → Iv
  | 0, _, t, s => ⟨s.lo, s.hi + t.hi + 2⟩
  | n + 1, i, t, s =>
    let s' : Iv := ⟨s.lo + t.lo / i, s.hi + ceilDiv t.hi i⟩
    atanhTerms p z2 n (i + 2) (t.mul p z2) s'

def atanhIv (p : Nat) (z : Iv) : Iv := atanhTerms p (z.mul p z) (p / 3 + 2) 1 z ⟨0, 0⟩

/-- Both ends rounded to binary32 when they agree; with no fuel left, the lower end. -/
def roundIv (neg : Bool) (p : Nat) (x : Iv) : Option F32 :=
  let a := roundF32 neg x.lo (-(p : Int))
  let b := roundF32 neg x.hi (-(p : Int))
  if a = b then some a else none

/-- Doubles the precision until the interval decides the rounding. -/
def narrow (f : Nat → Option F32) (last : F32) : Nat → Nat → F32
  | 0, _ => last
  | n + 1, p => match f p with
    | some r => r
    | none => narrow f last n (2 * p)

/-- The number of doublings of the precision, from 256 bits (log entry 9: no binary32 operand needs them all). -/
def narrowFuel : Nat := 12

/-- exp (Table 3.9). -/
def expF32 (x : BitVec 32) : F32 :=
  match f32Val x with
  | .nan => ⟨f32NaN, false⟩
  | .inf n => if n then ⟨0, false⟩ else ⟨f32Inf false, false⟩
  | .fin n m e =>
    if m = 0 then ⟨0x3F800000, false⟩
    else if leMag 104 0 m e then (if n then ⟨0, false⟩ else ⟨f32Max false, true⟩)
    else if leMag m e 1 (-30) then ⟨0x3F800000, false⟩
    else narrow (fun p => roundIv false p (expSigned p n m e)) ⟨0x3F800000, false⟩ narrowFuel 256

/-- log of m × 2^e, m > 0, as a signed interval: (negative, magnitude). -/
def logIv (p : Nat) (m : Nat) (e : Int) : Bool × Iv :=
  let b := Nat.log2 m
  let k : Int := (b : Int) + e
  let q := 2 ^ b
  -- f = m / 2^b in [1, 2); z = (f − 1)/(f + 1)
  let z : Iv := ⟨(m - q) * 2 ^ p / (m + q), ceilDiv ((m - q) * 2 ^ p) (m + q)⟩
  let lf := atanhIv p z
  let l2 := atanhIv p ⟨2 ^ p / 3, 2 ^ p / 3 + 1⟩
  let lf2 : Iv := ⟨2 * lf.lo, 2 * lf.hi⟩
  let kl : Iv := ⟨2 * k.natAbs * l2.lo, 2 * k.natAbs * l2.hi⟩
  if 0 ≤ k then (false, kl.add lf2) else (true, ⟨kl.lo - lf2.hi, kl.hi - lf2.lo⟩)

/-- log (Table 3.9). -/
def logF32 (x : BitVec 32) : F32 :=
  match f32Val x with
  | .nan => ⟨f32NaN, false⟩
  | .inf n => if n then ⟨f32NaN, false⟩ else ⟨f32Inf false, false⟩
  | .fin n m e =>
    if m = 0 then ⟨f32Max true, true⟩ else if n then ⟨f32NaN, false⟩
    else if x = 0x3F800000 then ⟨0, false⟩
    else narrow (fun p => let (s, v) := logIv p m e; roundIv s p v) ⟨0, false⟩ narrowFuel 256

/-- tanh (Table 3.9). Below 2^−13 the result is nearer to x than half a step; from 10 on it rounds to ±1. -/
def tanhF32 (x : BitVec 32) : F32 :=
  match f32Val x with
  | .nan => ⟨f32NaN, false⟩
  | .inf n => ⟨if n then 0xBF800000 else 0x3F800000, false⟩
  | .fin n m e =>
    if m = 0 then ⟨f32Zero n, false⟩
    else if leMag m e 1 (-13) then ⟨x, false⟩
    else if leMag 10 0 m e then ⟨if n then 0xBF800000 else 0x3F800000, false⟩
    else narrow (fun p =>
        let y := expIv p m (e + 1)
        roundIv n p (Iv.div p ⟨y.lo - 2 ^ p, y.hi - 2 ^ p⟩ ⟨y.lo + 2 ^ p, y.hi + 2 ^ p⟩))
      ⟨x, false⟩ narrowFuel 256

/-- sigmoid (Table 3.9). -/
def sigmoidF32 (x : BitVec 32) : F32 :=
  match f32Val x with
  | .nan => ⟨f32NaN, false⟩
  | .inf n => ⟨if n then 0 else 0x3F800000, false⟩
  | .fin n m e =>
    if m = 0 then ⟨0x3F000000, false⟩
    else if leMag 105 0 m e then ⟨if n then 0 else 0x3F800000, false⟩
    else if leMag m e 1 (-30) then ⟨0x3F000000, false⟩
    else narrow (fun p =>
        let y := expIv p m e
        let one : Iv := ⟨2 ^ p, 2 ^ p⟩
        -- 1/(1 + e^|x|) for a negative operand, e^|x|/(1 + e^|x|) otherwise
        roundIv false p (Iv.div p (if n then one else y) (y.add one)))
      ⟨0x3F000000, false⟩ narrowFuel 256

end Sys2Proof.Machine
end

