-- ==== Sys2Proof/Machine/Anchored.lean ====
section
/-! DEFINITION. The anchored sum (chapter 02): survey bytes, anchors, truncated terms, classes, the combination rule and the stored patterns. -/

namespace Sys2Proof.Machine

open Sys2Proof

/-! ## Surveys and anchors -/

/-- The survey byte of one element (02:Table 2.1): format, scale byte, element bits. -/
def surveyByte (f scale bits : Nat) : Nat :=
  if isBlockFmt f then (if scale = 255 then 0 else scale + 1)
  else
    let x := if f = 0x10 then bits / 2 ^ 7 % 256 else bits / 2 ^ 23 % 256
    let m := if f = 0x10 then bits % 2 ^ 7 else bits % 2 ^ 23
    if x = 255 then 0 else if x = 0 then (if m = 0 then 0 else 1) else x

/-- The bound E of a survey s ≥ 1 (02:Table 2.1). -/
def surveyBound (f s : Nat) : Int :=
  match f with
  | 0x01 => s - 125
  | 0x02 => s - 123
  | 0x03 => s - 125
  | 0x04 => s - 119
  | 0x05 => s - 112
  | 0x06 => s - 126
  | _ => s - 126

/-- The anchor of a two-factor sum (02:R44). -/
def anchor2 (f s t k : Nat) : Int := surveyBound f s + surveyBound f t + ceilLog2 k

/-- The anchor of a one-factor sum (02:R44). -/
def anchor1 (f s k : Nat) : Int := surveyBound f s + ceilLog2 k

/-- Surveys combine by maximum (02:R43). -/
def surveyMax (l : List Nat) : Nat := l.foldl max 0

/-! ## Accumulators -/

def Acc.zero : Acc := ⟨.fin, 0⟩
def Acc.nan : Acc := ⟨.nan, 0⟩

/-- The classes combine by 02:Table 2.4, whatever their order; finite integers add (R52). -/
def Acc.combine (a b : Acc) : Acc :=
  match a.cls, b.cls with
  | .nan, _ => .nan
  | _, .nan => .nan
  | .pinf, .ninf => .nan
  | .ninf, .pinf => .nan
  | .pinf, _ => ⟨.pinf, 0⟩
  | .ninf, _ => ⟨.ninf, 0⟩
  | .fin, .pinf => ⟨.pinf, 0⟩
  | .fin, .ninf => ⟨.ninf, 0⟩
  | .fin, .fin => ⟨.fin, a.q + b.q⟩

/-- sign(t) × floor(|t| / u) with u = 2^(anchor − w) (02:R46). -/
def truncTerm (neg : Bool) (m : Nat) (e : Int) (anchor : Int) (w : Nat) : Int :=
  let q : Int := scale2 m (e - (anchor - w))
  if neg then -q else q

/-- A term, classified by 02:Table 2.3 and truncated (R46). -/
def termAcc (t : Val) (anchor : Int) (w : Nat) : Acc :=
  match t with
  | .nan => .nan
  | .inf n => ⟨if n then .ninf else .pinf, 0⟩
  | .fin n m e => ⟨.fin, truncTerm n m e anchor w⟩

/-- The sum of terms under one anchor (02:R47). -/
def sumTerms (ts : List Val) (anchor : Int) (w : Nat) : Acc :=
  ts.foldl (fun a t => a.combine (termAcc t anchor w)) .zero

/-- A complete sum's exact value: Q × u, zero as +0 (02:R54, R55). -/
def Acc.val (a : Acc) (anchor : Int) (w : Nat) : Val :=
  match a.cls with
  | .nan => .nan
  | .pinf => .inf false
  | .ninf => .inf true
  | .fin => .ofInt a.q (anchor - w)

/-- The stored pattern of an anchored integer (02:Table 2.5), for a window code. -/
def Acc.pattern (win : Nat) (a : Acc) : Nat :=
  -- the compatibility window's 96-bit patterns sit sign-extended in 128 bits (02:R51)
  let n := if win = 0x60 then 96 else ancBits win
  let m := ancBits win
  match a.cls with
  | .nan => bitsOf m (-(2 ^ (n - 1) : Int))
  | .pinf => bitsOf m (2 ^ (n - 1) - 1 : Int)
  | .ninf => bitsOf m (-(2 ^ (n - 1) : Int) + 1)
  | .fin => bitsOf m a.q

/-- The anchored integer that a stored pattern holds, and whether the pattern is invalid (02:R51; -2^w: log entry 129). -/
def patternAcc (win : Nat) (bits : Nat) : Acc × Bool :=
  let n : Nat := if win = 0x60 then 96 else ancBits win
  let q := signedOf (ancBits win) bits
  if q.natAbs < 2 ^ ancWindow win then (⟨.fin, q⟩, false)
  else if q = 2 ^ (n - 1) - 1 then (⟨.pinf, 0⟩, false)
  else if q = -(2 ^ (n - 1) : Int) + 1 then (⟨.ninf, 0⟩, false)
  else (.nan, q != -(2 ^ (n - 1) : Int))

/-- The combination of two anchored integers of one window (02:R52): an invalid operand or a finite sum out of range gives NaN, and the mark says that the event of R52 is due. -/
def combineAnc (win : Nat) (x y : Acc × Bool) : Acc × Bool :=
  let s := x.1.combine y.1
  if x.2 || y.2 then (.nan, true)
  else if s.cls = .fin ∧ 2 ^ ancWindow win ≤ s.q.natAbs then (.nan, true)
  else (s, false)

/-! ## Sums inside the vector engine (05:R136) -/

/-- A one-factor anchored sum of binary32 values, converted once to binary32 (asum1): window, the declared number of terms (02:R40; log entry 126), terms. An empty survey gives +0. -/
def asum1 (win k : Nat) (xs : List (BitVec 32)) : F32 :=
  let s := surveyMax (xs.map (fun x => surveyByte 0x11 0 x.toNat))
  let w := ancWindow win
  let a := anchor1 0x11 s k
  let (b, sat) := convertVal 0x11 0 none true ((sumTerms (xs.map f32Val) a w).val a w)
  ⟨BitVec.ofNat 32 b, sat⟩

/-- An anchored sum of squares of binary32 values (asum2). -/
def asum2 (win k : Nat) (xs : List (BitVec 32)) : F32 :=
  let s := surveyMax (xs.map (fun x => surveyByte 0x11 0 x.toNat))
  let w := ancWindow win
  let a := anchor2 0x11 s s k
  let (b, sat) := convertVal 0x11 0 none true ((sumTerms (xs.map (fun x => mulVal (f32Val x) (f32Val x))) a w).val a w)
  ⟨BitVec.ofNat 32 b, sat⟩

/-- The binary32 value of an integer count. -/
def f32OfNat (n : Nat) : BitVec 32 := (roundF32 false n 0).bits

end Sys2Proof.Machine
end

