-- ==== Sys2Proof/Machine/Hash.lean ====
section
/-! DEFINITION. Byte strings, CRC-32C (10:R262), SHAKE256 (08:R209, after FIPS 202, log entry 10). -/

namespace Sys2Proof.Machine

open Sys2Proof

/-- The little-endian bytes of a number (00:R7). -/
def leBytes (n : Nat) (x : Nat) : Bytes := (List.range n).map (fun i => BitVec.ofNat 8 (x / 256 ^ i))

/-- The number of little-endian bytes. -/
def leNat : Bytes → Nat
  | [] => 0
  | b :: t => b.toNat + 256 * leNat t

/-- Bits h:l of a number. -/
def bits (x h l : Nat) : Nat := x / 2 ^ l % 2 ^ (h + 1 - l)

/-- One bit step of the reflected CRC-32C. -/
def crcBit (c : BitVec 32) : BitVec 32 :=
  if c.getLsbD 0 then (c >>> 1) ^^^ 0x82F63B78 else c >>> 1

def crcByte (c : BitVec 32) (b : Byte) : BitVec 32 :=
  crcBit (crcBit (crcBit (crcBit (crcBit (crcBit (crcBit (crcBit (c ^^^ b.zeroExtend 32))))))))

/-- CRC-32C of a byte string (10:R262). -/
def crc32c (l : Bytes) : BitVec 32 := l.foldl crcByte 0xFFFFFFFF ^^^ 0xFFFFFFFF

/-! ## SHAKE256 over the state string of FIPS 202: bit 64 (5y + x) + z of the string is A[x, y, z] -/

abbrev KeccakString := BitVec 1600

/-- The 64 bits A[x, y, ·], coordinates taken modulo 5. -/
def KeccakString.row (s : KeccakString) (x y : Nat) : BitVec 64 := s.extractLsb' (64 * (5 * (y % 5) + x % 5)) 64

/-- The string whose rows a rule gives. -/
def stringOf (f : Nat → Nat → BitVec 64) : KeccakString :=
  (List.range 25).foldr (fun i s => s <<< 64 ||| (f (i % 5) (i / 5)).setWidth 1600) 0

/-- The parities of a sheet: the five rows of one x. -/
def KeccakString.sheet (s : KeccakString) (x : Nat) : BitVec 64 := (List.range 5).foldl (fun p y => p ^^^ s.row x y) 0

def theta (s : KeccakString) : KeccakString := stringOf fun x y => s.row x y ^^^ s.sheet (x + 4) ^^^ (s.sheet (x + 1)).rotateLeft 1

/-- The trail of ρ, from (1, 0) on by (x, y) → (y, 2x + 3y): the t-th place, counted from 1, turns by 1 + 2 + … + t. -/
def turnOf : Nat → Nat → Nat → Nat → Nat → Nat
  | 0, _, _, _, _ => 0
  | n + 1, x, y, u, v => if x = u ∧ y = v then (24 - n) * (25 - n) / 2 else turnOf n y ((2 * x + 3 * y) % 5) u v

/-- ρ and then π: row (x, y) comes from (x + 3y, x). -/
def rhoPi (s : KeccakString) : KeccakString := stringOf fun x y => (s.row (x + 3 * y) x).rotateLeft (turnOf 24 1 0 ((x + 3 * y) % 5) x % 64)

def chi (s : KeccakString) : KeccakString := stringOf fun x y => s.row x y ^^^ (s.row (x + 2) y &&& ~~~ s.row (x + 1) y)

/-- One step of the register that gives ι its bits: x^8 + x^6 + x^5 + x^4 + 1. -/
def iotaStep (r : Nat) : Nat := if r < 128 then 2 * r else Nat.xor (2 * r) 0x171

/-- The seven bits of a round, at the places 2^j − 1 of row (0, 0), and the register after them. -/
def iota : Nat → Nat → KeccakString → KeccakString × Nat
  | 0, r, s => (s, r)
  | n + 1, r, s => iota n (iotaStep r) (if r % 2 = 1 then s ^^^ BitVec.twoPow 1600 (2 ^ (6 - n) - 1) else s)

/-- The permutation: rounds of θ, ρ, π, χ, ι. -/
def keccakRounds : Nat → Nat → KeccakString → KeccakString
  | 0, _, s => s
  | n + 1, r, s =>
    let x := iota 7 r (chi (rhoPi (theta s)))
    keccakRounds n x.2 x.1

def permute (s : KeccakString) : KeccakString := keccakRounds 24 1 s

/-- Absorbs blocks of 136 bytes. -/
def absorbing : Nat → Bytes → KeccakString → KeccakString
  | 0, _, s => s
  | n + 1, m, s => absorbing n (m.drop 136) (permute (s ^^^ BitVec.ofNat 1600 (leNat (m.take 136))))

/-- Output blocks of 136 bytes. -/
def squeezing : Nat → KeccakString → Bytes
  | 0, _ => []
  | n + 1, s => leBytes 136 (s.toNat % 2 ^ 1088) ++ squeezing n (permute s)

/-- A message with the suffix 1111 and the padding 10…01, in whole blocks. -/
def padded (m : Bytes) : Bytes := leBytes ((m.length / 136 + 1) * 136) (leNat m + 0x1F * 256 ^ m.length + 2 ^ ((m.length / 136 + 1) * 1088 - 1))

/-- SHAKE256 with an output of `n` bytes. -/
def shake256 (n : Nat) (m : Bytes) : Bytes := (squeezing ((n + 135) / 136) (absorbing (m.length / 136 + 1) (padded m) 0)).take n

/-- The 512-bit SHAKE256 value with byte 0 in bits 7:0 (00:R7). -/
def shake512 (m : Bytes) : BitVec 512 := BitVec.ofNat 512 (leNat (shake256 64 m))

end Sys2Proof.Machine
end

