-- ==== Sys2Proof/Machine/Ops.lean ====
section
/-! DEFINITION. The named operations over the state: sparse tables, the blocks' tables, AO time, events and the error log, the write gate, device memory with its code, stacks in and out of service. -/

namespace Sys2Proof.Machine

open Sys2Proof

/-! ## Sparse tables: keys strictly rising, no entry equal to the default -/

def sget {α : Type} (d : α) : Sparse α → Nat → α
  | [], _ => d
  | (k, v) :: t, n => if k = n then v else sget d t n

def sput {α : Type} [DecidableEq α] (d : α) (n : Nat) (v : α) (t : Sparse α) : Sparse α :=
  if v = d then t else (n, v) :: t

def sset {α : Type} [DecidableEq α] (d : α) : Sparse α → Nat → α → Sparse α
  | [], n, v => sput d n v []
  | (k, x) :: t, n, v =>
    if n < k then sput d n v ((k, x) :: t)
    else if n = k then sput d n v t
    else (k, x) :: sset d t n v

/-- All keys of the table are at least `n`, rising, and no entry is the default. -/
def swfFrom {α : Type} [DecidableEq α] (d : α) : Nat → Sparse α → Bool
  | _, [] => true
  | n, (k, v) :: t => decide (n ≤ k) && decide (v ≠ d) && swfFrom d (k + 1) t

def swf {α : Type} [DecidableEq α] (d : α) (t : Sparse α) : Bool := swfFrom d 0 t

/-- The values of consecutive keys. -/
def sread {α : Type} (d : α) (t : Sparse α) (a n : Nat) : List α := (List.range n).map (fun i => sget d t (a + i))

/-- Writes consecutive keys from `a` on. -/
def swrite {α : Type} [DecidableEq α] (d : α) : Sparse α → Nat → List α → Sparse α
  | t, _, [] => t
  | t, a, v :: l => swrite d (sset d t a v) (a + 1) l

/-- A table with every value changed. -/
def smap {α : Type} [DecidableEq α] (d : α) (f : α → α) : Sparse α → Sparse α
  | [] => []
  | (k, v) :: t => sput d k (f v) (smap d f t)

/-- Replaces element `i` of a list. -/
def lset {α : Type} (l : List α) (i : Nat) (v : α) : List α := l.set i v

/-- Insertion before the first element that does not come before the new one. -/
def insertBy {α : Type} (le : α → α → Bool) (x : α) : List α → List α
  | [] => [x]
  | y :: t => if le x y then x :: y :: t else y :: insertBy le x t

/-- A stable sort. -/
def sortBy {α : Type} (le : α → α → Bool) (l : List α) : List α := l.foldr (insertBy le) []

/-- Two ordered lists as one; of equal entries the first list's come first. The fuel is their length. -/
def mergeInto {α : Type} (le : α → α → Bool) : Nat → List α → List α → List α
  | fuel + 1, a :: s, b :: t => if le a b then a :: mergeInto le fuel s (b :: t) else b :: mergeInto le fuel (a :: s) t
  | _, s, t => s ++ t

/-- A long list in order, by halves; 64 rounds suffice for any list. -/
def mergeRounds {α : Type} (le : α → α → Bool) : Nat → List α → List α
  | 0, l => sortBy le l
  | fuel + 1, l => if l.length ≤ 1 then l else
    mergeInto le l.length (mergeRounds le fuel (l.take (l.length / 2))) (mergeRounds le fuel (l.drop (l.length / 2)))

def mergeSorted {α : Type} (le : α → α → Bool) (l : List α) : List α := mergeRounds le 64 l

/-! ## The blocks' tables -/

def State.slot (s : State) (n : Nat) : Slot := sget .reset s.ctx.slots n
def State.setSlot (s : State) (n : Nat) (v : Slot) : State :=
  { s with ctx := { s.ctx with slots := sset .reset s.ctx.slots n v } }
def State.modSlot (s : State) (n : Nat) (f : Slot → Slot) : State := s.setSlot n (f (s.slot n))

def State.gen (s : State) (n : Nat) : BitVec 8 := sget 0 s.ao.gens n

/-- The key of physical cell c of compute die d. -/
def cellKey (d c : Nat) : Nat := d * 68 + c

def State.cell (s : State) (k : Nat) : Cell := sget .reset s.cells k
def State.setCell (s : State) (k : Nat) (v : Cell) : State := { s with cells := sset .reset s.cells k v }
def State.modCell (s : State) (k : Nat) (f : Cell → Cell) : State := s.setCell k (f (s.cell k))

def State.stack (s : State) (k : Nat) : Stack := sget .reset s.stks k
def State.setStack (s : State) (k : Nat) (v : Stack) : State := { s with stks := sset .reset s.stks k v }
def State.modStack (s : State) (k : Nat) (f : Stack → Stack) : State := s.setStack k (f (s.stack k))

def State.port (s : State) (k : Nat) : Port := sget .reset s.lnk.ports k
def State.setPort (s : State) (k : Nat) (v : Port) : State := { s with lnk := { s.lnk with ports := sset .reset s.lnk.ports k v } }
def State.modPort (s : State) (k : Nat) (f : Port → Port) : State := s.setPort k (f (s.port k))

def State.chan (s : State) (k : Nat) : DmaChan := sget .reset s.glb.dma k
def State.setChan (s : State) (k : Nat) (v : DmaChan) : State := { s with glb := { s.glb with dma := sset .reset s.glb.dma k v } }
def State.modChan (s : State) (k : Nat) (f : DmaChan → DmaChan) : State := s.setChan k (f (s.chan k))

def State.numSlot (s : State) (k : Nat) : NumSlot := sget .zero s.num.slots k
def State.setNumSlot (s : State) (k : Nat) (v : NumSlot) : State := { s with num := { s.num with slots := sset .zero s.num.slots k v } }

/-- FLT_DIE_STATE of a die (13:Table 13.7): 0 RUNNING, 1 in reset, 2 off, 3 failed. -/
def State.dieState (s : State) (d : Nat) : Nat := bits s.flt.dieState.toNat (2 * d + 1) (2 * d)
def State.setDieState (s : State) (d v : Nat) : State :=
  let x := s.flt.dieState.toNat
  { s with flt := { s.flt with dieState := BitVec.ofNat 64 (x - bits x (2 * d + 1) (2 * d) * 2 ^ (2 * d) + v % 4 * 2 ^ (2 * d)) } }

/-- A record to the outside. -/
def State.emit (s : State) (o : Output) : State := { s with out := o :: s.out }

/-- A fresh free value: its number is the counter, which advances. -/
def State.draw (s : State) : State × Word := ({ s with fresh := s.fresh + 1 }, Config.freeWord s.fresh)

/-! ## AO time (16:R417) -/

def State.now (s : State) : Nat := s.ao.time.toNat
def State.setTime (s : State) (t : Nat) : State := { s with ao := { s.ao with time := BitVec.ofNat 64 t } }

/-- Carries AO time to a due moment that has not come yet (log entry 11): to the first of its values, all multiples of 40, that is not before it. -/
def State.reach (s : State) (t : Nat) : State := if s.now < t then s.setTime ((t + 39) / 40 * 40) else s

/-! ## Leaving A2 and A3 (14:R382, 16:R412, R413) -/

def powerCode (p : PowerState) : Nat :=
  match p with
  | .a0 => 0
  | .a1 => 1
  | .a2 => 2
  | .a3 => 3

/-- Is the module in A2 or A3, or entering one of them? -/
def State.asleep (s : State) : Bool :=
  match s.pwr.trans with
  | some t => t.new == .a2 || t.new == .a3
  | none => s.pwr.state == .a2 || s.pwr.state == .a3

/-- An exit from A2 or A3 begins, or waits for the end of the entry in progress; PWR_WAKE_LAST takes the wake (16:Table 16.19). -/
def State.beginExit (s : State) (cause : BitVec 9) : State :=
  match s.pwr.trans with
  | some t =>
    if t.new = .a2 ∨ t.new = .a3 then { s with pwr := { s.pwr with laterWake := some (s.pwr.laterWake.getD cause) } } else s
  | none =>
    if s.pwr.state = .a2 ∨ s.pwr.state = .a3 then
      { s with pwr := { s.pwr with
          trans := some ⟨s.pwr.state, .a0, cause⟩, wakeFrom := BitVec.ofNat 2 (powerCode s.pwr.state), wakeSource := cause
          wakeUs := BitVec.ofNat 52 (s.now / 1000) } }
    else s

/-- The sources of the enabled entries of EVT_WAKE_SEL. -/
def Evt.watches (e : Evt) (source : Nat) : Bool := (List.range 16).any (fun i => e.wakeEn.getLsbD i && (sget 0 e.wakeSrc i).toNat == source)

/-- An occurrence of a watched source starts a wake to A0; EVT_MASK plays no part in it (log entry 194). -/
def State.wakeOn (s : State) (source : Nat) : State :=
  if s.asleep && s.evt.watches source then s.beginExit (BitVec.ofNat 9 source) else s

/-! ## Events (14:R373 to R375) and the error log (13:R352) -/

/-- The severity of a code (14:Table 14.16, 15:R408, 16:R432). -/
def severity (code : Nat) : Nat :=
  match code with
  | 0x0001 => 2
  | 0x0010 => 1
  | 0x0011 => 2
  | 0x0020 => 0
  | 0x0021 => 3
  | 0x1002 => 0
  | 0x1003 => 2
  | 0x1004 => 0
  | 0x1005 => 2
  | 0x1006 => 0
  | 0x1007 => 2
  | 0x1008 => 3
  | 0x1009 => 3
  | 0x1010 => 2
  | 0x1011 => 0
  | 0x1012 => 1
  | 0x2001 => 1
  | 0x2002 => 2
  | 0x2003 => 2
  | 0x2004 => 2
  | 0x2005 => 1
  | 0x3001 => 3
  | 0x3002 => 2
  | 0x3003 => 3
  | 0x3004 => 4
  | 0x3005 => 1
  | 0x4001 => 2
  | 0x4002 => 3
  | 0x4003 => 2
  | 0x4004 => 1
  | 0x5001 => 3
  | 0x5002 => 3
  | 0x5003 => 3
  | 0x5004 => 3
  | 0x5005 => 3
  | 0x5006 => 3
  | 0x5007 => 3
  | 0x5008 => 3
  | 0x5009 => 3
  | 0x500A => 3
  | 0x500B => 2
  | 0x5010 => 2
  | 0x5011 => 1
  | 0x5012 => 4
  | 0x6001 => 1
  | 0x6002 => 1
  | 0x6003 => 4
  | 0x6005 => 2
  | 0x6006 => 2
  | 0x6007 => 0
  | 0x6008 => 2
  | 0x6009 => 1
  | 0x6010 => 2
  | 0x6011 => 0
  | 0x7001 => 0
  | 0x7002 => 3
  | 0x7003 => 0
  | 0x7004 => 2
  | 0x7005 => 1
  | 0x7006 => 2
  | 0x7007 => 2
  | 0x7008 => 0
  | 0x7010 => 0
  | 0x7011 => 3
  | 0x7012 => 1
  | 0x7013 => 4
  | 0x7014 => 2
  | 0x8001 => 0
  | 0x8002 => 2
  | 0x8003 => 0
  | 0x8004 => 0
  | 0x8005 => 1
  | 0x8006 => 2
  | 0x8007 => 0
  | _ => 0

/-- A payload from its parts: byte position, width in bytes, value. -/
def payload (l : List (Nat × Nat × Nat)) : BitVec 128 :=
  BitVec.ofNat 128 (l.foldl (fun a x => a + x.2.2 % 256 ^ x.2.1 * 256 ^ x.1) 0)

/-- The record of an occurrence (14:Table 14.15), with COALESCED and PHASE clear. -/
def State.eventRecord (s : State) (code source : Nat) (slot : Option Nat) (sev : Nat) (p : BitVec 128) : EvRec :=
  { payload := p, code := BitVec.ofNat 16 code, gen := (match slot with | some n => s.gen n | none => 0),
    slot := BitVec.ofNat 3 (slot.getD 0), slotValid := slot.isSome, coalesced := false, phase := false,
    severity := BitVec.ofNat 4 sev, source := BitVec.ofNat 16 source, aoTime := s.ao.time }

/-- The classes that the error log copies (13:R352). -/
def isLogged (code : Nat) : Bool :=
  let c := code / 4096
  c == 3 || c == 5 || c == 6 || c == 7

/-- A record into the error log: a ring of the indices 1 to 2,047 (13:R352). -/
def State.logRecord (s : State) (r : EvRec) : State :=
  { s with ao := { s.ao with
      log := sset none s.ao.log s.ao.logNext.toNat (some r)
      logCount := s.ao.logCount + 1
      logNext := if s.ao.logNext = 2047 then 1 else s.ao.logNext + 1 } }

/-- Is a source masked in EVT_MASK? -/
def State.isMasked (s : State) (source : Nat) : Bool := s.evt.mask.getLsbD source

/-- The effect of an occurrence on the event controller (14:R374). -/
def State.latch (s : State) (source : Nat) (r : EvRec) : State :=
  if s.isMasked source then { s with evt := { s.evt with masked := s.evt.masked + 1 } }
  else match sget none s.evt.pend source with
    | some q => { s with evt := { s.evt with
        pend := sset none s.evt.pend source (some { q with coalesced := true })
        coalesced := s.evt.coalesced + 1 } }
    | none => { s with evt := { s.evt with pend := sset none s.evt.pend source (some r) } }

/-- Posts an event of a given severity: an occurrence of its source, which wakes the module where it is watched (14:R374, R382, 13:R352). -/
def State.postSev (s : State) (code source : Nat) (slot : Option Nat) (sev : Nat) (p : BitVec 128) : State :=
  let r := s.eventRecord code source slot sev p
  ((if isLogged code then s.logRecord r else s).latch source r).wakeOn source

/-- Posts an event with its code's severity. -/
def State.post (s : State) (code source : Nat) (slot : Option Nat) (p : BitVec 128) : State :=
  s.postSev code source slot (severity code) p

/-! Event sources (14:Table 14.14). -/
def srcOwn : Nat := 0x001
def srcSlot (n : Nat) : Nat := 0x008 + n
def srcArrival : Nat := 0x010
def srcSched : Nat := 0x011
def srcFault : Nat := 0x012
def srcSec : Nat := 0x013
def srcTest : Nat := 0x014
def srcPower : Nat := 0x015
def srcHost : Nat := 0x016
def srcDie (d : Nat) : Nat := 0x020 + d
def srcStack (k : Nat) : Nat := 0x030 + k
def srcLink (k : Nat) : Nat := 0x038 + k

/-- Event 0x6007 of a change of the power state (14:Table 14.27). -/
def State.stateChanged (s : State) (t : Transition) : State :=
  s.post 0x6007 srcPower none (payload [(0, 1, powerCode t.old), (1, 1, powerCode t.new), (2, 2, t.cause.toNat)])

/-! ## Masters, the write gate and bad accesses (14:R358 to R360) -/

/-- A master coded as OWNER (14:Table 14.7). -/
def masterCode : Master → Nat
  | .host => 1
  | .mc => 2
  | .peer _ => 3

def masterNode : Master → Nat
  | .peer n => n.toNat
  | _ => 0

def State.isOwner (s : State) (m : Master) : Bool := decide (s.own.owner = some m)

/-- A dropped write: the OWN_DROPPED counter of its master and OWN_DROP_LAST (14:R360). -/
def State.drop (s : State) (m : Master) (kind addr : Nat) : State :=
  let last : AccessLast := ⟨BitVec.ofNat 2 (masterCode m), BitVec.ofNat 2 kind, BitVec.ofNat 40 addr⟩
  match m with
  | .host => { s with own := { s.own with droppedHost := s.own.droppedHost + 1, dropLast := last } }
  | .mc => { s with own := { s.own with droppedMc := s.own.droppedMc + 1, dropLast := last } }
  | .peer _ => { s with own := { s.own with droppedPeer := s.own.droppedPeer + 1, dropLast := last } }

/-- A bad access: GLB_BAD_ACCESS and GLB_BAD_LAST (14:R358). -/
def State.bad (s : State) (m : Master) (kind addr : Nat) : State :=
  { s with glb := { s.glb with
      badAccess := s.glb.badAccess + 1
      badLast := ⟨BitVec.ofNat 2 (masterCode m), BitVec.ofNat 2 kind, BitVec.ofNat 40 addr⟩ } }

/-- The write gate: the write of the owner has its effect, any other is dropped (14:R360). -/
def State.gate (s : State) (m : Master) (kind addr : Nat) (f : State → State) : State :=
  if s.isOwner m then f s else s.drop m kind addr

/-- The answer of a write, on the paths that have one (14:R363): completion code 0 done, 1 dropped, 2 bad access. -/
def State.answerWrite (s : State) (m : Master) (code : Nat) : State :=
  match m with
  | .host => s
  | _ => s.emit (.answer m code false [])

/-- The blocks beyond GLB, OWN, EVT, PWR, SEC, TST and FLT answer only when the module runs (15:R388, log entry 12). -/
def State.running (s : State) : Bool := s.sec.boot == .running

/-- Does the block of a BAR0 offset answer (15:R388)? The MSI-X structures, which are in no block, do. -/
def State.answers (s : State) (offset : Nat) : Bool :=
  s.running || decide (offset < 0x60000) || decide (offset / 0x10000 = 9) || decide (0x3FF0000 ≤ offset)

/-- Can a master reach the module: main rails on, and not in A3, where the control and host dies are off (16:Table 16.1)? -/
def State.reachable (s : State) : Bool := s.ao.railsOn && s.ao.aoPower && (s.pwr.state != .a3 || s.pwr.trans.isSome)

/-- Do a master's register and memory accesses reach the module? Those of the PCIe host go through the BARs, whose decoding D3hot disables (14:R357). -/
def State.reaches (s : State) (m : Master) : Bool := s.reachable && !(m == .host && s.glb.d3)

/-- A write to a command register at `offset`: the gate, then the block if it answers, and the completion code. -/
def State.command (s : State) (m : Master) (offset : Nat) (f : State → State) : State :=
  if !s.reaches m then s
  else if s.isOwner m then (if s.answers offset then f s else s).answerWrite m 0
  else (s.drop m 0 offset).answerWrite m 1

/-! ## Device addresses (09:R235, R236) -/

def stackBytes : Nat := 0x1800000000
def devLimit : Nat := 0xC000000000
def dumpBase : Nat := 0x17C0000000
def dumpBytes : Nat := 0x40000000

def stackOf (a : Nat) : Nat := a / stackBytes
def offsetOf (a : Nat) : Nat := a % stackBytes

/-- Is a range wholly valid device memory? -/
def validRange (a n : Nat) : Bool := decide (a + n ≤ devLimit)

/-- Does a range keep out of the dump region (09:R254)? -/
def clearOfDump (a n : Nat) : Bool := decide (a + n ≤ dumpBase ∨ dumpBase + dumpBytes ≤ a)

/-- The local pseudo-channel of a stack offset (09:R236). -/
def pseudoOf (o : Nat) : Nat := Nat.xor (bits o 13 8) (bits o 19 14)
def burstRow (o : Nat) : Nat := bits o 36 14

/-- A frame that is never retired: the dump region (09:R244, R254). -/
def inDump (a : Nat) : Bool := decide (dumpBase ≤ a ∧ a < dumpBase + dumpBytes)

/-! ## Stored words (09:R240 to R244) -/

/-- What the decoder of a stored word reports. -/
inductive Ecc where
  | clean
  | corrected
  | bad
  deriving DecidableEq, Repr

/-- The 64 stored data bytes of a word, with a pattern of wrong symbols applied. -/
def DevMem.rawWord (m : DevMem) (w : Nat) : Bytes := sread 0 m.bytes (w * 64) 64

def symbolAt (l : List (Nat × Byte)) (j : Nat) : Byte := l.foldl (fun a x => if x.1 = j then a ^^^ x.2 else a) 0

def applySymbols (b : Bytes) (l : List (Nat × Byte)) : Bytes := (List.range b.length).map (fun j => b.getD j 0 ^^^ symbolAt l j)

/-- A word as the decoder delivers it (09:R241, R243). -/
def DevMem.decodeWord (m : DevMem) (w : Nat) : Bytes × Ecc :=
  let d := m.rawWord w
  match sget none m.errs w with
  | none => (d, .clean)
  | some (.noCodeword _) => (d, .bad)
  | some (.symbols l) =>
    if l.length ≤ 2 then (d, .corrected)
    else if l.length ≤ 5 then (applySymbols d l, .bad)
    else match Config.eccBeyond l with
      | 0 => (applySymbols d l, .bad)
      | 1 => ((List.range 64).map (Config.eccWrongByte l), .corrected)
      -- another valid codeword is delivered as it stands
      | _ => (applySymbols d l, .clean)

def DevMem.tagNibble (m : DevMem) (w : Nat) : BitVec 4 := sget 0 m.tags w

/-- The tag nibble of a word as the decoder delivers it: its side byte is symbol 64 of the codeword (09:R241). -/
def DevMem.readNibble (m : DevMem) (w : Nat) : BitVec 4 :=
  let n := m.tagNibble w
  match sget none m.errs w with
  | some (.symbols l) =>
    let x := n ^^^ (symbolAt l 64).setWidth 4
    if l.length ≤ 2 then n else if l.length ≤ 5 then x else if Config.eccBeyond l = 1 then (Config.eccWrongByte l 64).setWidth 4 else x
  | _ => n

/-- Bytes inside one word as the decoder delivers them. -/
def DevMem.decoded (m : DevMem) (a n : Nat) : Bytes := ((m.decodeWord (a / 64)).1.drop (a % 64)).take n

/-- Stores 64 bytes as a fresh codeword; the tag nibble is set or kept. -/
def DevMem.writeWord (m : DevMem) (w : Nat) (d : Bytes) (tag : Option (BitVec 4)) : DevMem :=
  { bytes := swrite 0 m.bytes (w * 64) ((d ++ List.replicate 64 0).take 64)
    tags := (match tag with | some t => sset 0 m.tags w t | none => m.tags)
    errs := sset none m.errs w none }

/-- A write of whole words; a write-back that waits for one of them is dropped (09:R242). -/
def State.writeWord (s : State) (w : Nat) (d : Bytes) (tag : Option (BitVec 4)) : State :=
  { s with mem := s.mem.writeWord w d tag, flight := { s.flight with backs := s.flight.backs.filter (fun b => b.word != w) } }

/-- Writes the words of a byte string from word `w` on; the i-th tag nibble is `tag i`. -/
def State.writeWords (s : State) (w : Nat) (d : Bytes) (n : Nat) (tag : Nat → Option (BitVec 4)) : State :=
  (List.range n).foldl (fun s i => s.writeWord (w + i) ((d.drop (64 * i)).take 64) (tag i)) s

/-- The module's own write of untagged bytes at a multiple of 64: tag nibble zero (09:R240); the last word is filled up with the bytes that stand there. -/
def State.writeOwn (s : State) (a : Nat) (d : Bytes) : State :=
  let n := ceilDivWords d.length
  let d' := d ++ (sread 0 s.mem.bytes (a + d.length) (n * 64 - d.length))
  s.writeWords (a / 64) d' n (fun _ => some 0)
where
  ceilDivWords (n : Nat) : Nat := (n + 63) / 64

/-- Who reads: SOURCE of MEM_LAST_ERR, the die and the cell of the requesting unit (0xFF: none), the context of an image read. -/
structure Reader where
  source : Nat
  die : Nat
  cell : Nat
  slot : Option Nat
  deriving DecidableEq, Repr

def hostReader : Reader := ⟨1, 0xFF, 0xFF, none⟩
def dredgeReader : Reader := ⟨2, 0xFF, 0xFF, none⟩
def adderReader : Reader := ⟨3, 0xFF, 0xFF, none⟩
def controlReader (slot : Option Nat) : Reader := ⟨0, 30, 0xFF, slot⟩

def frameOf (a : Nat) : Nat := offsetOf a / 4096

def State.retiredOf (s : State) (k : Nat) : List Nat := sget [] s.ao.retired k

/-- Retires the frame of an address, or posts 0x3002 when the stack's list is full (09:R244), at every further error that meets the rule (log entry 181). -/
def State.retire (s : State) (a : Nat) : State :=
  let k := stackOf a
  let f := frameOf a
  let l := s.retiredOf k
  if inDump a || l.contains f then s
  else if l.length < 256 then { s with ao := { s.ao with retired := sset [] s.ao.retired k (l ++ [f]) } }
  else s.post 0x3002 (srcStack k) none (payload [(0, 8, k * stackBytes + f * 4096), (8, 1, k)])

/-- A corrected error (09:R242): MEM_CE, MEM_LAST_ERR, the count of the sweep, the frame above 4, the corrected word waiting for its write-back. -/
def State.correctedError (s : State) (r : Reader) (w : Nat) (d : Bytes) : State :=
  let a := w * 64
  let k := stackOf a
  let f := frameOf a
  let n := sget 0 (s.stack k).sweepCe f + 1
  let s := s.modStack k (fun t => { t with
    ce := t.ce + 1, lastErr := ⟨1, BitVec.ofNat 2 r.source, BitVec.ofNat 40 a⟩, sweepCe := sset 0 t.sweepCe f n })
  let s := { s with flight := { s.flight with backs := s.flight.backs ++ [⟨w, d⟩] } }
  if 4 < n then s.retire a else s

/-- An uncorrectable error (09:R243): MEM_UE, MEM_LAST_ERR, event 0x3001, the frame. -/
def State.uncorrectableError (s : State) (r : Reader) (w : Nat) : State :=
  let a := w * 64
  let k := stackOf a
  let s := s.modStack k (fun t => { t with ue := t.ue + 1, lastErr := ⟨2, BitVec.ofNat 2 r.source, BitVec.ofNat 40 a⟩ })
  let s := s.post 0x3001 (srcStack k) r.slot (payload [(0, 8, a), (8, 1, r.source), (9, 1, r.die), (10, 1, r.cell)])
  s.retire a

/-- One word read by a reader: the state after its error is handled, the bytes, whether they are uncorrectable. -/
def State.readWord (s : State) (r : Reader) (w : Nat) : State × Bytes × Bool :=
  let d := s.mem.decodeWord w
  match d.2 with
  | .clean => (s, d.1, false)
  | .corrected => (s.correctedError r w d.1, d.1, false)
  | .bad => (s.uncorrectableError r w, d.1, true)

/-- Consecutive words. -/
def State.readWords (s : State) (r : Reader) : Nat → Nat → State × Bytes × Bool
  | _, 0 => (s, [], false)
  | w, n + 1 =>
    let x := s.readWord r w
    let y := State.readWords x.1 r (w + 1) n
    (y.1, x.2.1 ++ y.2.1, x.2.2 || y.2.2)

/-- A range of bytes: every word it touches is read. -/
def State.readRange (s : State) (r : Reader) (a n : Nat) : State × Bytes × Bool :=
  if n = 0 then (s, [], false) else
  let w0 := a / 64
  let x := s.readWords r w0 ((a + n - 1) / 64 + 1 - w0)
  (x.1, (x.2.1.drop (a % 64)).take n, x.2.2)

/-- The 256-bit tag of a barge as its 64 words are read (09:R240). -/
def DevMem.bargeTag (m : DevMem) (a : Nat) : BitVec 256 :=
  BitVec.ofNat 256 ((List.range 64).foldl (fun t k => t + (m.readNibble (a / 64 + k)).toNat * 16 ^ k) 0)

/-- Stores a barge with its tag (09:R240). -/
def State.writeBarge (s : State) (a : Nat) (p : Bytes) (tag : BitVec 256) : State :=
  s.writeWords (a / 64) p 64 (fun i => some (BitVec.ofNat 4 (tag.toNat / 16 ^ i)))

/-- Replaces bytes of a word and stores it whole (a read-modify-write whose read found no error). -/
def patch (d : Bytes) (i : Nat) (b : Bytes) : Bytes := d.take i ++ b ++ d.drop (i + b.length)

/-- The pieces of a host write: for each word that the range touches, the word, the first byte in it, the bytes. -/
def wordPieces (a : Nat) (d : Bytes) : List (Nat × Nat × Bytes) :=
  if d.length = 0 then [] else
  (List.range ((a + d.length - 1) / 64 + 1 - a / 64)).map (fun i =>
    let w := a / 64 + i
    let lo := max a (w * 64)
    let hi := min (a + d.length) (w * 64 + 64)
    (w, lo - w * 64, (d.drop (lo - a)).take (hi - lo)))

/-- A raw write of the host (14:R359): whole words at once, a smaller piece waits for its read-modify-write (09:R236). Tag nibbles keep their values (10:R270). -/
def State.rawWrite (s : State) (a : Nat) (d : Bytes) : State :=
  (wordPieces a d).foldl (fun s p =>
    if p.2.2.length = 64 then s.writeWord p.1 p.2.2 none
    else { s with flight := { s.flight with subs := s.flight.subs ++ [⟨p.1 * 64 + p.2.1, p.2.2⟩] } }) s

/-! ## Stacks in service -/

def State.stacksInService (s : State) : List Nat := (List.range 8).filter (fun k => (s.stack k).inService)

/-- Repairs lanes and takes a channel or a stack out of service after training (09:R247): the failed lanes found of one channel. -/
def State.trainChannel (s : State) (k c failed : Nat) : State :=
  let key := k * 32 + c
  let n := sget 0 s.ao.repairs key + failed
  let s := { s with ao := { s.ao with repairs := sset 0 s.ao.repairs key n } }
  if 2 < n ∧ ¬ (s.stack k).chanOos.getLsbD c then
    let s := s.modStack k (fun t => { t with chanOos := t.chanOos ||| (1 <<< c) })
    let s := s.post 0x3003 (srcStack k) none (payload [(0, 1, k), (1, 1, c)])
    if (s.stack k).inService then
      (s.modStack k (fun t => { t with inService := false, dump := false })).post 0x3004 (srcStack k) none (payload [(0, 1, k)])
    else s
  else s

/-- Interface training of a stack (09:R247): the lanes found failed, earlier repairs applied again; a stack that has left service by a failed test (15:R402) comes back only where `may` says so. -/
def State.trainStack (s : State) (k : Nat) (may : Bool) (lanes : List (Nat × Nat)) : State :=
  let oos := (List.range 32).filter (fun c => decide (2 < sget 0 s.ao.repairs (k * 32 + c)))
  let s := s.modStack k (fun t => { t with
    trained := true, inService := may && oos.isEmpty, dump := may && oos.isEmpty && k == 0, selfRefresh := false
    chanOos := BitVec.ofNat 32 (oos.foldl (fun a c => a + 2 ^ c) 0) })
  lanes.foldl (fun s x => s.trainChannel k x.1 x.2) s

/-- Whole words from address `a` up to `stop`: every one zero, tag nibble zero, a fresh codeword. -/
def State.zeroRange (s : State) (a stop : Nat) : State :=
  let keep {α : Type} (unit : Nat) (t : Sparse α) : Sparse α := t.filter (fun x => !decide (a ≤ x.1 * unit ∧ x.1 * unit < stop))
  { s with
    mem := { bytes := keep 1 s.mem.bytes, tags := keep 64 s.mem.tags, errs := keep 64 s.mem.errs }
    flight := { s.flight with backs := s.flight.backs.filter (fun b => !decide (a ≤ b.word * 64 ∧ b.word * 64 < stop)) } }

/-- Zero-fill of a stack (09:R248). -/
def State.zeroStack (s : State) (k : Nat) : State := s.zeroRange (k * stackBytes) ((k + 1) * stackBytes)

end Sys2Proof.Machine
end

