-- ==== Sys2Proof/Machine/Random.lean ====
section
/-! DEFINITION. The random generator (04:R103), the digest mixer (01:R32) and the ceil of a threshold. -/

namespace Sys2Proof.Machine

open Sys2Proof

/-- The element digest (01:R32). -/
def mix (i v : BitVec 64) : BitVec 64 :=
  let z := v ^^^ ((i + 1) * 0x9E3779B97F4A7C15)
  let z := (z ^^^ (z >>> 30)) * 0xBF58476D1CE4E5B9
  let z := (z ^^^ (z >>> 27)) * 0x94D049BB133111EB
  z ^^^ (z >>> 31)

/-- The four words of a generator state. -/
structure Quad where
  x0 : BitVec 32
  x1 : BitVec 32
  x2 : BitVec 32
  x3 : BitVec 32
  deriving DecidableEq, Repr

def rotations : Nat → Nat × Nat
  | 0 => (13, 17)
  | 1 => (5, 24)
  | 2 => (9, 19)
  | _ => (27, 11)

/-- Round n of the generator (04:R103). -/
def genRound (k : Quad) (n : Nat) (s : Quad) : Quad :=
  let r := rotations (n % 4)
  let g := BitVec.ofNat 32 (n + 1) * 0x9E3779B9
  let h := BitVec.ofNat 32 (n + 1) * 0xBB67AE85
  let x0 := s.x0 + s.x1
  let x1 := s.x1.rotateLeft r.1 ^^^ x0
  let x2 := s.x2 + s.x3
  let x3 := s.x3.rotateLeft r.2 ^^^ x2
  ⟨x0 ^^^ (k.x0 + g), x3 + (k.x1 + h), x2 ^^^ (k.x2 + g), x1 + (k.x3 + h)⟩

def quadOf (x : BitVec 128) : Quad :=
  ⟨x.extractLsb' 0 32, x.extractLsb' 32 32, x.extractLsb' 64 32, x.extractLsb' 96 32⟩

/-- One invocation of the generator (04:R103). -/
def generate (key ctr : BitVec 128) : Quad :=
  let k := quadOf key
  let s := (List.range 12).foldl (fun s n => genRound k n s) (quadOf ctr)
  ⟨s.x0 + k.x0, s.x1 + k.x1, s.x2 + k.x2, s.x3 + k.x3⟩

/-- The counter of a draw (04:Table 4.1). -/
def drawCounter (stream purpose step group : Nat) : BitVec 128 :=
  BitVec.ofNat 128 ((stream % 2 ^ 16) * 2 ^ 112 + (purpose % 2 ^ 8) * 2 ^ 104 + (step % 2 ^ 40) * 2 ^ 64 + group % 2 ^ 64)

/-- The word of logical index e (04:R104); `step` is the step number plus the stream's offset (R106). -/
def drawWord (key : BitVec 128) (stream purpose step e : Nat) : Nat :=
  let q := generate key (drawCounter stream purpose step (e / 4))
  match e % 4 with
  | 0 => q.x0.toNat
  | 1 => q.x1.toNat
  | 2 => q.x2.toNat
  | _ => q.x3.toNat

end Sys2Proof.Machine
end

