-- ==== Sys2Proof/Machine/Operands.lean ====
section
/-! DEFINITION. Operands: layouts and element positions (chapter 06), the scratchpad of a cell with folding and check bits, tensors in device memory (09:R238), and the instruction record that a command issues (08:R214). -/

namespace Sys2Proof.Machine

open Sys2Proof

/-! ## The image's tables -/

def Image.tensor (g : Image) (id : Nat) : Option TensorRec := g.tensors.find? (fun t => t.id == id)
def Image.layout (g : Image) (id : Nat) : Option Layout := g.layouts.find? (fun l => l.id == id)

/-- The layout of a tensor. -/
def Image.lay (g : Image) (t : Nat) : Option Layout :=
  match g.tensor t with
  | some r => g.layout r.layoutId
  | none => none

/-- The format of a tensor, 0 where there is none. -/
def Image.fmt (g : Image) (t : Nat) : Nat := (g.lay t).elim 0 (fun l => l.format)
def Image.op (g : Image) (id : Nat) : Option OpRec := g.ops.find? (fun o => o.id == id)
def Image.region (g : Image) (t : Nat) : Option RegionRec := g.regions.find? (fun r => r.tensor == t)
def Image.owner (g : Image) (t : Nat) : Option OwnerTable := g.owners.find? (fun o => o.tensor == t)
def Image.memRec (g : Image) (t : Nat) : Option MemRec := g.memory.find? (fun m => m.tensor == t)
def Image.skimOf (g : Image) (t : Nat) : Option TensorRec := g.tensors.find? (fun r => r.companion == t && t != 0)
def Image.dmaOf (g : Image) (cell : Nat) : Option DmaCell := g.dma.find? (fun d => d.cell == cell)

/-! ## Layouts (06:R151 to R154) -/

def prodNat (l : List Nat) : Nat := l.foldl (· * ·) 1

/-- Elements of the logical shape. -/
def Layout.count (l : Layout) : Nat := prodNat l.dims
def Layout.tile (l : Layout) (k : Nat) : Nat := 2 ^ l.tileLog2.getD k 0
def Layout.grid (l : Layout) (k : Nat) : Nat := ceilDiv (l.dims.getD k 1) (l.tile k)
def Layout.tileElems (l : Layout) : Nat := prodNat ((List.range l.rank).map l.tile)
/-- The number of positions. -/
def Layout.positions (l : Layout) : Nat := prodNat ((List.range l.rank).map l.grid) * l.tileElems

/-- The coordinates of a logical index (01:R31), dimension 0 slowest. -/
def coordsOf : List Nat → Nat → List Nat
  | [], _ => []
  | _ :: t, i => (i / prodNat t) :: coordsOf t (i % prodNat t)

/-- The logical index of coordinates, Horner's way. -/
def indexOf (dims cs : List Nat) : Nat := (List.zip dims cs).foldl (fun a x => a * x.1 + x.2) 0

/-- The element position of coordinates (06:R153). -/
def Layout.posOf (l : Layout) (cs : List Nat) : Nat :=
  let tile := (List.range l.rank).foldl (fun a k => a + cs.getD k 0 / l.tile k * l.tstride.getD k 0) 0
  let off := l.order.reverse.foldl (fun a d => a * l.tile d + cs.getD d 0 % l.tile d) 0
  tile * l.tileElems + off

/-- The position of a logical index. -/
def Layout.pos (l : Layout) (i : Nat) : Nat := l.posOf (coordsOf l.dims i)

/-- The in-tile coordinates of an offset: position 0 of ORDER varies fastest. -/
def inTile (l : Layout) : List Nat → Nat → List (Nat × Nat)
  | [], _ => []
  | d :: t, off => (d, off % l.tile d) :: inTile l t (off / l.tile d)

/-- The coordinates of a position. -/
def Layout.posCoords (l : Layout) (p : Nat) : List Nat :=
  let tile := p / l.tileElems
  let w := inTile l l.order (p % l.tileElems)
  (List.range l.rank).map (fun k =>
    tile / l.tstride.getD k 1 % l.grid k * l.tile k + ((w.find? (fun x => x.1 == k)).map (·.2)).getD 0)

/-- The logical index at a position, none outside the logical shape (06:R155). -/
def Layout.posIndex (l : Layout) (p : Nat) : Option Nat :=
  let cs := l.posCoords p
  if (List.range l.rank).all (fun k => decide (cs.getD k 0 < l.dims.getD k 0)) then some (indexOf l.dims cs) else none

/-- Does a block hold a position inside the logical shape? -/
def Layout.blockLive (l : Layout) (h : Nat) : Bool := (List.range 32).any (fun i => decide (h * 32 + i < l.positions) && (l.posIndex (h * 32 + i)).isSome)

/-- Bytes of an element field (03:R70). -/
def fieldBytes (f : Nat) : Nat := 4 * fmtBits f

/-- Bytes of a block in storage (03:Table 3.2). -/
def Layout.blockBytes (l : Layout) : Nat := fieldBytes l.format + (if l.interleaved then 1 else 0)

/-- Blocks per barge (03:Table 3.2). -/
def Layout.blocksPerBarge (l : Layout) : Nat := 4096 / l.blockBytes

/-- Element barges (06:R154). -/
def Layout.elemBarges (l : Layout) : Nat :=
  if isBlockFmt l.format then ceilDiv (l.positions / 32) l.blocksPerBarge
  else ceilDiv (l.positions * (fmtBits l.format / 8)) 4096

def Layout.separate (l : Layout) : Bool := isBlockFmt l.format && !l.interleaved

/-- Scale barges of separate placement. -/
def Layout.scaleBarges (l : Layout) : Nat := if l.separate then ceilDiv (l.positions / 32) 4096 else 0

/-- Where the bits of a position lie in the tensor's storage order: first byte (barge × 4,096 + byte), bit in it. -/
def Layout.byteOf (l : Layout) (p : Nat) : Nat × Nat :=
  if isBlockFmt l.format then
    let h := p / 32
    let b := h / l.blocksPerBarge * 4096 + h % l.blocksPerBarge * l.blockBytes
    let bit := p % 32 * fmtBits l.format
    (b + bit / 8, bit % 8)
  else (p * (fmtBits l.format / 8), 0)

/-- The byte of an interleaved scale, in storage order. -/
def Layout.interScale (l : Layout) (p : Nat) : Nat :=
  let h := p / 32
  h / l.blocksPerBarge * 4096 + h % l.blocksPerBarge * l.blockBytes + fieldBytes l.format

/-- The bytes that an element's bits touch. -/
def Layout.elemBytes (l : Layout) : Nat := if fmtBits l.format = 6 then 2 else (fmtBits l.format + 7) / 8

/-- The place of byte a of a region of this layout (06:R156, R157): its bank, its bank word and its byte, written as word × 2,048 + bank × 64 + byte. The source bits lie at or above bit 11, so only bits 10:6 change. -/
def Layout.swizzled (l : Layout) (a : Nat) : Nat :=
  if l.swzBits = 0 then a else Nat.xor a (bits a (l.swzShift + l.swzBits - 1) l.swzShift * 64)

/-- The bank of a place (06:R156), or its forerunner bank (07:R201). -/
def bankOf (compat : Bool) (a : Nat) : Nat := if compat then Nat.xor (bits a 10 7) (bits a 14 11) else bits a 10 6

/-- The first byte of the bank word (06:R156) or the forerunner word (07:R201) of a place. -/
def spadWordOf (compat : Bool) (a : Nat) : Nat := if compat then a / 128 * 128 else a / 64 * 64

/-- Fill of an out-of-bounds read (06:Table 6.3): the element bits and the scale byte. -/
def Layout.fillElem (l : Layout) : Nat × Nat :=
  let f := l.fill.toNat
  let n := fmtBits l.format
  if n ≤ 32 then (f % 2 ^ n, f / 2 ^ 24) else (bitsOf n (signedOf 32 f), 0)

/-! ## The scratchpad -/

def spadBytes : Nat := 0x400000

/-- Where an engine works: the physical cell and the part of its scratchpad that the phase uses (07:R197). -/
structure Seat where
  key : Nat
  base : Nat
  space : Nat
  deriving DecidableEq, Repr

/-- The physical scratchpad address of a logical one. -/
def Seat.addr (t : Seat) (a : Int) : Nat := t.base + (a % (t.space : Int)).toNat

/-- The place in the physical scratchpad of byte a of a region of a layout: the swizzle is that of the cell's own address, before the fold offset is added (07:R197). -/
def Seat.at (t : Seat) (l : Layout) (a : Int) : Nat := t.base + l.swizzled (a % (t.space : Int)).toNat

/-- The same where the bytes may belong to no layout. -/
def Seat.place (t : Seat) (l : Option Layout) (a : Int) : Nat :=
  match l with
  | some l => t.at l a
  | none => t.addr a

/-- The places of n consecutive 64-byte words. -/
def Seat.words (t : Seat) (l : Option Layout) (a : Int) (n : Nat) : List Nat := (List.range n).map (fun i => t.place l (a + (64 * i : Nat)))

/-- The places of the bytes of words. -/
def bytePlaces (ws : List Nat) : List Nat := ws.flatMap (fun w => (List.range 64).map (fun i => w + i))

/-- The 8 bytes that hold an address, with their error pattern, as a read delivers them (13:R334): 0 sound, 1 corrected, 2 uncorrectable. -/
def spadWordState (e : BitVec 72) : Nat :=
  let n := (List.range 72).countP (fun i => e.getLsbD i)
  if n = 0 then 0 else if n = 1 then 1 else if n = 2 then 2 else
  match Config.spadBeyond e with
  | 0 => 1
  | 1 => 2
  | _ => 0

/-- One byte as a read delivers it. -/
def Cell.byte (c : Cell) (a : Nat) : Byte :=
  let b := sget 0 c.spad a
  match sget 0 c.spadErr (a / 8) with
  | 0 => b
  | e =>
    let n := (List.range 72).countP (fun i => e.getLsbD i)
    if n = 1 then b
    else if n = 2 then b ^^^ (e.extractLsb' (8 * (a % 8)) 8)
    else (Config.spadWrong e).extractLsb' (8 * (a % 8)) 8

/-- A write stores the bytes of a word with fresh check bits; a partly written word keeps no error. -/
def Cell.setByte (c : Cell) (a : Nat) (b : Byte) : Cell :=
  { c with spad := sset 0 c.spad a b, spadErr := sset 0 c.spadErr (a / 8) 0 }

def Cell.setBytes (c : Cell) : Nat → Bytes → Cell
  | _, [] => c
  | a, b :: l => Cell.setBytes (c.setByte a b) (a + 1) l

def Cell.bytes (c : Cell) (a n : Nat) : Bytes := (List.range n).map (fun i => c.byte (a + i))

/-- An operand in the scratchpad: its tensor, its layout, the address where barge 0 of its region would lie, the address where the scale of block 0 would lie (log entry 13). -/
structure Operand where
  tensor : Nat
  kind : Nat
  lay : Layout
  vbase : Int
  sbase : Int
  deriving DecidableEq, Repr

/-- The operand whose position `p` lies at scratchpad address `a`. -/
def operandAt (t : TensorRec) (l : Layout) (a : Nat) (p : Nat) : Operand :=
  let vb : Int := (a : Int) - ((l.byteOf p).1 : Int)
  ⟨t.id, t.kind, l, vb, Config.scaleBase t.id vb⟩

/-- The address of a storage byte of the operand. -/
def Operand.at (o : Operand) (t : Seat) (b : Nat) : Nat := t.at o.lay (o.vbase + b)

/-- The address of the scale byte of a position. -/
def Operand.scaleAddr (o : Operand) (t : Seat) (p : Nat) : Nat :=
  if o.lay.interleaved then o.at t (o.lay.interScale p) else t.at o.lay (o.sbase + (p / 32 : Nat))

/-- The bits of the element at a position. -/
def Operand.bits (o : Operand) (t : Seat) (c : Cell) (p : Nat) : Nat :=
  let x := o.lay.byteOf p
  let b := leNat ((List.range o.lay.elemBytes).map (fun i => c.byte (o.at t (x.1 + i))))
  b / 2 ^ x.2 % 2 ^ fmtBits o.lay.format

/-- The scale byte of a position, 0 where the format has none. -/
def Operand.scale (o : Operand) (t : Seat) (c : Cell) (p : Nat) : Nat :=
  if isBlockFmt o.lay.format then (c.byte (o.scaleAddr t p)).toNat else 0

/-- The bytes that the element at a position lies in. -/
def Layout.spanBytes (l : Layout) (p : Nat) : Nat := ((l.byteOf p).2 + fmtBits l.format + 7) / 8

/-- The addresses that reading a position touches. -/
def Operand.touches (o : Operand) (t : Seat) (p : Nat) : List Nat :=
  let x := o.lay.byteOf p
  (List.range (o.lay.spanBytes p)).map (fun i => o.at t (x.1 + i)) ++ (if isBlockFmt o.lay.format then [o.scaleAddr t p] else [])

/-- Writes the bits of the element at a position. -/
def Operand.setBits (o : Operand) (t : Seat) (c : Cell) (p v : Nat) : Cell :=
  let x := o.lay.byteOf p
  let n := fmtBits o.lay.format
  let k := if x.2 + n ≤ 8 then 1 else o.lay.elemBytes
  let old := leNat ((List.range k).map (fun i => c.byte (o.at t (x.1 + i))))
  let new := old - old / 2 ^ x.2 % 2 ^ n * 2 ^ x.2 + v % 2 ^ n * 2 ^ x.2
  (List.range k).foldl (fun c i => c.setByte (o.at t (x.1 + i)) (BitVec.ofNat 8 (new / 256 ^ i))) c

def Operand.setScale (o : Operand) (t : Seat) (c : Cell) (p v : Nat) : Cell :=
  if isBlockFmt o.lay.format then c.setByte (o.scaleAddr t p) (BitVec.ofNat 8 v) else c

/-- The exact value of the element at a position; `anchor` is that of an anchored element. -/
def Operand.val (o : Operand) (t : Seat) (c : Cell) (p : Nat) (anchor : Int) : Val :=
  decodeVal o.lay.format (o.scale t c p) (o.bits t c p) anchor

/-- The binary32 value of the element at a position (03:R91). -/
def Operand.f32 (o : Operand) (t : Seat) (c : Cell) (p : Nat) : BitVec 32 :=
  (widen o.lay.format (o.scale t c p) (o.bits t c p)).bits

/-- The fill as a binary32 value. -/
def Layout.fillVal (l : Layout) (anchor : Int) : Val := decodeVal l.format l.fillElem.2 l.fillElem.1 anchor

/-! ## Tensors in device memory (09:R238) -/

/-- The node that owns an element barge (06:R174). -/
def OwnerTable.ownerOf (o : OwnerTable) (b : Nat) : Nat :=
  if o.kind = 1 then (o.entries.getD (b / max 1 o.grain % max 1 o.entries.length) (0, 0)).1
  else ((o.entries.filter (fun e => decide (e.2 ≤ b))).getLast?.getD (0, 0)).1

/-- The node that OWNER names: the owner table's, or the holding module. -/
def State.ownerNode (s : State) (g : Image) (tensor b : Nat) : Nat :=
  match g.owner tensor with
  | some o => o.ownerOf b
  | none => s.lnk.node.toNat

/-- The number of local barges below block `b` on node `n`. -/
def localIndex (o : Option OwnerTable) (n b : Nat) : Nat :=
  match o with
  | none => b
  | some t => (List.range b).countP (fun x => t.ownerOf x == n)

/-- The device address of local barge i (09:R238). -/
def TensorPlace.addr (p : TensorPlace) (i : Nat) : Nat :=
  let n := max 1 p.stks.length
  p.stks.getD (i % n) 0 * stackBytes + p.offset + i / n * 4096

/-- Bytes of working area for each local barge of a region: 16 for each of its cells (09:R249). -/
def Image.workBytes (g : Image) (t : Nat) : Nat := match g.region t with
  | some r => if r.cellType = 0x12 then 16384 else 8192
  | none => 0

/-- The working area of a tensor on each of its stacks: it follows the tensor's barges there (log 127). -/
def TensorPlace.workBase (p : TensorPlace) : Nat := p.offset + ceilDiv p.blocks (max 1 p.stks.length) * 4096

/-- The device address of the working area of local barge i. -/
def TensorPlace.workAddr (p : TensorPlace) (bytes i : Nat) : Nat :=
  let n := max 1 p.stks.length
  p.stks.getD (i % n) 0 * stackBytes + p.workBase + i / n * bytes

/-- All barges of a tensor without an owner table, the scale barges included: scale barge j follows element barge SCALE_BLOCK0 − 1 + … in ascending block index. -/
def Layout.localOf (l : Layout) (b : Nat) : Nat := if b < l.elemBarges then b else l.elemBarges + (b - l.scaleBlock0)

/-- The place of a tensor in a context: its own, or that of the selected epoch or base (chapter 12). -/
def State.placeOf (s : State) (n : Nat) (tensor : Nat) : Option TensorPlace :=
  let sl := s.slot n
  let own := sl.place.tensors.find? (fun p => p.tensor == tensor)
  let ep := (sget .none sl.epochs sl.epochCur.toNat).places.find? (fun p => p.tensor == tensor)
  let bs := if sl.baseCur = 7 then none else (sget .none s.wld.bases sl.baseCur.toNat).places.find? (fun p => p.tensor == tensor)
  (bs.orElse (fun _ => ep)).orElse (fun _ => own)

/-- The number of barge `b` of a tensor among the barges that the module holds (06:R174, 09:R238). -/
def State.localBlock (s : State) (n : Nat) (g : Image) (tensor b : Nat) : Option Nat :=
  match g.lay tensor, s.placeOf n tensor with
  | some l, some _ =>
    match g.owner tensor with
    | some o => if o.ownerOf b = s.lnk.node.toNat then some (localIndex (some o) s.lnk.node.toNat b) else none
    | none => some (l.localOf b)
  | _, _ => none

/-- The device address of barge `b` of a tensor of context `n`, if the module holds it. -/
def State.bargeAddr (s : State) (n : Nat) (g : Image) (tensor b : Nat) : Option Nat :=
  match s.placeOf n tensor, s.localBlock n g tensor b with
  | some p, some i => some (p.addr i)
  | _, _ => none

/-- The working areas of the loaded contexts' regions (09:R249). -/
def State.workRanges (s : State) : List StackRange :=
  (List.range 8).flatMap (fun n => ((s.slot n).image).elim [] (fun g => g.regions.flatMap (fun r => (s.placeOf n r.tensor).elim [] (fun p =>
    let w := p.stks.length
    (List.zip (List.range w) p.stks).map (fun y => ⟨y.2, p.workBase, p.workBase + (p.blocks + w - 1 - y.1) / w * g.workBytes r.tensor⟩)))))

/-- Is a range of device memory one that the host reaches: valid, and nothing of a working area, which is not host-visible (09:R249; log entry 189)? -/
def State.hostRange (s : State) (a n : Nat) : Bool :=
  validRange a n && s.workRanges.all (fun r => decide (a + n ≤ r.stack * stackBytes + r.first ∨ r.stack * stackBytes + r.stop ≤ a ∨ r.stop ≤ r.first))

/-- The device address of the 16 bytes that hold a cell of a region while it accumulates (09:R249). -/
def State.workPlace (s : State) (n : Nat) (g : Image) (tensor cell : Nat) : Option Nat :=
  match g.lay tensor, s.placeOf n tensor with
  | some l, some p =>
    let a := (l.byteOf cell).1
    (s.localBlock n g tensor (a / 4096)).map (fun i => p.workAddr (g.workBytes tensor) i + a % 4096 / (fmtBits l.format / 8) * 16)
  | _, _ => none

/-! ## The command that issues an instruction record -/

/-- An instruction record with all it refers to: the executing slot, its image, the operation, the physical cell. -/
structure Issue where
  slot : Nat
  g : Image
  rc : IRec
  op : OpRec
  bind : Binding
  fold : Nat
  deriving DecidableEq, Repr

def Issue.key (x : Issue) : Nat := cellKey x.bind.die x.bind.cell
def Issue.seat (x : Issue) : Seat :=
  ⟨x.key, x.bind.phase * (spadBytes / x.fold), spadBytes / x.fold⟩

/-- Bits h:l of ARGS. -/
def Issue.arg (x : Issue) (h l : Nat) : Nat := Machine.bits x.rc.args.toNat h l
def Issue.param (x : Issue) (h l : Nat) : Nat := Machine.bits x.op.params.toNat h l

/-- The length L of a pound. -/
def Image.poundLen (g : Image) (p : Nat) : Nat := (g.pounds.getD p ⟨0, 0⟩).length

/-- The image of the executing context. -/
def State.execImage (s : State) : Option (Nat × Image) :=
  match s.sch.exec with
  | some n => match (s.slot n).image with
    | some g => some (n.val, g)
    | none => none
  | none => none

/-- The operation of a marker. -/
def noOp : OpRec := ⟨0, 0, 0, 0, 0, 0, 0, 0, 0, 0, 0⟩

/-- The record that a command names, if the executing context is in its pound and its phase and the record is of the engine. -/
def State.issueOf (s : State) (k engine : Nat) : Option Issue :=
  match s.execImage with
  | none => none
  | some (n, g) =>
    match g.instrs[k]? with
    | none => none
    | some rc =>
      match (s.slot n).place.bindings.find? (fun b => b.logical == rc.cell) with
      | none => none
      | some b =>
        if rc.engine = engine ∧ rc.pound = s.sch.pound ∧ b.phase = s.sch.phase ∧ s.sch.state = .inPound
            ∧ (s.slot n).state = .active ∧ (s.cell (cellKey b.die b.cell)).inReset = false then
          some ⟨n, g, rc, (g.op rc.opId).getD noOp, b, (s.slot n).place.fold⟩
        else none

/-- A record whose turn it is (06:R172): it has not run in this step, and no later record of its engine and its cell has. -/
def State.inTurn (s : State) (k : Nat) (x : Issue) : Bool :=
  !(s.slot x.slot).doneRecs.any (fun j => decide (k ≤ j) && (x.g.instrs[j]?).any (fun r => r.cell == x.rc.cell && r.engine == x.rc.engine && r.pound == x.rc.pound))

/-- The record that a command issues, in its turn. -/
def State.turn (s : State) (k engine : Nat) : Option Issue :=
  match s.issueOf k engine with
  | some x => if s.inTurn k x then some x else none
  | none => none

/-- SCH_TICK follows the ticks of the pound (07:R176). -/
def State.tickTo (s : State) (t : Nat) : State :=
  if s.sch.tickIn < t then
    { s with sch := { s.sch with tick := s.sch.tick + BitVec.ofNat 64 (t - s.sch.tickIn), tickIn := t } }
  else s

/-- The tick of the pound at which a record issues (07:R195). -/
def Issue.start (x : Issue) : Nat := x.bind.phase * x.g.poundLen x.rc.pound + x.rc.offset

/-- The records of another engine of the same logical cell in the same pound. -/
def Issue.mates (x : Issue) (engine : Nat) : List Issue :=
  (x.g.instrs.filter (fun r => r.cell == x.rc.cell && r.pound == x.rc.pound && r.engine == engine)).filterMap (fun r =>
    (x.g.op r.opId).map (fun o => { x with rc := r, op := o }))

/-- The issue of a record: the tick, the work of the cell in this phase, the records of the operation that have run. -/
def State.began (s : State) (k : Nat) (x : Issue) : State :=
  let s := s.tickTo x.start
  let s := s.modCell x.key (fun c => { c with worked := true })
  s.modSlot x.slot (fun sl => { sl with doneRecs := k :: sl.doneRecs })

/-- The records of an operation with a lower part number, each part once (log entry 14). -/
def partStart (x : Issue) (size : IRec → Nat) : Nat :=
  let rs := x.g.instrs.filter (fun r => r.opId == x.op.id && r.engine == x.rc.engine && decide (r.part < x.rc.part))
  (rs.foldl (fun (a : List Nat × Nat) r => if a.1.contains r.part then a else (r.part :: a.1, a.2 + size r)) ([], 0)).2

/-- An operand of a record by tensor id, address and the position at that address. -/
def Issue.operand (x : Issue) (tensor a p : Nat) : Option Operand :=
  match x.g.tensor tensor, x.g.lay tensor with
  | some t, some l => some (operandAt t l a p)
  | _, _ => none

/-- The random word of an element, for a recipe that rounds stochastically (03:R85): kind G, or the word that `force` asks for. -/
def State.roundWord (s : State) (n : Nat) (stream kind : Nat) (force : Bool) (i : Nat) : Option Nat :=
  if kind = 2 || force then
    let sl := s.slot n
    some (drawWord sl.seed stream 1 (sl.step.toNat + (sget 0 sl.offsets stream).toNat) i)
  else none

/-- A random word of another purpose. -/
def State.drawOf (s : State) (n stream purpose e : Nat) : Nat :=
  let sl := s.slot n
  drawWord sl.seed stream purpose (sl.step.toNat + (sget 0 sl.offsets stream).toNat) e

end Sys2Proof.Machine
end

