-- ==== Sys2Proof/Machine/Ports.lean ====
section
/-! DEFINITION. The ports of the scratchpad in time (06:R160, R172; 07:R185, R200, R202): what stood in it at a tick, what a read receives that shares its bank with a read of a higher priority, and which writes land. -/

namespace Sys2Proof.Machine

open Sys2Proof

/-! ## Reads -/

/-- The tile queue before tick τ of a drain, which fills one row of 128 values per tick (05:Table 5.4). -/
def undrain (τ : Nat) (q : Sparse (BitVec 32)) (w : QueueLanding) : Sparse (BitVec 32) :=
  let from_ := w.base + (τ - w.tick) * 128
  let undone (i : Nat) : Bool := decide (from_ ≤ i ∧ i < w.base + 16384)
  (w.old.filter (fun y => undone y.1)).foldl (fun q y => sset 0 q y.1 y.2) (q.filter (fun y => !undone y.1))

/-- The scratchpad and the tile queue as they stand before the writes of tick τ: a read and a write of the same word in one tick return the word as it stood before (06:R160), and a read before a write's latency has elapsed the bytes that stood there before (07:R200). -/
def Cell.asOf (c : Cell) (τ : Nat) : Cell :=
  { c with
    spad := (c.landed.filter (fun w => decide (τ ≤ w.tick))).foldl (fun m w => sset 0 m w.addr w.old) c.spad
    tileQ := (c.queueLanded.filter (fun w => decide (τ < w.tick + 128))).foldl (undrain τ) c.tileQ }

/-- The words of a read that receive another word: a read of higher priority uses their bank in the same tick (06:R160, 07:Table 7.5). `above` are the reads of higher priority, the highest first. -/
def displaced (compat : Bool) (above mine : List Nat) : List (Nat × Nat) :=
  ((mine.map (spadWordOf compat)).eraseDups).filterMap (fun w =>
    (above.find? (fun a => bankOf compat a == bankOf compat w)).map (fun a => (w, spadWordOf compat a)))

/-- The scratchpad with words put in the place of others. -/
def Cell.wordsFor (c : Cell) (compat : Bool) (ws : List (Nat × Nat)) : Cell :=
  { c with spad := ws.foldl (fun m y => (List.range (if compat then 128 else 64)).foldl (fun m i => sset 0 m (y.1 + i) (sget 0 c.spad (y.2 + i))) m) c.spad }

/-- The cell as a read at tick τ receives it: `mine` are the places read, `above` those of the reads of higher priority in the same tick. -/
def Cell.seen (c : Cell) (compat : Bool) (τ : Nat) (above mine : List Nat) : Cell :=
  (c.asOf τ).wordsFor compat (displaced compat above mine)

/-- The uses of a cell's ports in a tick that the image does not fix, by the engines up to one. -/
def Cell.usesOf (c : Cell) (engine : Nat) (write : Bool) (τ : Nat) : List Nat :=
  (c.ports.filter (fun u => decide (u.engine ≤ engine) && u.tick == τ && u.write == write)).map (·.addr)

/-- Notes uses of an engine's ports. -/
def Cell.notePorts (c : Cell) (engine : Nat) (compat : Bool) (write : Bool) (ys : List (Nat × Nat)) : Cell :=
  { c with ports := (ys.map (fun y => (⟨engine, y.1, write, spadWordOf compat y.2⟩ : PortUse))).eraseDups ++ c.ports }

/-! ## Writes -/

/-- Leaves an entry out that repeats the one before it. -/
def squash {α : Type} [DecidableEq α] : List α → List α
  | a :: b :: t => if a = b then squash (b :: t) else a :: squash (b :: t)
  | l => l

/-- Puts a landing into its place among the later ones. -/
def insertLanding (w : Landing) : List Landing → List Landing
  | [] => [w]
  | v :: t => if w.tick < v.tick then v :: insertLanding w t else w :: v :: t

/-- The earliest of the landings at a place after tick τ stands on byte b. -/
def onto (τ a : Nat) (b : Byte) : List Landing → List Landing
  | [] => []
  | v :: t => if v.addr = a ∧ τ < v.tick ∧ t.all (fun u => decide (u.addr ≠ a ∨ u.tick ≤ τ)) then { v with old := b } :: t else v :: onto τ a b t

/-- One written byte lands: one that a write of higher priority in its bank displaces is lost (06:R160), one under a landing of a later tick stands below it. `c` is the cell before the record's writes. -/
def Cell.landByte (c : Cell) (lost : Bool) (m : Cell) (y : Nat × Nat) : Cell :=
  let below : Cell := { m with spad := sset 0 m.spad y.2 (sget 0 c.spad y.2) }
  if lost then below
  else match (c.landed.filter (fun w => decide (w.addr = y.2 ∧ y.1 < w.tick))).getLast? with
    | none => { m with landed := insertLanding ⟨y.1, y.2, sget 0 c.spad y.2⟩ m.landed }
    | some v => { below with landed := insertLanding ⟨y.1, y.2, v.old⟩ (onto y.1 y.2 (sget 0 m.spad y.2) m.landed) }

/-- The writes of a record land: `c'` is the cell with all of them in place, `ws` their ticks and places, `lost` says which are lost. -/
def Cell.land (c c' : Cell) (ws : List (Nat × Nat)) (lost : Nat → Nat → Bool) : Cell :=
  (squash ws).foldl (fun m y => c.landByte (lost y.1 y.2) m y) c'

/-- Bytes written from a place on in consecutive words, one word per tick (07:Table 7.1). -/
def wordTicks (τ a n : Nat) : List (Nat × Nat) := (List.range n).map (fun i => (τ + i / 64, a + i))

/-- Is a write lost to one of higher priority in its bank (06:R160, 07:Table 7.5)? `above` are the writes of higher priority in a tick. -/
def lostTo (compat : Bool) (above : Nat → List Nat) (τ a : Nat) : Bool := (above τ).any (fun b => bankOf compat b == bankOf compat a)

end Sys2Proof.Machine
end

