-- ==== Sys2Proof/Machine/Flags.lean ====
section
/-! DEFINITION. The counts of a context (03:R86, 06:R166), the digests of a step (01:R32), the surveys in use (05:R125) and the checks of scratchpad reads (13:R334). -/

namespace Sys2Proof.Machine

open Sys2Proof

/-! ## Counts -/

/-- Adds saturations of a tensor kind (03:Table 3.3: 0 W, 1 A, 2 G, 3 O). -/
def Counts.sat (c : Counts) (kind n : Nat) : Counts :=
  match kind with
  | 0 => { c with satW := c.satW + BitVec.ofNat 64 n }
  | 1 => { c with satA := c.satA + BitVec.ofNat 64 n }
  | 2 => { c with satG := c.satG + BitVec.ofNat 64 n }
  | _ => { c with satO := c.satO + BitVec.ofNat 64 n }

def Counts.add (a b : Counts) : Counts :=
  ⟨a.satW + b.satW, a.satA + b.satA, a.satG + b.satG, a.satO + b.satO, a.oobRead + b.oobRead, a.oobWrite + b.oobWrite⟩

/-- Changes the counts of the step in progress of a slot. -/
def State.count (s : State) (n : Nat) (f : Counts → Counts) : State :=
  let x := s.numSlot n
  s.setNumSlot n { x with current := f x.current }

def State.countSat (s : State) (n kind k : Nat) : State := if k = 0 then s else s.count n (fun c => c.sat kind k)
def State.countOobRead (s : State) (n k : Nat) : State :=
  if k = 0 then s else s.count n (fun c => { c with oobRead := c.oobRead + BitVec.ofNat 64 k })
def State.countOobWrite (s : State) (n k : Nat) : State :=
  if k = 0 then s else s.count n (fun c => { c with oobWrite := c.oobWrite + BitVec.ofNat 64 k })

/-! ## Digests -/

/-- The encoded value of an element (01:Table 1.3). -/
def encodedValue (f scale bits : Nat) : Nat :=
  if isBlockFmt f then scale * 2 ^ fmtBits f + bits % 2 ^ fmtBits f else bits % 2 ^ fmtBits f

/-- The operations that write a tensor, in logical order. -/
def Image.writersOf (g : Image) (t : Nat) : List Nat :=
  (g.ops.filter (fun o => o.dst == t ||
      (o.opcode == 0x0213 && Machine.bits o.params.toNat 63 32 == t) ||
      (o.opcode == 0x0231 && Machine.bits o.params.toNat 31 0 == t) ||
      (o.opcode == 0x0240 && g.tensors.any (fun r => r.id == t && r.companion == o.dst && o.dst != 0)))).map (·.id)

/-- The operations whose results stand at a digest point: those at or below its OP_ID that write the tensor (log entry 15). -/
def Image.pointOps (g : Image) (d : DigestRec) : List Nat := (g.writersOf d.tensor).filter (fun o => decide (o ≤ d.opId))

/-- The phase of a logical cell under a fold factor: its fold group (07:R194). -/
def CellRec.phase (c : CellRec) (fold : Nat) : Nat := if fold = 2 then c.g2 else if fold = 4 then c.g4 else 0

/-- The record that sends on a route: a link send, or a DMA record with a routed descriptor (11:R285, R286). -/
def Image.routeRec (g : Image) (r : LinkRoute) : Option IRec :=
  g.instrs.find? (fun i => (i.engine == 7 && bits i.args.toNat 137 122 == r.number) ||
    (i.engine == 5 && ((g.dmaOf i.cell).bind (fun d => d.descrs[bits i.args.toNat 156 142]?)).any (fun d => d.route == r.number)))

/-- Does a route bring what an operation at or below a point's OP_ID has written? -/
def Image.routeAtPoint (g : Image) (d : DigestRec) (r : LinkRoute) : Bool := (g.routeRec r).any (fun i => decide (i.opId ≤ d.opId))

/-- The nodes of the modules that hold a tensor: the whole sill group for one with a place in device memory, else those whose cells write it (01:R34). -/
def Image.holders (g : Image) (t : Nat) : List Nat :=
  if (g.memRec t).isSome then g.sill else
    let ws := g.writersOf t
    (g.instrs.filter (fun r => ws.contains r.opId && r.engine != 0)).filterMap (fun r => (g.cells[r.cell]?).bind (fun c => g.sill[c.position]?))

/-- Does this module digest the element (01:R34, R35)? -/
def State.digestsHere (s : State) (g : Image) (d : DigestRec) (l : Layout) (i : Nat) : Bool :=
  d.replica ||
  match g.owner d.tensor with
  | some o => o.ownerOf ((l.byteOf (l.pos i)).1 / 4096) == s.lnk.node.toNat
  | none => (g.holders d.tensor).all (fun n => decide (s.lnk.node.toNat ≤ n))

/-- Elements are digested at a point. An element that is written again, as a partial of a divided sum is, stands as it was stored last. -/
def addDigest (l : List DigestAcc) (point : Nat) (fires : Bool) (es : List (Nat × Nat × Bool)) : List DigestAcc :=
  let f (a : DigestAcc) : DigestAcc := { a with fired := a.fired || fires, elems := es.foldl (fun m e => sset none m e.1 (some e.2)) a.elems }
  if l.any (fun a => a.point == point) then l.map (fun a => if a.point = point then f a else a)
  else l ++ [f ⟨point, false, []⟩]

/-- COUNT, DIGEST and NAN of what a point has digested (01:R32, Table 1.4). -/
def DigestAcc.count (a : DigestAcc) : Nat := a.elems.length
def DigestAcc.sum (a : DigestAcc) : Word :=
  a.elems.foldl (fun t e => t + mix (BitVec.ofNat 64 e.1) (BitVec.ofNat 64 (e.2.elim 0 (·.1)))) 0
def DigestAcc.nan (a : DigestAcc) : Bool := a.elems.any (fun e => e.2.any (·.2))

/-- Digests at a point those of the elements that this module digests there. -/
def State.addElems (s : State) (n : Nat) (g : Image) (d : DigestRec) (l : Layout) (fires : Bool) (es : List (Nat × Nat × Nat)) : State :=
  let mine := (es.filter (fun e => s.digestsHere g d l e.1)).map (fun e =>
    (e.1, encodedValue l.format e.2.1 e.2.2, decodeVal l.format e.2.1 e.2.2 0 == .nan))
  s.modSlot n (fun sl => { sl with digests := addDigest sl.digests d.point fires mine })

/-- Digests in passing the elements that an operation has written (01:R32): logical index, scale byte, bits. What a later operation up to the point's OP_ID writes stands in its place. -/
def State.digest (s : State) (n : Nat) (g : Image) (op tensor : Nat) (l : Layout) (es : List (Nat × Nat × Nat)) : State :=
  g.digests.foldl (fun s d => if d.tensor = tensor ∧ (g.pointOps d).contains op = true then s.addElems n g d l true es else s) s

/-! ## The step's events of an operation (14:R373): posted at the end of the pound of its last record -/

/-- An event of an operation, once in the step. -/
def State.opEvent (s : State) (n op code : Nat) : State :=
  s.modSlot n (fun sl => if sl.opEvents.any (fun e => e.op == op && e.code == code) then sl
    else { sl with opEvents := sl.opEvents ++ [⟨op, code, payload [(0, 4, op), (8, 8, sl.step.toNat)]⟩] })

/-- The event of a sequence whose sample is −1 (04:R116). -/
def State.samplerEvent (s : State) (n op sequence position : Nat) : State :=
  s.modSlot n (fun sl => { sl with opEvents := sl.opEvents ++ [⟨op, 0x2002, payload [(0, 8, sequence), (8, 8, position)]⟩] })

/-! ## Scratchpad reads -/

/-- The 8-byte words with an error among the addresses read, each once (13:R334). -/
def Cell.wrongWords (c : Cell) (as : List Nat) : List (Nat × Nat) :=
  (c.spadErr.filter (fun e => as.any (fun a => a / 8 == e.1))).map (fun e => (e.1, spadWordState e.2))

/-- Counts the errors of a scratchpad read, writes corrected words back; the answer names the uncorrectable words. -/
def Cell.readCheck (c : Cell) (as : List Nat) : Cell × List Nat :=
  let ws := c.wrongWords as
  let ce := ws.countP (fun w => w.2 == 1)
  let ue := (ws.filter (fun w => w.2 == 2)).map (·.1)
  -- a corrected word is written back as it was read
  let c1 := (ws.filter (fun w => w.2 == 1)).foldl (fun c w =>
    let b := c.bytes (w.1 * 8) 8
    c.setBytes (w.1 * 8) b) c
  ({ c1 with spadCe := c1.spadCe + BitVec.ofNat 64 ce, spadUe := c1.spadUe + BitVec.ofNat 64 ue.length }, ue)

/-! ## Surveys -/

/-- A factor above the survey in use (05:R125). -/
def aboveSurvey (byte survey : Nat) : Bool := decide (survey < byte)

end Sys2Proof.Machine
end

