-- ==== Sys2Proof/Machine/Faults.lean ====
section
/-! DEFINITION. Towpath tags and seals (10:R259 to R264), the module's own tensors, context faults (08:R230, 13:R336), dump records, snag lists, cells out of service and failed hops. -/

namespace Sys2Proof.Machine

open Sys2Proof

/-! ## Barges of a layout -/

/-- The positions whose element bits lie in element barge b. -/
def Layout.bargePositions (l : Layout) (b : Nat) : List Nat :=
  let per := if isBlockFmt l.format then 32 * l.blocksPerBarge else 4096 / (fmtBits l.format / 8)
  (List.range per).filterMap (fun i => if b * per + i < l.positions then some (b * per + i) else none)

/-- Which bits of byte j of barge b hold positions inside the logical shape or their scales (06:R155). -/
def Layout.liveMask (l : Layout) (b j : Nat) : Nat :=
  let live (p : Nat) : Bool := decide (p < l.positions) && (l.posIndex p).isSome
  if isBlockFmt l.format then
    if l.separate ∧ l.elemBarges ≤ b then
      if ((b - l.scaleBlock0) * 4096 + j) * 32 < l.positions ∧ l.blockLive ((b - l.scaleBlock0) * 4096 + j) = true then 255 else 0
    else
      let r := j / l.blockBytes
      let h := b * l.blocksPerBarge + r
      let o := j % l.blockBytes
      if l.blocksPerBarge ≤ r ∨ l.positions ≤ h * 32 then 0
      else if fieldBytes l.format ≤ o then (if l.blockLive h then 255 else 0)
      else (List.range 8).foldl (fun a i => if live (h * 32 + (o * 8 + i) / fmtBits l.format) then a + 2 ^ i else a) 0
  else if live ((b * 4096 + j) / (fmtBits l.format / 8)) then 255 else 0

/-- The payload as the module writes it: zero outside the logical shape and in unused bytes (06:R155). -/
def Layout.maskBarge (l : Layout) (b : Nat) (p : Bytes) : Bytes :=
  (List.range 4096).map (fun j => p.getD j 0 &&& BitVec.ofNat 8 (l.liveMask b j))

/-! ## Tags (10:Table 10.1) -/

/-- Places a field. -/
def fld (x w l : Nat) : Nat := x % 2 ^ w * 2 ^ l

/-- A tag's fields but for CHECK. -/
structure TagFields where
  source : Nat
  step : Nat
  owner : Nat
  layout : Nat
  block : Nat
  tensor : Nat
  fill : Bool
  last : Bool
  shadow : Bool
  critical : Bool
  digest : Bool
  scalePlace : Bool
  format : Nat
  ctx : Nat
  gen : Nat
  deriving DecidableEq, Repr

def bitN (b : Bool) : Nat := if b then 1 else 0

def TagFields.pack (t : TagFields) : Nat :=
  fld t.source 16 212 + fld t.step 40 172 + fld t.owner 20 152 + fld t.layout 16 136 + fld t.block 40 96 + fld t.tensor 32 64 +
  bitN t.fill * 2 ^ 61 + bitN t.last * 2 ^ 60 + bitN t.shadow * 2 ^ 59 + bitN t.critical * 2 ^ 58 + bitN t.digest * 2 ^ 57 +
  bitN t.scalePlace * 2 ^ 56 + fld t.format 8 48 + fld t.ctx 3 40 + fld t.gen 8 32

/-- The check value of a payload and a tag (10:R262). -/
def checkValue (p : Bytes) (tag : Nat) : BitVec 32 := crc32c (p ++ (leBytes 32 tag).drop 4)

/-- A tag with its check value. -/
def sealTag (p : Bytes) (tag : Nat) : BitVec 256 :=
  BitVec.ofNat 256 (tag - tag % 2 ^ 32 + (checkValue p tag).toNat)

def tagOk (p : Bytes) (tag : BitVec 256) : Bool := checkValue p tag.toNat == BitVec.ofNat 32 tag.toNat

def tagField (tag : BitVec 256) (h l : Nat) : Nat := bits tag.toNat h l
def tagTensor (t : BitVec 256) : Nat := tagField t 95 64
def tagBlock (t : BitVec 256) : Nat := tagField t 135 96
def tagOwner (t : BitVec 256) : Nat := tagField t 171 152
def tagSource (t : BitVec 256) : Nat := tagField t 227 212
def tagCtx (t : BitVec 256) : Nat := tagField t 42 40
def tagGen (t : BitVec 256) : Nat := tagField t 39 32

/-- A tag with a field replaced. -/
def setTag (t h l v : Nat) : Nat := t - bits t h l * 2 ^ l + v % 2 ^ (h + 1 - l) * 2 ^ l

/-! SOURCE of a tag (10:Table 10.2). -/
def sourceCell (die cell : Nat) : Nat := cell * 16 + die
def sourceHost : Nat := 0x4000
def sourceStack (k : Nat) : Nat := 0x8000 + k
def sourceControl : Nat := 0xC000

/-- The tag of barge b of a tensor of context n (10:Table 10.1). -/
def State.tagOf (s : State) (n : Nat) (g : Image) (tensor b source step : Nat) : TagFields :=
  let l := (g.lay tensor).getD ⟨0, 0, 0, 0, false, 0, 0, [], [], [], [], 0, 0⟩
  let r := (g.tensor tensor).getD ⟨0, 0, 0, false, false, false, 0⟩
  { source := source, step := step, owner := s.ownerNode g tensor b, layout := r.layoutId, block := b, tensor := tensor,
    fill := decide (b < l.elemBarges) && (l.bargePositions b).any (fun p => (l.posIndex p).isNone)
    last := decide (b + 1 = l.elemBarges), shadow := false, critical := r.critical,
    digest := g.digests.any (fun d => d.tensor == tensor), scalePlace := l.interleaved, format := l.format,
    ctx := if r.shared then 0 else n, gen := if r.shared then 0 else (s.gen n).toNat }

/-- Seals a barge (10:R263): the payload as written, and its tag. -/
def State.seal (s : State) (n : Nat) (g : Image) (tensor b source step : Nat) (p : Bytes) : Bytes × BitVec 256 :=
  let p' := match g.lay tensor with
    | some l => l.maskBarge b p
    | none => p
  (p', sealTag p' (s.tagOf n g tensor b source step).pack)

/-- A context faults at its next sill (07:R184). -/
def State.faultAtSill (s : State) (n : Nat) : State := s.modSlot n (fun sl => { sl with sillFault := true })

/-! ## Failed hops (10:R265) and late traffic (10:R266) -/

/-- The event of a failed hop, and the fault of the context that the tag names if its generation is current. -/
def State.failedHop (s : State) (hop source : Nat) (tensor block src ctx gen : Nat) : State :=
  let live := decide ((s.gen ctx).toNat = gen) && (match (s.slot ctx).state with | .idle => true | .active => true | _ => false)
  let s := s.post 0x5009 source (if live then some ctx else none) (payload [(0, 4, tensor), (4, 8, block), (12, 2, src), (14, 2, hop)])
  if live then s.faultAtSill ctx else s

def State.failedHopTag (s : State) (hop source : Nat) (tag : BitVec 256) : State :=
  s.failedHop hop source (tagTensor tag) (tagBlock tag) (tagSource tag) (tagCtx tag) (tagGen tag)

/-- A failed hop of code h that a unit other than a cell checks (13:R354). -/
def State.towFail (s : State) (h : Nat) : State :=
  { s with flt := { s.flt with towFail := sset 0 s.flt.towFail h (sget 0 s.flt.towFail h + 1) } }

/-- Is traffic of this CTX and GEN late (10:R266)? -/
def State.isLate (s : State) (ctx gen : Nat) : Bool :=
  match (s.slot ctx).state with
  | .empty => true
  | .draining => true
  | _ => decide ((s.gen ctx).toNat ≠ gen)

/-! ## Writes of the module itself -/

/-- Bytes of a tensor written by the module itself: the barge, if one is stored, is checked as hop 3 is, changed and sealed anew (10:R263, Table 10.2, SOURCE 3). The range lies in one barge; a whole barge needs no read. -/
def State.tensorWrite (s : State) (n : Nat) (g : Image) (tensor off : Nat) (d : Bytes) (step : Nat) : State :=
  let b := off / 4096
  match s.bargeAddr n g tensor b with
  | none => s
  | some a =>
    let whole := decide (d.length = 4096)
    let x := if whole then (s, d, false) else s.readWords (controlReader (some n)) (a / 64) 64
    let s := x.1
    let tag := s.mem.bargeTag a
    if !whole && tag != 0 && !tagOk x.2.1 tag then (s.towFail 3).failedHopTag 3 (srcStack (stackOf a)) tag
    else
      let s := if x.2.2 then s.faultAtSill n else s
      let y := s.seal n g tensor b sourceControl step (patch x.2.1 (off % 4096) d)
      s.writeBarge a y.1 y.2

/-! ## Digest records (01:R36, R37) -/

def Image.digestLog (g : Image) : Option MemRec := g.memory.find? (fun m => m.use == 1)

/-- A digest record (01:Table 1.4). -/
def digestRecord (tensor : Nat) (replica nan faulted : Bool) (gen node slot step point count digest : Nat) : Nat :=
  fld tensor 32 208 + bitN replica * 2 ^ 206 + bitN nan * 2 ^ 205 + bitN faulted * 2 ^ 204 + fld gen 8 196 + fld node 20 176 +
  fld slot 3 168 + fld step 40 128 + fld point 16 112 + fld count 48 64 + fld digest 64 0

/-- Writes one record at the next place of the digest log, a ring (01:R36). -/
def State.writeDigest (s : State) (n : Nat) (g : Image) (d : DigestRec) (a : DigestAcc) (faulted : Bool) : State :=
  match g.digestLog with
  | none => s
  | some m =>
    let sl := s.slot n
    let r := digestRecord d.tensor d.replica a.nan faulted (s.gen n).toNat s.lnk.node.toNat n sl.step.toNat d.point a.count a.sum.toNat
    let s := s.tensorWrite n g m.tensor (sl.logNext * 32) (leBytes 32 r) sl.step.toNat
    s.modSlot n (fun sl => { sl with logNext := (sl.logNext + 1) % max 1 (m.size / 32) })

/-- The digest points in ascending order of POINT. -/
def Image.digestsInOrder (g : Image) : List DigestRec := sortBy (fun a b => decide (a.point ≤ b.point)) g.digests

def accOf (l : List DigestAcc) (point : Nat) : DigestAcc := (l.find? (fun a => a.point == point)).getD ⟨point, false, []⟩

/-- The records of the fired points at a fault (13:R336), with what was digested before the cells stopped. -/
def State.writeFired (s : State) (n : Nat) : State :=
  match (s.slot n).image with
  | none => s
  | some g => g.digestsInOrder.foldl (fun s d =>
      let a := accOf (s.slot n).digests d.point
      if a.fired then s.writeDigest n g d a true else s) s

/-- The records of a step at its boundary; FAULTED where a fault has been detected in the step before (01:R37). -/
def State.writeDigests (s : State) (n : Nat) : State :=
  match (s.slot n).image with
  | none => s
  | some g => g.digestsInOrder.foldl (fun s d =>
      s.writeDigest n g d (accOf (s.slot n).digests d.point) (s.slot n).sillFault) s

/-! ## Context faults -/

/-- A cell that stops clears its lay-by entries and its DMA queues (10:R266); a return still to come for one is late. -/
def Cell.stop (c : Cell) : Cell :=
  { c with layby := (c.layby.filter (fun e => e.2.any (fun b => b.data.isNone))).map (fun e => (e.1, e.2.map (fun b => { b with stale := true }))), channels := [], arrivals := [] }

/-- The events of 14:R373 that an operation has due: at the end of the pound of its last record, or at a fault. -/
def State.postOpEvents (s : State) (n : Nat) (due : Nat → Bool) : State :=
  let sl := s.slot n
  let now := sl.opEvents.filter (fun e => due e.op)
  let s := s.modSlot n (fun sl => { sl with opEvents := sl.opEvents.filter (fun e => !due e.op) })
  now.foldl (fun s e => s.post e.code (srcSlot n) (some n) e.payload) s

/-- A hold ends: its AO time counts in SCH_HOLD_NS (07:R204). -/
def State.endHold (s : State) : State :=
  match s.sch.hold with
  | none => s
  | some h => { s with sch := { s.sch with hold := none, holdNs := s.sch.holdNs + BitVec.ofNat 64 (s.now - h.start) } }

/-- The shadow's scratchpad, tile queue and accumulators are cleared, and it is power-gated (13:R330). -/
def Cell.endShadow (c : Cell) : Cell :=
  { c with
    shadowOf := none, power := 0, spad := [], spadErr := [], front := .zero, issued := [], back := .zero, backFull := false, landed := [], ports := [], tileQ := []
    queueLanded := [], drain := none, tilesIn := 0, readOut := 0, racc := [], rsurvey := [], rout := [], feedTensor := 0, feed := [] }

/-- The shadows at work, in ascending order, with their primaries. -/
def State.shadows (s : State) : List (Nat × Nat) := s.cells.filterMap (fun c => c.2.shadowOf.map (fun p => (c.1, p)))

/-- What a shadow does at an issue of its primary: the same, in its own tile queue and accumulators, and with the bytes that the primary's engine has written, in its own scratchpad and at the same ticks (13:R329). -/
def Cell.shadowing (c before after : Cell) : Cell :=
  let mine := after.landed.filter (fun w => !before.landed.contains w)
  { c with
    front := after.front, issued := after.issued, back := after.back, backFull := after.backFull, tileQ := after.tileQ, queueLanded := after.queueLanded
    drain := after.drain, tilesIn := after.tilesIn, readOut := after.readOut, racc := after.racc, rsurvey := after.rsurvey, rout := after.rout
    feedTensor := after.feedTensor, feed := after.feed
    spad := mine.foldl (fun m w => sset 0 m w.addr (sget 0 after.spad w.addr)) c.spad
    landed := mine.foldr (fun w l => insertLanding { w with old := sget 0 c.spad w.addr } l) c.landed }

/-- The shadow of the issuing cell runs a record of engines 1 to 4 along with it (13:R329): `t` is the state after the record. -/
def State.mirrored (s : State) (x : Issue) (t : State) : State :=
  { t with cells := t.cells.map (fun y =>
      if x.rc.engine ≤ 4 ∧ y.1 ≠ x.key ∧ y.2.shadowOf = some x.key then (y.1, y.2.shadowing (s.cell x.key) (t.cell x.key)) else y) }

/-- A cell of a context that stops: one that has left service in the meantime goes into reset and is power-gated (13:R335). -/
def Cell.halt (c : Cell) : Cell := let c := c.stop; if c.role = .out then { c with inReset := true, power := 0 } else c

/-- The executing context's cells stop at the next gap between ticks, and no context executes (08:R230). Event 0x1003 is not posted for a run target that is not IDLE then: no step boundary is reached (log entry 179). -/
def State.stopExec (s : State) (n : Nat) : State :=
  let sl := s.slot n
  let s := (sl.place.bindings.map (fun b => cellKey b.die b.cell)).foldl (fun s k => s.modCell k Cell.halt) s
  if s.sch.exec.map (·.val) = some n then
    -- a shadow in mid-phase has compared nothing to the end: it passes nobody
    let s := (s.shadows.foldl (fun s x => s.modCell x.1 Cell.endShadow) s).endHold
    { s with sch := { s.sch with
        exec := none, begun := false, state := .idle, pound := 0, phase := 0, phaseOpen := false, tickIn := 0, leftT := 0, leftP := 0, leadReached := false
        subtree := [], subtreeSent := false, completed := false, boundaryMs := 0 } }
  else s

/-- A context faults (08:R230): FAULTED, its cells stop, nothing further issues, the fired digest points are recorded (13:R336). -/
def State.faultSlot (s : State) (n : Nat) : State :=
  let sl := s.slot n
  if sl.state = .idle ∨ sl.state = .active then
    let s := if sl.state = .active then (s.postOpEvents n (fun _ => true)).writeFired n else s
    let s := s.modSlot n (fun sl => { sl with state := .faulted, sillFault := false })
    if sl.state = .active then s.stopExec n else s
  else s

/-- Faults the executing context at its next sill. -/
def State.faultExecAtSill (s : State) : State :=
  match s.sch.exec with
  | some n => s.faultAtSill n.val
  | none => s

/-! ## Dump records (13:R350, R351) -/

def State.dumpPresent (s : State) : Bool := (s.stack 0).dump

/-- The header of a dump record (13:Table 13.4). -/
structure DumpHead where
  type : Nat
  param : Nat
  step : Nat
  pound : Nat
  slot : Option Nat
  cell : Option (Nat × Nat)
  deriving DecidableEq, Repr

/-- Writes a dump record at NEXT_PAGE: the header, then the body (13:R350). The bytes of the last page beyond the body are free values. -/
def State.writeDump (s : State) (h : DumpHead) (body : Bytes) : State :=
  if !s.dumpPresent then s else
  let pages := ceilDiv (64 + body.length) 4096
  let page := if 262144 < s.flt.nextPage.toNat + pages then 0 else s.flt.nextPage.toNat
  let head := h.param % 2 ^ 256 * 2 ^ 256 + fld s.now 64 192 + fld s.flt.dumpSeq.toNat 64 128 + fld h.step 40 88 + fld h.pound 32 56 +
    fld pages 24 32 + fld h.type 8 24 + fld (match h.slot with | some n => (s.gen n).toNat | none => 0) 8 16 +
    fld (h.slot.getD 0) 3 13 + bitN h.slot.isSome * 2 ^ 12 + fld (h.cell.getD (0, 0)).1 4 8 + fld (h.cell.getD (0, 0)).2 7 1 + bitN h.cell.isSome
  let d := leBytes 64 head ++ body
  let pad := (List.range (pages * 4096 - d.length)).map (fun i => Config.dumpPad (s.fresh + i))
  let s := s.writeOwn (dumpBase + page * 4096) (d ++ pad)
  { s with
    fresh := s.fresh + pad.length
    flt := { s.flt with nextPage := BitVec.ofNat 18 ((page + pages) % 262144), dumpSeq := s.flt.dumpSeq + 1 } }

/-! ## Snag lists (13:R337 to R339) -/

/-- A write of block b of a tensor against the cell that issues it (13:R337). -/
def Cell.snag (c : Cell) (tensor b : Nat) (step : BitVec 40) (node : BitVec 20) (kind : BitVec 2) (slot : BitVec 3) (gen : BitVec 8) : Cell :=
  if c.snags.any (fun e => e.slot == slot && e.tensor == tensor) then
    { c with snags := c.snags.map (fun e => if e.slot = slot ∧ e.tensor = tensor then
        { e with firstBlock := min e.firstBlock b, lastBlock := max e.lastBlock b, lastStep := step } else e) }
  else if 128 ≤ c.snags.length then { c with snagOverflow := true }
  else { c with snags := c.snags ++ [⟨tensor, b, b, step, step, node, kind, slot, gen⟩] }

def State.snag (s : State) (key n : Nat) (tensor b node kind : Nat) : State :=
  s.modCell key (fun c => c.snag tensor b (s.slot n).step (BitVec.ofNat 20 node) (BitVec.ofNat 2 kind) (BitVec.ofNat 3 n) (s.gen n))

/-- A snag entry as stored (13:Table 13.2). -/
def Snag.pack (e : Snag) : Nat :=
  fld e.tensor 32 224 + fld e.firstBlock 40 184 + fld e.lastBlock 40 144 + fld e.firstStep.toNat 40 104 + fld e.lastStep.toNat 40 64 +
  fld e.node.toNat 20 44 + fld e.kind.toNat 2 42 + fld e.slot.toNat 3 39 + fld e.gen.toNat 8 31

/-- The step and the pound in progress. -/
def State.stepNow (s : State) : Nat := match s.sch.exec with
  | some n => (s.slot n.val).step.toNat
  | none => 0

/-- The slot of the executing context, 8 for none. -/
def State.execSlot (s : State) : Nat := s.sch.exec.elim 8 (·.val)

/-- A snag report (13:R339): cause, and whether FROM is the phase of the read (13:Table 13.1). -/
def State.snagReport (s : State) (key cause : Nat) (ofRead : Bool) : State :=
  let c := s.cell key
  let from_ := if ofRead then (s.stepNow, s.sch.pound) else sget (0, 0) c.clean s.execSlot
  let param := fld from_.1 40 216 + fld from_.2 32 184 + fld c.snags.length 16 168 + fld cause 8 160 + bitN c.snagOverflow * 2 ^ 159 + bitN c.snagIncomplete * 2 ^ 158
  let s := s.writeDump ⟨1, param, s.stepNow, s.sch.pound, s.sch.exec.map (·.val), some (key / 68, key % 68)⟩
    (c.snags.flatMap (fun e => leBytes 32 e.pack))
  s.modCell key (fun c => { c with snagIncomplete := false })

/-! ## Cells out of service (13:R335) -/

/-- Is a cell healthy, on a die that is neither off nor failed, and not out of the roster for a test (08:R217, 15:R405)? -/
def State.healthy (s : State) (d c : Nat) : Bool :=
  decide (s.dieState d < 2) && !s.ao.oos.contains (cellKey d c) && !s.tst.moved.contains (cellKey d c)

/-- A healthy spare of a die. -/
def State.isSpare (s : State) (d c : Nat) : Bool := s.healthy d c && (s.cell (cellKey d c)).role == .spare

/-- The one event of each running die that has no healthy spare any more (13:R332). -/
def State.noSpareEvents (s : State) : State :=
  (List.range 16).foldl (fun s d =>
    if s.dieState d = 0 ∧ s.flt.noSpare.contains d = false ∧ (List.range 68).any (s.isSpare d) = false then
      State.post { s with flt := { s.flt with noSpare := s.flt.noSpare ++ [d] } } 0x500B (srcDie d) none (payload [(0, 1, d)])
    else s) s

/-- Is the work of a cell checked as that of an audit cell (05:R141)? One that has failed a check is, until its pound ends. -/
def Cell.audits (c : Cell) : Bool := c.role == .audit || (c.role == .out && c.auditLeft)

/-- Contexts that bind a cell re-bind before they next execute a step (08:R224). -/
def State.markRebind (s : State) (key : Nat) : State :=
  (List.range 8).foldl (fun s n =>
    if (s.slot n).place.bindings.any (fun b => cellKey b.die b.cell == key) then s.modSlot n (fun sl => { sl with rebind := true }) else s) s

/-- Does a cell work for the executing context? -/
def State.atWork (s : State) (key : Nat) : Bool :=
  s.sch.exec.any (fun n => (s.slot n.val).place.bindings.any (fun b => cellKey b.die b.cell == key))

/-- A cell leaves service: ROLE 3, held in reset, power-gated, the mark in always-on SRAM. A cell at work carries the pound to its end first, since a check changes no schedule (13:R327); it is reset when its context stops. -/
def State.cellOut (s : State) (key : Nat) : State :=
  let s := { s with ao := { s.ao with oos := if s.ao.oos.contains key then s.ao.oos else s.ao.oos ++ [key] } }
  let busy := s.atWork key
  let s := s.modCell key (fun c => { c with
    auditLeft := if c.role = .out then c.auditLeft else c.role == .audit, role := .out, inReset := c.inReset || !busy, power := if busy then c.power else 0, shadowOf := none, late := false })
  (s.markRebind key).noSpareEvents

/-- An audit failure or a duplicate-lane difference (13:R333): the audit cell leaves service, a snag report, the context faults at the sill. -/
def State.auditFault (s : State) (key cause : Nat) : State :=
  let s := s.modCell key (fun c => { c with suspect := true })
  let s := s.snagReport key cause false
  (s.cellOut key).faultExecAtSill

/-! ## Scratchpad errors (13:R334) -/

/-- The reads of an engine at the given addresses: corrections, and for uncorrectable words the event, the snag report and the fault. -/
def State.spadRead (s : State) (key : Nat) (as : List Nat) : State :=
  let x := (s.cell key).readCheck as
  let s := s.setCell key x.1
  x.2.foldl (fun s w =>
    let s := s.post 0x5005 (srcDie (key / 68)) (s.sch.exec.map (·.val)) (payload [(0, 1, key / 68), (1, 1, key % 68), (4, 4, w * 8)])
    (s.snagReport key 4 true).faultExecAtSill) s

/-- An image read that delivered an uncorrectable word (09:R243, 13:Table 13.1): the reading context faults at its next sill, and a cell that reads leaves a snag report. -/
def State.afterRead (s : State) (r : Reader) (bad : Bool) : State :=
  if bad then
    let s := if r.die < 16 ∧ r.cell < 68 then s.snagReport (cellKey r.die r.cell) 5 true else s
    match r.slot with
    | some n => s.faultAtSill n
    | none => s
  else s

/-- The layout of a tensor of a context, or of a base. -/
def State.layoutFor (s : State) (n tensor : Nat) : Option Layout :=
  (((s.slot n).image.bind (fun g => g.lay tensor)).orElse (fun _ =>
    (List.range 4).findSome? (fun b => (sget .none s.wld.bases b).image.bind (fun g => g.lay tensor))))

/-- Shared barges carry CTX 0 and GEN 0; they are compared only by their tensor (10:R268). -/
def Image.isShared (g : Image) (tensor : Nat) : Bool := (g.tensor tensor).any (fun t => t.shared)

end Sys2Proof.Machine
end

