-- ==== Sys2Proof/Machine/Memory.lean ====
section
/-! DEFINITION. The memory base dies (chapter 09, 10:R264 to R266, R278): write-backs, barge writes, accumulating bursts, adders and regions, the dredge, refresh and the traffic generators. -/

namespace Sys2Proof.Machine

open Sys2Proof
open Host (Outcome)

abbrev Result := Outcome State Fault Refusal

/-! ## Entries of shard tables (12:R315, R317, R318) -/

def State.handle (s : State) (h : Handle) : WeightHandle :=
  match h with
  | .epoch n e => sget .none (s.slot n.val).epochs e.val
  | .base b => sget .none s.wld.bases b.val

def State.setHandle (s : State) (h : Handle) (w : WeightHandle) : State :=
  match h with
  | .epoch n e => s.modSlot n.val (fun sl => { sl with epochs := sset .none sl.epochs e.val w })
  | .base b => { s with wld := { s.wld with bases := sset .none s.wld.bases b.val w } }

/-- The slot whose CTX and GEN a handle's barges carry: none for a base. -/
def handleSlot (h : Handle) : Option Nat :=
  match h with
  | .epoch n _ => some n.val
  | .base _ => none

def handleNumber (h : Handle) : Nat :=
  match h with
  | .epoch _ e => e.val
  | .base b => b.val + 8

/-- Bytes 0 and 1 of the handle events (14:Table 14.27). -/
def handlePayload (h : Handle) (l : List (Nat × Nat × Nat)) : BitVec 128 := payload ([(0, 1, handleNumber h), (1, 1, (handleSlot h).getD 0)] ++ l)

def stMissing : Nat := 0
def stArriving : Nat := 1
def stComplete : Nat := 2
def stFailed : Nat := 3

/-- Replaces bits h:l of an entry. -/
def setBits (x h l v : Nat) : Nat := x - bits x h l * 2 ^ l + v % 2 ^ (h + 1 - l) * 2 ^ l

def WeightHandle.entryWord (w : WeightHandle) (i : Nat) : Nat := w.tableAddr / 64 + i

/-- An entry as it stands in device memory. -/
def State.entry (s : State) (w : WeightHandle) (i : Nat) : Nat := leNat (s.mem.decodeWord (w.entryWord i)).1

/-- The module reads an entry of a shard table: an error of its word is handled as of any read (09:R242, R243). -/
def State.readEntry (s : State) (h : Handle) (w : WeightHandle) (i : Nat) : State := (s.readWord (controlReader (handleSlot h)) (w.entryWord i)).1

def State.setEntry (s : State) (w : WeightHandle) (i x : Nat) : State := s.writeWord (w.entryWord i) (leBytes 64 x) (some 0)

/-- An entry fails with a reason of 12:Table 12.3 (12:R318). -/
def State.failEntry (s : State) (h : Handle) (i reason : Nat) : State :=
  let w := s.handle h
  let x := setBits (setBits (s.entry w i) 135 128 stFailed) 143 136 reason
  (s.setEntry w i x).post 0x1010 srcArrival (handleSlot h) (handlePayload h [(2, 1, reason), (4, 4, i)])

/-- An entry that is ARRIVING. -/
def State.arriving (s : State) (h : Handle) (i : Nat) : Bool :=
  (s.handle h).state == .filling && decide (i < (s.handle h).count) && bits (s.entry (s.handle h) i) 135 128 == stArriving

/-- A barge, or part of one, that an entry waits for has failed its check or its read: the entry fails with CHECK (12:Table 12.3). -/
def State.breakEntry (s : State) (load : Option (Handle × Nat)) : State :=
  match load with
  | some (h, i) => if s.arriving h i then s.failEntry h i 1 else s
  | none => s

/-- A barge, or part of one, that an entry waits for is lost on its way: the entry cannot complete. -/
def State.loseEntry (s : State) (load : Option (Handle × Nat)) : State :=
  match load with
  | some (h, i) => s.setHandle h { s.handle h with arrived := (s.handle h).arrived.filter (fun j => j != i) }
  | none => s

/-! ## Writes on their way to a base die -/

/-- A corrected word is written back (09:R242). A newer write has removed it from the waiting ones. -/
def execCorrectedWriteBack (i : Nat) (s : State) : Result :=
  match s.flight.backs[i]? with
  | none => .next s
  | some b => .next (s.writeWord b.word b.data none)

/-- Does an address lie in a base's memory? Its barges carry CTX 0 and GEN 0 and belong to no slot (10:R268). -/
def State.inBase (s : State) (a : Nat) : Bool :=
  (List.range 4).any (fun b => (sget .none s.wld.bases b).ranges.any (fun r => r.stack == stackOf a && decide (r.first ≤ offsetOf a ∧ offsetOf a < r.stop)))

/-- Traffic that arrives at a closed plank is dropped and counted (13:R345). -/
def State.plankDrop (s : State) (k : Nat) : State := { s with flt := { s.flt with plankDrops := s.flt.plankDrops + BitVec.ofNat 64 k } }

/-- Does a memory base die run, its planks open? -/
def State.baseRuns (s : State) (k : Nat) : Bool := s.dieState (16 + k) == 0 && !(s.stack k).closed

/-- Hop 1 (10:Table 10.3): CHECK, then late traffic, from which a barge of a shared base is exempt; a sound barge is stored with its tag. -/
def State.landBargeAs (s : State) (ofBase : Bool) (b : BargeWrite) : State :=
  let k := stackOf b.device
  if !s.baseRuns k then (s.plankDrop 1).loseEntry b.load
  else if !tagOk b.payload b.tag then ((s.towFail 1).failedHopTag 1 (srcStack k) b.tag).breakEntry b.load
  else if s.isLate (tagCtx b.tag) (tagGen b.tag) && !ofBase then State.loseEntry { s with flt := { s.flt with staleMem := s.flt.staleMem + 1 } } b.load
  else s.writeBarge b.device b.payload b.tag

def State.landBarge (s : State) (b : BargeWrite) : State := s.landBargeAs (s.inBase b.device) b

/-- The oldest barge or any other that has arrived at its base die is checked and stored. -/
def execWholeBargeWrite (i : Nat) (s : State) : Result :=
  match s.flight.barges[i]? with
  | none => .next s
  | some b => .next (State.landBarge { s with flight := { s.flight with barges := s.flight.barges.eraseIdx i } } b)

/-- The layout of the barge that a part write changes: that of the base whose shard it delivers, or of its context. -/
def State.partLayout (s : State) (w : PartWrite) (tensor : Nat) : Option Layout :=
  match w.load with
  | some (.base b, _) => (s.handle (.base b)).image.bind (fun g => g.lay tensor)
  | _ => s.layoutFor w.slot.toNat tensor

/-- Hop 3: a write of part of a barge re-seals it with the context that issues the access (10:R263, R268). -/
def State.landPart (s : State) (w : PartWrite) : State :=
  let a := w.device / 4096 * 4096
  let k := stackOf a
  if !s.baseRuns k then (s.plankDrop 1).loseEntry w.load else
  let r : Reader := ⟨0, w.die, w.cell, some w.slot.toNat⟩
  let x := s.readWords r (a / 64) 64
  let late := s.isLate w.slot.toNat w.gen.toNat && !s.inBase a
  -- a write that comes late faults no context (10:R266)
  let s := if late then x.1 else x.1.afterRead r x.2.2
  let s := if x.2.2 then s.breakEntry w.load else s
  let p := x.2.1
  let tag := s.mem.bargeTag a
  if !tagOk p tag then ((s.towFail 3).failedHopTag 3 (srcStack k) tag).breakEntry w.load
  else if late then State.loseEntry { s with flt := { s.flt with staleMem := s.flt.staleMem + 1 } } w.load
  else if tagCtx tag ≠ w.slot.toNat ∨ tagGen tag ≠ w.gen.toNat then ((s.towFail 3).failedHopTag 3 (srcStack k) tag).breakEntry w.load
  else
    let p' := patch p (w.device % 4096) w.data
    let p' := (s.partLayout w (tagTensor tag)).elim p' (fun l => l.maskBarge (tagBlock tag) p')
    let t := setTag (setTag tag.toNat 227 212 (sourceStack k)) 211 172 (if w.load.isSome then 0 else (s.slot w.slot.toNat).step.toNat)
    s.writeBarge a p' (sealTag p' t)

def execPartialWrite (i : Nat) (s : State) : Result :=
  match s.flight.parts[i]? with
  | none => .next s
  | some w => .next (State.landPart { s with flight := { s.flight with parts := s.flight.parts.eraseIdx i } } w)

/-! ## Adders -/

/-- The bytes that the CRC of an accumulating burst covers (10:R278). -/
def AccBurst.covered (b : AccBurst) : Bytes := b.data ++ leBytes 4 b.tensor.toNat ++ leBytes 8 b.offset.toNat

/-- The stack of a cell of a region: that of its barge (09:R249). -/
def State.cellStack (s : State) (n : Nat) (g : Image) (tensor cell : Nat) : Option Nat :=
  match g.lay tensor with
  | none => none
  | some l => (s.bargeAddr n g tensor ((l.byteOf cell).1 / 4096)).map stackOf

/-- A contribution enters its stack's queue; one that does not fit is lost (09:R252). -/
def State.contribute (s : State) (k : Nat) (c : Contribution) : State :=
  s.modStack k (fun t =>
    if 131072 ≤ t.queue.length then t else
    { t with queue := t.queue ++ [c], addPeak := if t.addPeak.toNat < t.queue.length + 1 then BitVec.ofNat 64 (t.queue.length + 1) else t.addPeak })

/-- The elements of a burst as contributions. -/
def AccBurst.elements (b : AccBurst) (cellBytes : Nat) : List (Nat × Nat × Int) :=
  let z := fmtBits b.format / 8
  (List.range (b.data.length / max 1 z)).map (fun i => (b.offset.toNat / max 1 cellBytes + i, leNat ((b.data.drop (i * z)).take z), b.anchors.getD i 0))

/-- Hop 8 (10:R278): the CRC, late traffic, the tensor; then every element is a contribution. A burst carries no tag: the event of its failure names its offset's barge and SOURCE 0 (log entry 184). -/
def State.landBurst (s : State) (b : AccBurst) : State :=
  let n := b.slot.toNat
  let st := match (s.slot n).image with
    | some g => match g.lay b.expect.toNat with
      | some l => (s.cellStack n g b.expect.toNat (b.offset.toNat / max 1 (fmtBits l.format / 8))).getD 0
      | none => 0
    | none => 0
  if !s.baseRuns st then s.plankDrop 1 else
  let fail := (s.towFail 8).failedHop 8 (srcStack st) b.tensor.toNat (b.offset.toNat / 4096) 0 n b.gen.toNat
  if crc32c b.covered ≠ b.crc then fail
  else if s.isLate n b.gen.toNat then { s with flt := { s.flt with staleMem := s.flt.staleMem + 1 } }
  else if b.tensor ≠ b.expect then fail
  else match (s.slot n).image with
    | none => s
    | some g =>
      match g.lay b.tensor.toNat with
      | none => s
      | some l => (b.elements (fmtBits l.format / 8)).foldl (fun s e =>
          match s.cellStack n g b.tensor.toNat e.1 with
          | none => s
          | some k => s.contribute k ⟨⟨n % 8, Nat.mod_lt _ (by decide)⟩, b.tensor.toNat, e.1, b.format, e.2.1, e.2.2, b.opId⟩) s

def execAccumulatingBurst (i : Nat) (s : State) : Result :=
  match s.flight.bursts[i]? with
  | none => .next s
  | some b => .next (State.landBurst { s with flight := { s.flight with bursts := s.flight.bursts.eraseIdx i } } b)

/-- What the 16 bytes of a working cell hold: a two's-complement integer, or a class by its pattern (09:R249). -/
def workAcc (b : Bytes) : Acc :=
  let q := signedOf 128 (leNat b)
  if q = -(2 ^ 127 : Int) then .nan else if q = 2 ^ 127 - 1 then ⟨.pinf, 0⟩ else if q = -(2 ^ 127 : Int) + 1 then ⟨.ninf, 0⟩ else ⟨.fin, q⟩

def workBytesOf (a : Acc) : Bytes := leBytes 16 (a.pattern 0x22)

/-- A working cell as it stands in memory. -/
def State.workCell (s : State) (n : Nat) (g : Image) (tensor cell : Nat) : Acc :=
  match s.workPlace n g tensor cell with
  | none => .zero
  | some a => workAcc (sread 0 s.mem.bytes a 16)

/-- The adders read a working cell: the word's errors count as theirs, and an uncorrectable word comes as it was read (09:R243, Table 9.6 SOURCE 3). -/
def State.readWork (s : State) (a : Nat) : State × Acc :=
  let x := s.readRange adderReader a 16
  (x.1, workAcc x.2.1)

/-- The adders write a working cell: its word as it stands with the cell's 16 bytes, tag nibble zero (09:R240). -/
def State.writeWork (s : State) (a : Nat) (v : Acc) : State :=
  s.writeWord (a / 64) (patch (s.mem.decodeWord (a / 64)).1 (a % 64) (workBytesOf v)) (some 0)

/-- The conversion of one contribution (02:Table 2.7): what is added, whether it counts, whether its pattern is invalid. -/
def convertContribution (r : RegionRec) (f bits : Nat) (anchor : Int) : Acc × Bool × Bool :=
  if r.cellType = 0x21 then
    let bad := isAncFmt f && (patternAcc f bits).2
    match decodeVal f 0 bits anchor with
    | .nan => (.nan, false, bad)
    | .inf n => (⟨if n then .ninf else .pinf, 0⟩, false, false)
    | .fin n m e =>
      if leMag 1 r.anchor m e then (⟨.fin, if n then -(2 ^ 62 - 1) else 2 ^ 62 - 1⟩, true, false)
      else (⟨.fin, truncTerm n m e r.anchor 62⟩, false, false)
  else (⟨.fin, signedOf (fmtBits r.cellType) bits⟩, false, false)

/-- Adds one to a region's count of the step (02:R61, R63). -/
def State.countRegion (s : State) (n tensor k : Nat) : State :=
  s.modSlot n (fun sl => { sl with regionStep := sset 0 sl.regionStep tensor (sget 0 sl.regionStep tensor + BitVec.ofNat 64 k) })

/-- The adder takes one contribution (09:R251, 02:R61, R62). -/
def State.retireOne (s : State) (k : Nat) (c : Contribution) : State :=
  let s := s.modStack k (fun t => { t with addRetired := t.addRetired + 1 })
  let n := c.slot.val
  match (s.slot n).image.bind (fun g => g.region c.tensor) with
  | none => s
  | some r =>
    if r.opId < c.opId then s.countRegion n c.tensor 1
    else
      let x := convertContribution r c.format c.bits c.anchor
      let s := match (s.slot n).image.bind (fun g => s.workPlace n g c.tensor c.cell) with
        | none => s
        | some a => let y := s.readWork a; y.1.writeWork a (y.2.combine x.1)
      let s := if x.2.1 then s.countRegion n c.tensor 1 else s
      if x.2.2 then s.post 0x500A (srcStack k) (some n) (payload [(0, 1, 16 + k), (1, 1, 0xFF), (4, 4, c.tensor)]) else s

def execAdderContribution (stack : Fin 8) (s : State) : Result :=
  match (s.stack stack.val).queue with
  | [] => .next s
  | c :: q => .next (State.retireOne (s.modStack stack.val (fun t => { t with queue := q })) stack.val c)

/-- Retires the first `n` contributions of a queue. -/
def State.retireAll (s : State) (k : Nat) : Nat → State
  | 0 => s
  | n + 1 =>
    match (s.stack k).queue with
    | [] => s
    | c :: q => State.retireAll (State.retireOne (s.modStack k (fun t => { t with queue := q })) k c) k n

/-- A closed cell as stored, and whether it was clamped (02:R63). -/
def closeCell (cellType : Nat) (a : Acc) : Nat × Bool :=
  let n := fmtBits cellType
  let hi : Int := if cellType = 0x21 then 2 ^ 62 - 1 else 2 ^ (n - 1) - 1
  let lo : Int := if cellType = 0x21 then -(2 ^ 62 - 1) else -(2 ^ (n - 1) : Int)
  if a.cls = .fin then
    if hi < a.q then (bitsOf n hi, true) else if a.q < lo then (bitsOf n lo, true) else (bitsOf n a.q, false)
  else (a.pattern 0x21, false)

/-- A cell of a region is read at its close, and set to zero. -/
def State.takeWork (s : State) (n : Nat) (g : Image) (tensor cell : Nat) : State × Acc :=
  match s.workPlace n g tensor cell with
  | none => (s, .zero)
  | some a => let y := s.readWork a; (y.1.writeWork a .zero, y.2)

/-- The cells of a barge at the close. -/
def State.takeWorks (s : State) (n : Nat) (g : Image) (tensor : Nat) : List Nat → State × List (Nat × Acc)
  | [] => (s, [])
  | p :: ps =>
    let x := s.takeWork n g tensor p
    let y := State.takeWorks x.1 n g tensor ps
    (y.1, (p, x.2) :: y.2)

/-- The close of one barge of a region: converted, written, its working cells zero. -/
def State.closeBarge (s : State) (n : Nat) (g : Image) (r : RegionRec) (l : Layout) (b : Nat) : State :=
  match s.bargeAddr n g r.tensor b with
  | none => s
  | some a =>
    let k := stackOf a
    let z := fmtBits l.format / 8
    let y := s.takeWorks n g r.tensor (l.bargePositions b)
    let s := y.1
    let cells := y.2.map (fun c => (c.1, closeCell r.cellType c.2))
    let data := cells.flatMap (fun c => leBytes z c.2.1)
    let sat := cells.countP (fun c => c.2.2)
    let x := s.seal n g r.tensor b (sourceStack k) (s.slot n).step.toNat data
    let s := s.writeBarge a x.1 x.2
    let s := if sat = 0 then s else s.countRegion n r.tensor sat
    let es := cells.filterMap (fun c => (l.posIndex c.1).map (fun i => (i, 0, c.2.1)))
    g.digests.foldl (fun s d => if d.tensor = r.tensor ∧ r.opId ≤ d.opId then s.addElems n g d l true es else s) s

/-- The pound that holds the last record of an operation. -/
def Image.lastPound (g : Image) (op : Nat) : Nat := ((g.instrs.filter (fun r => r.opId == op && r.engine != 0)).map (·.pound)).foldl max 0

/-- The bursts on their way to a region whose operations belong to its close: they have all arrived by the end of the pound (07:R181, 09:R251). -/
def State.landAccs (s : State) (n tensor opId : Nat) : State :=
  let due (b : AccBurst) : Bool := b.slot.toNat == n && b.expect.toNat == tensor && decide (b.opId ≤ opId)
  (s.flight.bursts.filter due).foldl (fun s b => s.landBurst b)
    { s with flight := { s.flight with bursts := s.flight.bursts.filter (fun b => !due b) } }

/-- All contributions of a context that are on their way have come to their adders and are retired: those of records after a region's close are dropped and counted in this step (02:R63, 09:R253). -/
def State.landStep (s : State) (n : Nat) : State :=
  let s := (s.flight.bursts.filter (fun b => b.slot.toNat == n)).foldl (fun s b => s.landBurst b)
    { s with flight := { s.flight with bursts := s.flight.bursts.filter (fun b => b.slot.toNat != n) } }
  (List.range 8).foldl (fun s k => s.retireAll k (s.stack k).queue.length) s

/-- Has the last tick of the current pound gone by? -/
def State.poundOver (s : State) (n : Nat) (g : Image) : Bool :=
  let f := (s.slot n).place.fold
  s.sch.state == .inPound && !s.sch.phaseOpen && decide (f ≤ s.sch.phase + 1 ∧ f * g.poundLen s.sch.pound ≤ s.sch.tickIn)

/-- Is a region of the executing context due to close: at the end of the pound that holds its close point's last record (09:R251), once in a step? -/
def State.regionDue (s : State) (n : Nat) (g : Image) (r : RegionRec) : Bool :=
  !(s.slot n).closed.contains r.tensor &&
  (decide (g.lastPound r.opId < s.sch.pound) || (g.lastPound r.opId == s.sch.pound && s.poundOver n g))

/-- A region closes (09:R251). -/
def State.closeRegion (s : State) (i : Nat) : State :=
  match s.execImage with
  | none => s
  | some (n, g) =>
    match g.regions[i]? with
    | none => s
    | some r =>
      if !s.regionDue n g r then s else
      let s := s.landAccs n r.tensor r.opId
      let s := (List.range 8).foldl (fun s k => s.retireAll k (s.stack k).queue.length) s
      match g.lay r.tensor with
      | none => s
      | some l =>
        let s := (List.range l.elemBarges).foldl (fun s b => s.closeBarge n g r l b) s
        s.modSlot n (fun sl => { sl with closed := sl.closed ++ [r.tensor] })

/-! ## Dredge and refresh -/

/-- The words of a stack that hold an error, of the pseudo-channels in service, in ascending order of address and so of burst row. -/
def State.wrongWords (s : State) (k : Nat) : List Nat :=
  (s.mem.errs.map (·.1)).filter (fun w => stackOf (w * 64) == k && !(s.stack k).chanOos.getLsbD (pseudoOf (offsetOf (w * 64)) / 2))

/-- Are the controllers of a stack at work: A0 or A1, its base die running? -/
def State.stackAwake (s : State) (k : Nat) : Bool :=
  (s.pwr.state == .a0 || s.pwr.state == .a1) && s.dieState (16 + k) == 0

/-- One sweep (09:R245): every word read, the period halved or restored. A halved period stands when MEM_DREDGE_CFG is written and is forgotten by a warm reset (log entry 182). -/
def State.sweep (s : State) (k : Nat) : State :=
  let before := (s.stack k).ce
  let s := (s.wrongWords k).foldl (fun s w => (s.readWord dredgeReader w).1) s
  let found := ((s.stack k).ce - before).toNat
  s.modStack k (fun t =>
    let full := min t.periodH.toNat 168 * 3600000
    { t with
      sweeps := t.sweeps + 1
      sweepCe := []
      shortened := if t.thresh.toNat < found then some (max 900000 (t.shortened.getD full / 2)) else none })

def execDredgeSweep (stack : Fin 8) (s : State) : Result :=
  if s.stackAwake stack.val ∧ (s.stack stack.val).periodH ≠ 0 then .next (s.sweep stack.val)
  else .next s

/-- Per-bank refresh changes nothing that the spec lets an image or the host observe (09:R236, R246). -/
def execRefresh (_stack : Fin 8) (s : State) : Result := .next s

/-- A refresh management command counts in MEM_RFM (09:R246). -/
def execRefreshManagement (stack : Fin 8) (s : State) : Result :=
  if s.stackAwake stack.val then .next (s.modStack stack.val (fun t => { t with rfm := t.rfm + 1 })) else .next s

/-! ## Traffic generators (09:R256, R257) -/

/-- The bits of a PRBS31 sequence: the state's bit 30 leaves, bit 30 xor bit 27 enters (log entry 16). -/
def prbsBits : Nat → Nat → List Nat × Nat
  | 0, st => ([], st)
  | n + 1, st =>
    let o := st / 2 ^ 30 % 2
    let f := (o + st / 2 ^ 27) % 2
    let r := prbsBits n (st * 2 % 2 ^ 31 + f)
    (o :: r.1, r.2)

def bitsNat : List Nat → Nat
  | [] => 0
  | b :: t => b + 2 * bitsNat t

/-- The running state of a generator: the PRBS state and the beats so far. -/
structure TgState where
  prbs : Nat
  beat : Nat
  deriving DecidableEq, Repr

/-- One beat of a pattern at a word's address and its beat number: 32 data lanes, 4 side lanes. -/
def tgBeat (pattern : Nat) (seed : Word) (addr beat : Nat) (t : TgState) : Nat × Nat × TgState :=
  let t' : TgState := ⟨t.prbs, t.beat + 1⟩
  match pattern with
  | 1 => (bits seed.toNat 31 0, bits seed.toNat 35 32, t')
  | 2 => (if beat < 2 then addr / 2 ^ (32 * beat) % 2 ^ 32 else 0, 0, t')
  | 3 => let k := t.beat % 36; (if k < 32 then 2 ^ k else 0, if k < 32 then 0 else 2 ^ (k - 32), t')
  | _ =>
    let d := prbsBits 32 t.prbs
    let e := prbsBits 4 d.2
    (bitsNat d.1, bitsNat e.1, ⟨e.2, t.beat + 1⟩)

/-- The 16 beats of a word: data bytes, side bytes as a number. -/
def tgWord (pattern : Nat) (seed : Word) (addr : Nat) (t : TgState) : List Nat × List Nat × TgState :=
  (List.range 16).foldl (fun a b =>
    let x := tgBeat pattern seed addr b a.2.2
    (a.1 ++ [x.1], a.2.1 ++ [x.2.1], x.2.2)) ([], [], t)

/-- Multiplication by α in GF(2^8), with x^8 + x^4 + x^3 + x^2 + 1 = 0 (09:R241). -/
def gfDouble (a : Byte) : Byte := if a.getLsbD 7 then (a <<< 1) ^^^ 0x1D else a <<< 1

def gfMul (a b : Byte) : Byte := (List.range 8).foldr (fun i r => let r := gfDouble r; if a.getLsbD i then r ^^^ b else r) 0

def gfPow (a : Byte) : Nat → Byte
  | 0 => 1
  | n + 1 => gfMul a (gfPow a n)

/-- The locator of a symbol: α to the power of x that the symbol takes. -/
def symbolLocator (j : Nat) : Byte := gfPow 2 (Config.symbolPower j % 255)

/-- The weight of symbol j in check symbol l: the codewords are those whose symbols, times their locators to the powers 0 to 6, sum to zero (roots α^0 to α^6), so the check symbols interpolate. -/
def checkWeight (j l : Nat) : Byte :=
  (((List.range 7).map (fun i => 65 + i)).filter (fun m => m != l)).foldl (fun r m =>
    gfMul r (gfMul (symbolLocator j ^^^ symbolLocator m) (gfPow (symbolLocator l ^^^ symbolLocator m) 254))) 1

/-- Check symbol l, from 65 to 71, of the 64 data bytes and side byte 0. -/
def checkSymbol (d : Bytes) (l : Nat) : Byte :=
  (List.range 65).foldl (fun r j => r ^^^ gfMul (d.getD j 0) (checkWeight j l)) 0

/-- Side bytes 0 to 7 of a word as a number: the tag nibble and the check symbols (09:R240, R241). -/
def sideOf (d : Bytes) (tag : BitVec 4) : Nat :=
  let b0 : Byte := tag.setWidth 8
  leNat (b0 :: (List.range 7).map (fun i => checkSymbol (d ++ [b0]) (65 + i)))

/-- The lanes of a stored word as received: 16 beats of data and of side lanes. -/
def DevMem.lanes (m : DevMem) (w : Nat) : List Nat × List Nat :=
  let d0 := m.rawWord w
  let side0 : BitVec 64 := BitVec.ofNat 64 (sideOf d0 (m.tagNibble w))
  let x : Bytes × BitVec 64 := match sget none m.errs w with
    | some (.noCodeword sd) => (d0, sd)
    | some (.symbols l) => (applySymbols d0 l, BitVec.ofNat 64 (leNat (applySymbols (d0 ++ leBytes 8 side0.toNat) l |>.drop 64)))
    | none => (d0, side0)
  ((List.range 16).map (fun b => leNat ((x.1.drop (4 * b)).take 4)), (List.range 16).map (fun b => bits x.2.toNat (4 * b + 3) (4 * b)))

/-- Writes lanes directly, with no check symbols. -/
def State.writeLanes (s : State) (w : Nat) (d sd : List Nat) : State :=
  let side := (List.range 16).foldl (fun a b => a + sd.getD b 0 * 16 ^ b) 0
  let s := s.writeWord w (d.flatMap (leBytes 4)) (some (BitVec.ofNat 4 side))
  { s with mem := { s.mem with errs := sset none s.mem.errs w (some (.noCodeword (BitVec.ofNat 64 side))) } }

/-- The bursts of a run in ascending row order on one pseudo-channel: their device addresses, without the dump region. -/
def tgAddrs (k p first last : Nat) : List Nat :=
  (List.range (last + 1 - first)).filterMap (fun i =>
    let r := first + i
    let a := k * stackBytes + r * 2 ^ 14 + Nat.xor p (r % 64) * 256
    if inDump a then none else some a)

/-- The result of a check so far. -/
structure TgResult where
  errors : Nat
  failAddr : Option Nat
  lanes : Nat
  side : Nat
  deriving DecidableEq, Repr

/-- One word of a run: written, or compared. -/
def tgDo (check : Bool) (pattern : Nat) (seed : Word) (pc w : Nat) (a : State × TgState × TgResult) : State × TgState × TgResult :=
  let x := tgWord pattern seed (w * 64) a.2.1
  if check then
    let r := a.1.mem.lanes w
    let miss := (List.range 16).filter (fun b => r.1.getD b 0 != x.1.getD b 0 || r.2.getD b 0 != x.2.1.getD b 0)
    let dl := miss.foldl (fun m b => Nat.lor m (Nat.xor (r.1.getD b 0) (x.1.getD b 0))) 0
    let sl := miss.foldl (fun m b => Nat.lor m (Nat.xor (r.2.getD b 0) (x.2.1.getD b 0))) 0
    let q := a.2.2
    (a.1, x.2.2, ⟨q.errors + miss.length, if miss.isEmpty then q.failAddr else q.failAddr.orElse (fun _ => some (w * 64)),
      Nat.lor q.lanes (dl * 2 ^ (32 * pc)), Nat.lor q.side (sl * 2 ^ (4 * pc))⟩)
  else (a.1.writeLanes w x.1 x.2.1, x.2.2, a.2.2)

/-- The pseudo-channels that PCS selects. -/
def tgPcs (g : TgRun) : List Nat := match g.pcs with
  | 1 => [0]
  | 2 => [1]
  | _ => [0, 1]

def tgRows (g : TgRun) : Nat × Nat := if g.last < g.first ∨ 6291455 < g.last then (1, 0) else (g.first, g.last)

/-- One pass over the range: at most `n` bursts of each pseudo-channel. -/
def State.tgPass (s : State) (k c : Nat) (g : TgRun) (check : Bool) (n : Nat) (q : TgResult) : State × TgResult :=
  let rows := tgRows g
  let seed31 := let x := g.seed.toNat % 2 ^ 31; if x = 0 then 1 else x
  (tgPcs g).foldl (fun a pc =>
    let ws := ((tgAddrs k (2 * c + pc) rows.1 rows.2).take n).flatMap (fun a => (List.range 4).map (fun i => a / 64 + i))
    let r := ws.foldl (fun a w => tgDo check g.pattern g.seed pc w a) (a.1, ⟨seed31, 0⟩, a.2)
    (r.1, r.2.2)) (s, q)

/-- The bursts of one pass on each pseudo-channel. -/
def tgLength (g : TgRun) : Nat := (tgRows g).2 + 1 - (tgRows g).1

/-- A run up to its n-th burst: modes 0 write, 1 and 3 check, 2 write the whole range and then check it. -/
def State.tgRun (s : State) (k c : Nat) (g : TgRun) (n : Nat) : State × TgResult :=
  let z : TgResult := ⟨0, none, 0, 0⟩
  if g.mode = 0 then ((s.tgPass k c g false n z).1, z)
  else if g.mode = 2 then (s.tgPass k c g false n z).1.tgPass k c g true (n - tgLength g) z
  else s.tgPass k c g true n z

def State.tg (s : State) (k c : Nat) : TrafficGen := sget .reset (s.stack k).gens c
def State.setTg (s : State) (k c : Nat) (v : TrafficGen) : State := s.modStack k (fun t => { t with gens := sset .reset t.gens c v })

/-- The results of a run as far as it has come (09:Table 9.4, Table 9.10). -/
def TrafficGen.found (g : TrafficGen) (q : TgResult) : TrafficGen :=
  { g with
    run := none, sideFail := BitVec.ofNat 8 q.side, errors := BitVec.ofNat 32 (min q.errors (2 ^ 32 - 1))
    failAddr := BitVec.ofNat 40 (q.failAddr.getD 0), failLanes := BitVec.ofNat 64 q.lanes }

/-- ABORT ends the run at the next burst, with DONE 0 and PASS still of the last completed run (09:R257, Table 9.10): how many bursts have run is a free value. -/
def State.tgStop (s : State) (k c : Nat) : State :=
  let g := s.tg k c
  match g.run with
  | none => s
  | some u =>
    let x := s.draw
    let y := x.1.tgRun k c u (x.2.toNat % (2 * tgLength u).succ)
    y.1.setTg k c (g.found y.2)

/-- START (09:R257): accepted with every slot EMPTY or the stack out of service, and no run on the channel. -/
def State.tgBegin (s : State) (k c : Nat) : State :=
  let g := s.tg k c
  if (List.range 8).all (fun n => (s.slot n).state == .empty) || !(s.stack k).inService then
    if g.busy then s
    else s.setTg k c { g with
      run := some ⟨g.pattern.toNat, g.mode.toNat, g.pcs.toNat, g.first.toNat, g.last.toNat, g.seed⟩
      done := false, sideFail := 0, errors := 0, failAddr := 0, failLanes := 0 }
  else s.post 0x3005 (srcStack k) none (payload [(0, 1, k), (1, 1, c)])

/-- A write of MEM_TG_CTRL: ABORT of the run in progress, then PATTERN and MODE, then START. -/
def State.tgWrite (s : State) (k c : Nat) (v : Word) : State :=
  let s := if v.getLsbD 1 then s.tgStop k c else s
  let s := s.setTg k c { s.tg k c with pattern := v.extractLsb' 8 4, mode := v.extractLsb' 6 2 }
  if v.getLsbD 0 then s.tgBegin k c else s

def tgOffset (k c : Nat) : Nat := 0x100000 + k * 0x10000 + 0x1000 + c * 0x40

def execTgStart (m : Master) (stack : Fin 8) (channel : Fin 32) (value : Word) (s : State) : Result :=
  .next (s.command m (tgOffset stack.val channel.val) (fun s => s.tgWrite stack.val channel.val (value ||| 1)))

def execTgAbort (m : Master) (stack : Fin 8) (channel : Fin 32) (value : Word) (s : State) : Result :=
  .next (s.command m (tgOffset stack.val channel.val) (fun s => s.tgWrite stack.val channel.val (value ||| 2)))

/-- A run completes its range (09:Table 9.10). -/
def execTgRunDone (stack : Fin 8) (channel : Fin 32) (s : State) : Result :=
  let g := s.tg stack.val channel.val
  match g.run with
  | none => .next s
  | some u =>
    let x := s.tgRun stack.val channel.val u (2 * tgLength u)
    .next (x.1.setTg stack.val channel.val { g.found x.2 with done := true, pass := decide (u.mode ≠ 0 ∧ x.2.errors = 0) })

end Sys2Proof.Machine
end

