-- ==== Sys2Proof/Machine/Matrix.lean ====
section
/-! DEFINITION. The matrix engine (05:R122 to R132, R142, R143): a tile issues, and a tile ends. -/

namespace Sys2Proof.Machine

open Sys2Proof

/-! ## Operands of a product -/

/-- One operand as the array reads it: its line `i` is a row of the left or a column of the right operand. -/
structure Side where
  o : Operand
  /-- K runs along dimension 0 of the stored tensor. -/
  kFirst : Bool
  sparse : Bool
  lines : Nat
  deriving DecidableEq, Repr

/-- The stored coordinates of line i at stored K index j. -/
def Side.coords (d : Side) (i j : Nat) : List Nat := if d.kFirst then [j, i] else [i, j]

/-- The stored position of line i at stored K index j, if the tensor has it. -/
def Side.pos (d : Side) (i j : Nat) : Option Nat :=
  let n := d.o.lay.dims
  let cs := d.coords i j
  if cs.getD 0 0 < n.getD 0 0 ∧ cs.getD 1 0 < n.getD 1 0 then some (d.o.lay.posOf cs) else none

/-- The stored position that a metadata nibble names (05:Table 5.3): which stored element of the group holds K position r, or none. -/
def nibbleSlot (nib r : Nat) : Option Nat :=
  if nib % 4 = r then some 0 else if nib / 4 = r then some 1 else none

def validNibble (nib : Nat) : Bool := nib == 0x4 || nib == 0x8 || nib == 0xC || nib == 0x9 || nib == 0xD || nib == 0xE

/-- A factor as the array takes it: its value and its survey byte; none where no factor is stored. -/
structure Factor where
  val : Val
  byte : Nat
  deriving DecidableEq, Repr

def Side.factor (d : Side) (t : Seat) (c : Cell) (i j : Nat) : Option Factor :=
  match d.pos i j with
  | none => none
  | some p =>
    let f := d.o.lay.format
    let sc := d.o.scale t c p
    let b := d.o.bits t c p
    some ⟨decodeVal f sc b 0, surveyByte f sc b⟩

/-- The factor of line i at K position kk; a sparse line reads its nibble first, and an invalid nibble makes the group's two stored factors NaN (R129). -/
def Side.at (d : Side) (t : Seat) (c : Cell) (nib : Nat → Nat → Nat) (i kk : Nat) : Option Factor :=
  if d.sparse then
    let n := nib i (kk / 4)
    if validNibble n then
      match nibbleSlot n (kk % 4) with
      | some e => d.factor t c i (kk / 4 * 2 + e)
      | none => none
    else if kk % 4 < 2 then (d.factor t c i (kk / 4 * 2 + kk % 4)).map (fun x => ⟨.nan, x.byte⟩) else none
  else d.factor t c i kk

/-- The K positions that a record adds (05:R123, R130): K_c positions from the first, whole skipped blocks left out, padding beyond K forming no term. -/
def addedBlocks (skip : Nat → Bool) : Nat → Nat → Nat → List Nat
  | 0, _, _ => []
  | _, _, 0 => []
  | fuel + 1, b, n + 1 => if skip b then addedBlocks skip fuel (b + 1) (n + 1) else b :: addedBlocks skip fuel (b + 1) n

/-! ## The tile -/

/-- What a matrix record works on. -/
structure TilePlan where
  a : Side
  b : Side
  k : Nat
  win : Nat
  row0 : Nat
  col0 : Nat
  rows : Nat
  cols : Nat
  ks : List Nat
  /-- Groups of four K positions that the record reads, padding groups included (05:R128). -/
  groups : List Nat
  mode : Nat
  deriving DecidableEq, Repr

/-- Left: rows, right: columns; a sparse operand stores 2 × ceil(K/4) elements along K (log entry 17). -/
def Issue.tilePlan (x : Issue) (skip : Nat → Bool) : Option TilePlan :=
  match x.g.lay x.op.src0, x.g.lay x.op.src1 with
  | some l0, some l1 =>
    let tr0 := bits x.op.flags 0 0 = 1
    let tr1 := bits x.op.flags 1 1 = 1
    let m := l0.dims.getD (if tr0 then 1 else 0) 0
    let n := l1.dims.getD (if tr1 then 0 else 1) 0
    let tn := max 1 (ceilDiv n 128)
    let row0 := x.rc.part / tn * 128
    let col0 := x.rc.part % tn * 128
    let kFirst := x.arg 69 38
    let k := x.op.km1 + 1
    let sp0 := decide (bits x.op.flags 2 2 = 1)
    let sp1 := decide (bits x.op.flags 3 3 = 1)
    let j0 (sp : Bool) : Nat := if sp then kFirst / 2 else kFirst
    let p0 := l0.posOf (if tr0 then [j0 sp0, row0] else [row0, j0 sp0])
    let p1 := l1.posOf (if tr1 then [col0, j0 sp1] else [j0 sp1, col0])
    match x.operand x.op.src0 (x.arg 159 138) p0, x.operand x.op.src1 (x.arg 137 116) p1 with
    | some o0, some o1 =>
      let bs := addedBlocks skip (ceilDiv k 32 + 65536) (kFirst / 32) (x.arg 37 18)
      some { a := ⟨o0, tr0, sp0, m⟩, b := ⟨o1, !tr1, sp1, n⟩, k := k, win := x.op.window, row0 := row0, col0 := col0,
             rows := min 128 (m - row0), cols := min 128 (n - col0)
             ks := (bs.flatMap (fun b => (List.range 32).map (fun i => b * 32 + i))).filter (fun kk => decide (kk < k))
             groups := bs.flatMap (fun b => (List.range 8).map (fun i => b * 8 + i))
             mode := x.arg 71 70 }
    | _, _ => none
  | _, _ => none

/-- The skipped blocks that a pattern tensor names (05:R130). A pattern is part of the image: its elements lie in device memory (log entry 18). -/
def State.skipOf (s : State) (x : Issue) : Nat → Bool :=
  let id := x.param 31 0
  if id = 0 then fun _ => false else fun b =>
    match x.g.lay id with
    | none => false
    | some l =>
      let y := l.byteOf (l.pos (b / 32))
      match s.bargeAddr x.slot x.g id (y.1 / 4096) with
      | none => false
      | some a => (leNat (s.mem.decoded (a + y.1 % 4096) 4) / 2 ^ (b % 32)) % 2 = 1

/-- The reads of the pattern's words that a record takes its skipped blocks from (09:R241 to R243). -/
def State.skipRead (s : State) (x : Issue) (p : TilePlan) : State :=
  let first := x.arg 69 38 / 32
  match x.param 31 0, x.g.lay (x.param 31 0), p.groups.getLast? with
  | id + 1, some l, some last =>
    let ws := ((List.range (last / 8 + 1 - first)).filterMap (fun i =>
      let y := l.byteOf (l.pos ((first + i) / 32))
      (s.bargeAddr x.slot x.g (id + 1) (y.1 / 4096)).map (fun a => (a + y.1 % 4096) / 64))).eraseDups
    let r : Reader := ⟨0, x.bind.die, x.bind.cell, some x.slot⟩
    ws.foldl (fun s w => let y := s.readWord r w; y.1.afterRead r y.2.2) s
  | _, _, _ => s

/-- The metadata of a record's sparse side, as an operand (05:R128). -/
def Issue.metaOperand (x : Issue) (p : TilePlan) : Option Operand :=
  (x.g.lay x.op.src2).bind (fun l => x.operand x.op.src2 (x.arg 115 94) (l.posOf [if p.a.sparse then p.row0 else p.col0, x.arg 69 38 / 32]))

/-- The metadata nibble of a line and a group (05:R128), as the cell stands when the group is added. -/
def Issue.nibbles (x : Issue) (p : TilePlan) (v : Nat → Cell) : Nat → Nat → Nat :=
  match x.metaOperand p with
  | none => fun _ _ => 0x4
  | some o => fun i g => bits (o.bits x.seat (v (4 * g)) (o.lay.posOf [i, g / 8])) (4 * (g % 8) + 3) (4 * (g % 8))

/-! ## Timing (05:Tables 5.2 and 5.4) -/

/-- Ticks per K position. -/
def ticksPerK (f : Nat) : Nat := if f = 1 then 1 else if f = 0x10 then 16 else if f = 0x11 then 64 else 2

/-- Ticks of n K positions of an operation; 2:4 sparsity halves them. -/
def Issue.kTicks (x : Issue) (n : Nat) : Nat := n * ticksPerK (x.g.fmt x.op.src0) / (if bits x.op.flags 3 2 = 0 then 1 else 2)

/-- Ticks of the drain of a partial, or of its preload. -/
def partialTicks (win : Nat) : Nat := if win = 0x20 then 128 else if win = 0x21 then 256 else 512

/-- The first tick of a tile's drain: 32 ticks to the first accumulation, then the accumulation. -/
def Issue.tileStop (x : Issue) : Nat := x.start + 32 + x.kTicks (x.arg 37 18 * 32)

/-- The tick, counted from the first, in which a drain or a preload carries element (i, j): an even rate over its ticks (log entry 122). -/
def siteTick (ticks i j : Nat) : Nat := (i * 128 + j) * ticks / 16384

/-- The tick in which the operand words of a K position are read: free within the 33 ticks that end with its accumulation (log entry 122). -/
def Issue.operandTick (x : Issue) (p : TilePlan) (kk : Nat) : Nat :=
  x.start + x.kTicks (p.ks.takeWhile (fun q => decide (q < kk))).length + Config.operandTick x.op.id x.rc.part kk % 33

/-- The cell as the array reads the operand words of a K position. -/
def Issue.factorCell (x : Issue) (p : TilePlan) (c : Cell) (kk : Nat) : Cell :=
  if c.landed.isEmpty then c else c.asOf (x.operandTick p kk)

/-- The cell as a preload reads element (i, j). -/
def Issue.preloadCell (x : Issue) (p : TilePlan) (c : Cell) (i j : Nat) : Cell :=
  if c.landed.isEmpty then c else c.asOf (x.start + siteTick (partialTicks p.win) i j)

/-- The surveys in use of a side: the supplied ones, those received by the cell, and for block-scaled operands those of the scale bytes that stream in (05:R125). -/
def useSurveys (d : Side) (first n : Nat) (supplied received : List Byte) (fs : Nat → List Factor) : List Nat :=
  (List.range n).map (fun i =>
    let u := max (supplied.getD i 0).toNat (received.getD (first + i) 0).toNat
    if isBlockFmt d.o.lay.format then max u (surveyMax ((fs (first + i)).map (·.byte))) else u)

/-- The exact sum of finite values, as an integer and an exponent. -/
def sumExact (l : List Val) : Int × Int :=
  l.foldl (fun a v => match v with
    | .fin n m e => let x := addExact (decide (a.1 < 0)) a.1.natAbs a.2 n m e; x
    | _ => a) (0, 0)

def exactVal (x : Int × Int) : Val := .fin (decide (x.1 < 0)) x.1.natAbs x.2

/-- A preloaded or drained partial lies in the destination's layout when that is anchored, else in row order (log entry 19): the address of element (i, j) of the tile. -/
def Issue.partialAddr (x : Issue) (p : TilePlan) (i j : Nat) : Nat :=
  let z := ancBits p.win / 8
  match x.g.lay x.op.dst with
  | some l =>
    if isAncFmt l.format then
      match x.operand x.op.dst (x.arg 93 72) (l.posOf [p.row0, p.col0]) with
      | some o => o.at x.seat (l.byteOf (l.posOf [p.row0 + i, p.col0 + j])).1
      | none => x.seat.addr (x.arg 93 72)
    else x.seat.addr ((x.arg 93 72 + (i * 128 + j) * z : Nat))
  | none => x.seat.addr ((x.arg 93 72 + (i * 128 + j) * z : Nat))

/-- The grid of a tile in row order. -/
def TilePlan.sites (p : TilePlan) : List (Nat × Nat) :=
  (List.range p.rows).flatMap (fun i => (List.range p.cols).map (fun j => (i, j)))

/-- The anchor of a site. -/
def siteAnchor (f k r c : Nat) : Int := anchor2 f r c k

/-- Everything a matrix record computes. -/
structure TileWork where
  tile : Tile
  above : Nat
  badNibbles : Nat
  badPartial : Bool
  deriving DecidableEq, Repr

/-- The checksums of an audit cell (05:R142): for each line of `d`, the anchored sum of its factors times the exact sums of the other side. -/
def checksums (p : TilePlan) (own : Nat → List (Nat × Factor)) (beta : Nat → Val) (lines : Nat) (sv : Nat → Nat) (otherMax : Nat) (f : Nat) : List Acc :=
  (List.range lines).map (fun i =>
    sumTerms ((own i).map (fun y => mulVal y.2.val (beta y.1))) (anchor2 f (sv i) otherMax p.k + 7) 126)

/-- The tile that a record forms in the front accumulators (K of the padding: log entry 139). -/
def Issue.tileWork (x : Issue) (p : TilePlan) (c : Cell) (rows cols : List Byte) : TileWork :=
  let v := x.factorCell p c
  let nib := x.nibbles p v
  let t := x.seat
  let f := p.a.o.lay.format
  let inRows := if c.inOp = x.op.id then c.inRows else []
  let inCols := if c.inOp = x.op.id then c.inCols else []
  let fa (i : Nat) : List (Nat × Factor) := p.ks.filterMap (fun kk => (p.a.at t (v kk) nib i kk).map (fun y => (kk, y)))
  let fb (j : Nat) : List (Nat × Factor) := p.ks.filterMap (fun kk => (p.b.at t (v kk) nib j kk).map (fun y => (kk, y)))
  let la := (List.range p.rows).map (fun i => fa (p.row0 + i))
  let lb := (List.range p.cols).map (fun j => fb (p.col0 + j))
  let sr := useSurveys p.a p.row0 p.rows rows inRows (fun i => (la.getD (i - p.row0) []).map (·.2))
  let sc := useSurveys p.b p.col0 p.cols cols inCols (fun j => (lb.getD (j - p.col0) []).map (·.2))
  let overR := (List.range p.rows).map (fun i => ((la.getD i []).filter (fun y => aboveSurvey y.2.byte (sr.getD i 0))).length)
  let overC := (List.range p.cols).map (fun j => ((lb.getD j []).filter (fun y => aboveSurvey y.2.byte (sc.getD j 0))).length)
  -- invalid nibbles of a line, and whether one of them belongs to a padding group, whose two terms are NaN too (R129)
  let badOf (line : Nat) : Nat := p.groups.countP (fun g => !validNibble (nib line g))
  let padBad (line : Nat) : Bool := (p.groups.filter (fun g => decide (p.k ≤ 4 * g))).any (fun g => !validNibble (nib line g))
  let badN := if p.a.sparse then ((List.range p.rows).map (fun i => badOf (p.row0 + i))).sum
    else if p.b.sparse then ((List.range p.cols).map (fun j => badOf (p.col0 + j))).sum else 0
  let nanPad (i j : Nat) : Bool := (p.a.sparse && padBad (p.row0 + i)) || (p.b.sparse && padBad (p.col0 + j))
  let pre := decide (2 ≤ p.mode)
  let z := ancBits p.win / 8
  let sum (i j : Nat) : Acc :=
    let a := siteAnchor f p.k (sr.getD i 0) (sc.getD j 0)
    sumTerms ((la.getD i []).filterMap (fun y => ((lb.getD j []).find? (fun v => v.1 == y.1)).map (fun v => mulVal y.2.val v.2.val))) a (ancWindow p.win)
  let cellsOf := p.sites.map (fun ij =>
    let q := sum ij.1 ij.2
    let q := if overR.getD ij.1 0 ≠ 0 ∨ overC.getD ij.2 0 ≠ 0 ∨ nanPad ij.1 ij.2 = true then Acc.nan else q
    let r := if pre then combineAnc p.win (q, false) (patternAcc p.win (leNat ((x.preloadCell p c ij.1 ij.2).bytes (x.partialAddr p ij.1 ij.2) z))) else (q, false)
    (q, r))
  let alpha (kk : Nat) : Val := exactVal (sumExact (la.filterMap (fun l => (l.find? (fun y => y.1 == kk)).map (fun y => y.2.val))))
  let beta (kk : Nat) : Val := exactVal (sumExact (lb.filterMap (fun l => (l.find? (fun y => y.1 == kk)).map (fun y => y.2.val))))
  let audit := c.audits
  { tile :=
      { op := x.op.id, part := x.rc.part, rows := sr.map (BitVec.ofNat 8), cols := sc.map (BitVec.ofNat 8)
        acc := cellsOf.map (fun y => y.2.1), added := cellsOf.map (fun y => y.1)
        checkRows := if audit then checksums p (fun i => la.getD i []) beta p.rows (fun i => sr.getD i 0) (surveyMax sc) f else []
        checkCols := if audit then checksums p (fun j => lb.getD j []) alpha p.cols (fun j => sc.getD j 0) (surveyMax sr) f else []
        positions := x.arg 37 18 * 32, bad := [] }
    above := overR.sum + overC.sum, badNibbles := badN, badPartial := cellsOf.any (fun y => y.2.2) }

/-- The scratchpad addresses that the factors of a K position touch. -/
def TilePlan.touchesAt (p : TilePlan) (t : Seat) (kk : Nat) : List Nat :=
  let side (d : Side) (first n : Nat) : List Nat := (List.range n).flatMap (fun i =>
    match d.pos (first + i) (if d.sparse then kk / 2 else kk) with
    | some q => d.o.touches t q
    | none => [])
  side p.a p.row0 p.rows ++ side p.b p.col0 p.cols

/-- Those that all of a record's factors touch. -/
def TilePlan.touches (p : TilePlan) (t : Seat) : List Nat := p.ks.flatMap (p.touchesAt t)

/-- The uses of the ports by a record's operand reads, by tick (06:Table 6.2). -/
def Issue.operandUses (x : Issue) (p : TilePlan) : List (Nat × Nat) :=
  p.ks.flatMap (fun kk => (p.touchesAt x.seat kk).map (fun a => (x.operandTick p kk, a)))

/-- All scratchpad addresses that a record reads: the factors, the metadata of its groups, the partial it preloads. -/
def Issue.tileTouches (x : Issue) (p : TilePlan) : List Nat :=
  let md := match x.metaOperand p with
    | none => []
    | some o => (List.range (if p.a.sparse then p.rows else p.cols)).flatMap (fun i =>
        ((p.groups.map (· / 8)).eraseDups).flatMap (fun h => o.touches x.seat (o.lay.posOf [(if p.a.sparse then p.row0 else p.col0) + i, h])))
  let z := ancBits p.win / 8
  let pre := if 2 ≤ p.mode then p.sites.flatMap (fun ij => (List.range z).map (fun b => x.partialAddr p ij.1 ij.2 + b)) else []
  p.touches x.seat ++ md ++ pre

/-- The places that the matrix engine reads for a preload, or writes in a partial drain, in a tick of the pound (06:Table 6.2). Its operand reads are noted as the record issues. -/
def Issue.matrixPorts (x : Issue) (write : Bool) (τ : Nat) : List Nat :=
  let n := partialTicks x.op.window
  let first := if write then x.tileStop else x.start
  if τ < first ∨ first + n ≤ τ ∨ x.arg 71 70 % 2 ≠ (if write then 1 else x.arg 71 70 % 2) ∨ (write = false ∧ x.arg 71 70 < 2) then [] else
  match x.tilePlan (fun _ => false) with
  | none => []
  | some p => (p.sites.filter (fun y => first + siteTick n y.1 y.2 == τ)).map (fun y => x.partialAddr p y.1 y.2)

/-- Posts the same event a number of times: one for each occurrence. -/
def State.postTimes (s : State) (k code source : Nat) (slot : Option Nat) (p : BitVec 128) : State :=
  (List.range k).foldl (fun s _ => s.post code source slot p) s

/-- A matrix instruction issues a tile (05:R122 to R130). -/
def State.matrixIssue (s : State) (k : Nat) (x : Issue) (rows cols : List Byte) : State :=
  match x.tilePlan (s.skipOf x) with
  | none => s.began k x
  | some p =>
    let s := ((s.began k x).skipRead x p).spadRead x.key (x.tileTouches p)
    let w := x.tileWork p (s.cell x.key) rows cols
    let s := s.modCell x.key (fun c => { c with
      front := if c.front.acc = [] then w.tile else c.front, issued := if c.front.acc = [] then c.issued else c.issued ++ [w.tile]
      ports := (c.notePorts 1 x.g.compat false (x.operandUses p)).ports, surveyErr := c.surveyErr + BitVec.ofNat 64 w.above, sparseMetaErr := c.sparseMetaErr + BitVec.ofNat 64 w.badNibbles })
    let s := s.postTimes w.above 0x5001 (srcDie x.bind.die) (some x.slot) (payload [(0, 4, x.op.id), (4, 1, x.bind.die), (5, 1, x.bind.cell)])
    let s := if w.badNibbles = 0 then s else s.opEvent x.slot x.op.id 0x2003
    if w.badPartial then s.post 0x500A (srcDie x.bind.die) (some x.slot) (payload [(0, 1, x.bind.die), (1, 1, x.bind.cell), (4, 4, x.op.dst)]) else s

def execMatrixProduct (k : Nat) (rows cols : List Byte) (s : State) : Result :=
  match s.turn k 1 with
  | none => .next s
  | some x => .next (s.mirrored x (s.matrixIssue k x rows cols))

/-! ## The end of a tile -/

/-- Is line i of an audit tile compared, and does it pass (05:R143)? none: not compared. Exact values over one power of two (elements without a unit: log entry 138). -/
def linePasses (accs : List Acc) (anchors : List Int) (live : List Bool) (w : Nat) (check : Acc) (checkAnchor : Int) (own positions : Nat) : Option Bool :=
  if own = 0 ∨ accs.any (fun a => a.cls != .fin) ∨ check.cls != .fin then none else
  let us := (List.zip anchors live).filterMap (fun y => if y.2 then some (Val.fin false 1 (y.1 - w)) else none)
  let qs := (List.zip accs (List.zip anchors live)).filterMap (fun y => if y.2.2 then some (Val.ofInt y.1.q (y.2.1 - w)) else none)
  let uR : Val := .fin false 1 (checkAnchor - 126)
  let d := sumExact (qs ++ [negVal (.ofInt check.q (checkAnchor - 126))])
  let b := sumExact (us ++ [uR])
  some (!leMag (b.1.natAbs * positions) b.2 d.1.natAbs d.2)

/-- The audit of a tile: passes by row, then by column. -/
def auditTile (p : TilePlan) (t : Tile) (f : Nat) : List (Option Bool) × List (Option Bool) :=
  let w := ancWindow p.win
  let r (i : Nat) : Nat := (t.rows.getD i 0).toNat
  let c (j : Nat) : Nat := (t.cols.getD j 0).toNat
  let at_ (i j : Nat) : Acc := t.added.getD (i * p.cols + j) .zero
  let rows := (List.range p.rows).map (fun i =>
    linePasses ((List.range p.cols).map (at_ i)) ((List.range p.cols).map (fun j => siteAnchor f p.k (r i) (c j)))
      ((List.range p.cols).map (fun j => c j != 0)) w (t.checkRows.getD i .zero)
      (anchor2 f (r i) (surveyMax (t.cols.map (·.toNat))) p.k + 7) (r i) t.positions)
  let cols := (List.range p.cols).map (fun j =>
    linePasses ((List.range p.rows).map (fun i => at_ i j)) ((List.range p.rows).map (fun i => siteAnchor f p.k (r i) (c j)))
      ((List.range p.rows).map (fun i => r i != 0)) w (t.checkCols.getD j .zero)
      (anchor2 f (c j) (surveyMax (t.rows.map (·.toNat))) p.k + 7) (c j) t.positions)
  (rows, cols)

/-- The first failing row or column. -/
def firstFail (x : List (Option Bool) × List (Option Bool)) : Option (Nat × Nat) :=
  match x.1.findIdx? (fun r => r == some false) with
  | some i => some (0, i)
  | none => (x.2.findIdx? (fun r => r == some false)).map (fun j => (1, j))

/-- The check of a tile on an audit cell (05:R143). The rows and columns of the 128 × 128 sites beyond an edge tile's shape have an empty survey, and are skipped. -/
def State.audit (s : State) (x : Issue) (p : TilePlan) (t : Tile) : State :=
  let f := p.a.o.lay.format
  let r := auditTile p t f
  let all := r.1 ++ r.2
  let fails := all.countP (fun y => y == some false)
  let s := s.modCell x.key (fun c => { c with
    auditTiles := c.auditTiles + 1
    auditFail := c.auditFail + BitVec.ofNat 64 fails
    auditSkip := c.auditSkip + BitVec.ofNat 64 (all.countP (fun y => y == none) + (128 - p.rows) + (128 - p.cols)) })
  match firstFail r with
  | none => s
  | some (kind, i) =>
    let s := s.post 0x5002 (srcDie x.bind.die) (some x.slot)
      (payload [(0, 1, x.bind.die), (1, 1, x.bind.cell), (2, 1, kind), (4, 4, x.op.id), (8, 2, i)])
    s.auditFault x.key 2

/-- A complete tile (05:R126): each sum rounded once to binary32, into the next entry of the tile queue. -/
def State.tileComplete (s : State) (x : Issue) (p : TilePlan) (t : Tile) (l : Layout) : State :=
  let kind := ((x.g.tensor x.op.dst).map (·.kind)).getD 1
  let f := p.a.o.lay.format
  let res := (List.zip p.sites t.acc).map (fun y =>
    let i := y.1.1
    let j := y.1.2
    let e := indexOf l.dims [p.row0 + i, p.col0 + j]
    let a := siteAnchor f p.k (t.rows.getD i 0).toNat (t.cols.getD j 0).toNat
    let r := convertVal 0x11 0 (s.roundWord x.slot x.op.stream kind false e) true (y.2.val a (ancWindow p.win))
    (i * 128 + j, e, r))
  let s := s.countSat x.slot kind (res.countP (fun y => y.2.2.2))
  let s := s.modCell x.key (fun c =>
    let base := c.tilesIn % 4 * 16384
    let q := (List.range 16384).foldl (fun q i => sset 0 q (base + i) 0) c.tileQ
    { c with
      tileQ := res.foldl (fun q y => sset 0 q (base + y.1) (BitVec.ofNat 32 y.2.2.1)) q, tilesIn := c.tilesIn + 1
      queueLanded := ⟨x.tileStop, base, c.tileQ.filter (fun y => decide (base ≤ y.1 ∧ y.1 < base + 16384))⟩ :: c.queueLanded
      drain := some ⟨x.tileStop, x.tileStop + 128, true, base, []⟩ })
  s.digest x.slot x.g x.op.id x.op.dst l (res.map (fun y => (y.2.1, 0, y.2.2.1)))

/-- A partial tile (05:R126): the integer and its class into the scratchpad; the survey record of an anchored destination (02:R58). -/
def State.tilePartial (s : State) (x : Issue) (p : TilePlan) (t : Tile) (l : Layout) : State :=
  let z := ancBits p.win / 8
  let f := p.a.o.lay.format
  let n := partialTicks p.win
  let puts := p.sites.flatMap (fun ij => (List.range z).map (fun b => (x.tileStop + siteTick n ij.1 ij.2, x.partialAddr p ij.1 ij.2 + b)))
  let s := s.modCell x.key (fun c => { (c.land ((List.zip p.sites t.acc).foldl (fun c y =>
    c.setBytes (x.partialAddr p y.1.1 y.1.2) (leBytes z (y.2.pattern p.win))) c) puts (fun _ _ => false)) with
    drain := some ⟨x.tileStop, x.tileStop + n, false, 0, puts⟩ })
  if isAncFmt l.format then
    let es := (List.zip p.sites t.acc).map (fun y => (indexOf l.dims [p.row0 + y.1.1, p.col0 + y.1.2], y))
    let s := s.modSlot x.slot (fun sl => { sl with anchors := es.foldl (fun m e =>
      sset none m (x.op.dst * 2 ^ 64 + e.1) (some (siteAnchor f p.k (t.rows.getD e.2.1.1 0).toNat (t.cols.getD e.2.1.2 0).toNat))) sl.anchors })
    s.digest x.slot x.g x.op.id x.op.dst l (es.map (fun e => (e.1, 0, e.2.2.pattern p.win)))
  else s

/-- The accumulators exchange roles before the drain in progress has ended: the rest of that drain is overwritten (05:R132, 07:R200). Which values it then delivers the spec does not say: free values. -/
def State.cutDrain (s : State) (key τ : Nat) : State :=
  match (s.cell key).drain with
  | none => s
  | some d =>
    if d.stop ≤ τ then s
    else if d.queue then
      let cut := (τ - d.start) * 128
      { s.modCell key (fun c => { c with
          tileQ := (List.range (16384 - cut)).foldl (fun q i => sset 0 q (d.base + cut + i) ((Config.freeWord (s.fresh + i)).setWidth 32)) c.tileQ }) with
        fresh := s.fresh + (16384 - cut) }
    else
      let rest := (d.puts.filter (fun y => decide (τ ≤ y.1))).map (·.2)
      { s.modCell key (fun c => (List.zip (List.range rest.length) rest).foldl (fun c y =>
          c.setByte y.2 ((Config.freeWord (s.fresh + y.1)).setWidth 8)) c) with
        fresh := s.fresh + rest.length }

/-- The accumulators exchange roles and the output path drains the back ones (05:R122, R126). -/
def State.tileEndOf (s : State) (x : Issue) : State :=
  match x.tilePlan (s.skipOf x), x.g.lay x.op.dst with
  | some p, some l =>
    let t := (s.cell x.key).front
    let s := s.cutDrain x.key x.tileStop
    let s := s.modCell x.key (fun c => { c with back := c.front, front := c.issued.headD .zero, issued := c.issued.drop 1, backFull := true })
    let s := if p.mode = 0 ∨ p.mode = 2 then s.tileComplete x p t l else s.tilePartial x p t l
    if (s.cell x.key).audits then s.audit x p t else s
  | _, _ => s

def execTileEnd (k : Nat) (s : State) : Result :=
  match s.issueOf k 1 with
  | none => .next s
  | some x => if (s.cell x.key).front.acc ≠ [] ∧ (s.cell x.key).front.op = x.op.id ∧ (s.cell x.key).front.part = x.rc.part ∧ (s.slot x.slot).doneRecs.contains k then
      .next (s.mirrored x (s.tileEndOf x)) else .next s

end Sys2Proof.Machine
end

