-- ==== Sys2Proof/Machine/Vector.lean ====
section
/-! DEFINITION. The vector engine (05:R133 to R137, R145 to R148, 04:R109 to R119, 03:R78): chains, composites, drop-out, initialisation, sampling, routing, the optimizer update, conversions. -/

namespace Sys2Proof.Machine

open Sys2Proof

/-! ## Results and their writing -/

/-- One result: its position, its logical index (none outside the logical shape), its exact value, and whether its computation saturated (03:R92). -/
structure Res where
  p : Nat
  e : Option Nat
  v : Val
  sat : Bool
  deriving DecidableEq, Repr

/-- A result as written: position, logical index, scale byte, bits, counted or not (03:R86). -/
structure Put where
  p : Nat
  e : Option Nat
  scale : Nat
  bits : Nat
  counts : Bool
  deriving DecidableEq, Repr

/-- One block of results, by its number: 32 positions under one scale (03:R74, R76; positions no result names: log entry 131). -/
def convertOneBlock (f : Nat) (fromSum : Bool) (word : Nat → Option Nat) (rs : List Res) (h : Nat) : List Put :=
  let at_ (i : Nat) : Option Res := rs.find? (fun r => r.p == h * 32 + i)
  let live (i : Nat) : Option (Val × Option Nat) := match at_ i with
    | some r => r.e.map (fun e => (r.v, word e))
    | none => none
  let x := convertBlock f fromSum ((List.range 32).map live)
  (List.range 32).map (fun i =>
    let y := x.2.getD i (0, false)
    ⟨h * 32 + i, (at_ i).bind (fun r => r.e), x.1, y.1,
      (at_ i).any (fun r => r.e.isSome && x.1 != 0xFF && (r.sat || y.2))⟩)

/-- Results converted into a format under a recipe (03:R77; integers into a block-scaled format: log entry 130). -/
def convertResults (f : Nat) (fromSum : Bool) (word : Nat → Option Nat) (rs : List Res) : List Put :=
  if isBlockFmt f then ((rs.map (fun r => r.p / 32)).eraseDups).flatMap (convertOneBlock f fromSum word rs)
  else rs.map (fun r => match r.e with
    | none => ⟨r.p, none, 0, 0, false⟩
    | some e =>
      let y := convertVal f 0 (word e) fromSum r.v
      ⟨r.p, some e, 0, y.1, r.sat || y.2⟩)

/-- Stores what is written into the scratchpad of a seat. -/
def Operand.putAll (o : Operand) (t : Seat) (c : Cell) (ps : List Put) : Cell :=
  ps.foldl (fun c y => o.setScale t (o.setBits t c y.p y.bits) y.p y.scale) c

/-- Where the results of a vector record go (05:R133). -/
structure Dest where
  spad : Bool
  feed : Bool
  digest : Bool
  deriving DecidableEq, Repr

def toSpad : Dest := ⟨true, false, true⟩

/-- Passes elements to the reduction unit. -/
def Cell.feedAll (c : Cell) (tensor : Nat) (ps : List Put) : Cell :=
  { c with
    feedTensor := tensor
    feed := ps.foldl (fun m y => sset 0 m y.p (BitVec.ofNat 72 (y.scale * 2 ^ 64 + y.bits))) (if c.feedTensor = tensor then c.feed else []) }

/-- When the results of a record reach the scratchpad: the tick of each position, and the writes of engines of higher priority in a tick (06:Table 6.2). -/
structure When where
  tick : Nat → Nat
  above : Nat → List Nat

/-- The ticks and places of what is written, in the order of the positions. -/
def Operand.landings (o : Operand) (t : Seat) (tick : Nat → Nat) (ps : List Put) : List (Nat × Nat) :=
  ps.flatMap (fun y => (o.touches t y.p).map (fun a => (tick y.p, a)))

/-- What is written lands in the cell's scratchpad at its ticks. -/
def Operand.landAll (o : Operand) (x : Issue) (wn : When) (c : Cell) (ps : List Put) : Cell :=
  c.land (o.putAll x.seat c ps) (o.landings x.seat wn.tick ps) (lostTo x.g.compat wn.above)

/-- What is written goes to its destinations, is counted and digested. -/
def State.putResults (s : State) (x : Issue) (wn : When) (o : Operand) (dest : Dest) (ps : List Put) : State :=
  let s := s.countSat x.slot o.kind (ps.countP (fun y => y.counts))
  let s := if dest.spad then s.modCell x.key (fun c => o.landAll x wn c ps) else s
  let s := if dest.feed then s.modCell x.key (fun c => c.feedAll o.tensor ps) else s
  if dest.digest then s.digest x.slot x.g x.op.id o.tensor o.lay (ps.filterMap (fun y => y.e.map (fun e => (e, y.scale, y.bits)))) else s

/-- Results of a record are converted under the recipe of the destination's kind and written. -/
def State.writeResults (s : State) (x : Issue) (wn : When) (o : Operand) (dest : Dest) (fromSum force : Bool) (rs : List Res) : State :=
  s.putResults x wn o dest (convertResults o.lay.format fromSum (s.roundWord x.slot x.op.stream o.kind force) rs)

/-! ## Operand streams (05:R133) -/

/-- A source of a vector record. -/
inductive Src where
  | absent
  | spad (o : Operand)
  | queue
  | row (o : Operand)
  | column (o : Operand)
  deriving DecidableEq, Repr

/-- The 128-element groups of a vector record, and the position of its first element. -/
def vecGroups (r : IRec) : Nat := bits r.args.toNat 63 44
def Issue.vecFirst (x : Issue) : Nat := 128 * partStart x vecGroups
def Issue.positions (x : Issue) (l : Layout) : List Nat :=
  (List.range (128 * vecGroups x.rc)).filterMap (fun i => if x.vecFirst + i < l.positions then some (x.vecFirst + i) else none)

/-- The length of a row: the last dimension in declaration order (08:R212). -/
def Layout.rowLen (l : Layout) : Nat := max 1 (l.dims.getLast?.getD 1)

/-- Source k of a record over the layout `l` of its element stream: the queue, a per-row broadcast, a vector of one row's length (05:R136), or the scratchpad. -/
def Issue.src (x : Issue) (l : Layout) (k tensor addr first : Nat) : Src :=
  let e0 := (l.posIndex first).getD 0
  match x.g.lay tensor with
  | none => .absent
  | some m =>
    if x.arg (69 + k) (69 + k) = 1 then .queue
    else if x.arg (66 + k) (66 + k) = 1 then
      match x.operand tensor addr (m.pos (e0 / l.rowLen)) with
      | some o => .row o
      | none => .absent
    else if m.rank = 1 ∧ l.rank ≠ 1 then
      match x.operand tensor addr (m.pos (e0 % l.rowLen)) with
      | some o => .column o
      | none => .absent
    else match x.operand tensor addr first with
      | some o => .spad o
      | none => .absent

/-- The position of an operand that an element takes, if the source lies in the scratchpad. -/
def Src.place (r : Src) (l : Layout) (p e : Nat) : Option (Operand × Nat) :=
  match r with
  | .spad o => some (o, p)
  | .row o => some (o, o.lay.pos (e / l.rowLen))
  | .column o => some (o, o.lay.pos (e % l.rowLen))
  | _ => none

/-- The value that an element takes from a source, widened to binary32 (03:R91). -/
def Src.value (r : Src) (t : Seat) (c : Cell) (l : Layout) (first p e : Nat) : BitVec 32 :=
  match r with
  | .queue => let i := c.readOut + (p - first); sget 0 c.tileQ (i / 16384 % 4 * 16384 + i % 16384)
  | _ => match r.place l p e with
    | some (o, q) => o.f32 t c q
    | none => 0

/-- The addresses that the sources of a record touch. -/
def Src.touches (r : Src) (t : Seat) (l : Layout) (ps : List Nat) : List Nat :=
  ps.flatMap (fun p => match l.posIndex p with
    | none => []
    | some e => match r.place l p e with
      | some (o, q) => o.touches t q
      | none => [])

/-- A vector record with its layout, positions and sources. -/
structure VecWork where
  dst : Operand
  first : Nat
  ps : List Nat
  s0 : Src
  s1 : Src
  s2 : Src
  deriving DecidableEq, Repr

/-- The work of a record whose elements follow the layout of tensor `stream`; the destination is tensor `dst` at address `addr`. -/
def Issue.vecWork (x : Issue) (stream dst addr : Nat) : Option VecWork :=
  match x.g.lay stream with
  | none => none
  | some l =>
    let first := x.vecFirst
    match x.operand dst addr first with
    | none => none
    | some o => some ⟨o, first, x.positions l, x.src l 0 x.op.src0 (x.arg 159 138) first,
        x.src l 1 x.op.src1 (x.arg 137 116) first, x.src l 2 x.op.src2 (x.arg 115 94) first⟩

def VecWork.touches (w : VecWork) (t : Seat) (l : Layout) : List Nat :=
  w.s0.touches t l w.ps ++ w.s1.touches t l w.ps ++ w.s2.touches t l w.ps

def VecWork.usesQueue (w : VecWork) : Bool := w.s0 == .queue || w.s1 == .queue || w.s2 == .queue

/-- The vector engine has read its elements from the tile queue (05:R131). -/
def State.queueRead (s : State) (x : Issue) (w : VecWork) : State :=
  if w.usesQueue then s.modCell x.key (fun c => { c with readOut := c.readOut + w.ps.length }) else s

/-- The duplicate-lane check of an audit cell (05:R145): a difference counts once for the record (log entry 177), posts 0x5003, and the cell leaves service (13:R333). -/
def State.laneCheck (s : State) (x : Issue) (lanesDiffer : Bool) : State :=
  if lanesDiffer ∧ (s.cell x.key).audits = true then
    let s := s.modCell x.key (fun c => { c with vecDupFail := c.vecDupFail + 1 })
    let s := s.post 0x5003 (srcDie x.bind.die) (some x.slot) (payload [(0, 1, x.bind.die), (1, 1, x.bind.cell), (4, 4, x.op.id)])
    s.auditFault x.key 3
  else s

/-- The destinations that ARGS names. -/
def Issue.dest (x : Issue) : Dest := ⟨x.arg 65 64 != 1, x.arg 65 64 == 1 || x.arg 65 64 == 2, x.op.opcode != 0x0100⟩

/-! ## Chains (05:R134, 08:R213) -/

/-- A chain operation of Table 8.7 on the running value and its operands. -/
def chainOp (code : Nat) (p a b : BitVec 32) : F32 :=
  match code with
  | 0x01 => addF32 p a
  | 0x02 => subF32 p a
  | 0x03 => mulF32 p a
  | 0x04 => fmaF32 p a b
  | 0x05 => ⟨maxF32 p a, false⟩
  | 0x06 => ⟨minF32 p a, false⟩
  | 0x0D => let r := if p = 0x3F800000 then a else b; ⟨if isNaN32 r then f32NaN else r, false⟩
  | 0x10 => expF32 p
  | 0x11 => logF32 p
  | 0x12 => tanhF32 p
  | 0x13 => sigmoidF32 p
  | 0x14 => sqrtF32 p
  | 0x15 => rsqrtF32 p
  | 0x16 => divF32 p a
  | c => ⟨cmpF32 c p a, false⟩

/-- One operation of a chain: code, selectors of its operands. -/
structure ChainStep where
  code : Nat
  a : Nat
  b : Nat
  deriving DecidableEq, Repr

/-- The operations of PARAMS, up to the ending 0x00. -/
def chainSteps (params : Nat) : List ChainStep :=
  ((List.range 8).map (fun n =>
    (⟨bits params (8 * n + 7) (8 * n), bits params (96 + 4 * n + 3) (96 + 4 * n + 2), bits params (96 + 4 * n + 1) (96 + 4 * n)⟩ : ChainStep))).takeWhile (fun c => c.code != 0)

/-- A chain from its first input: each operation takes the rounded result of the one before. -/
def runChain (steps : List ChainStep) (val : Nat → BitVec 32) (p : BitVec 32) : F32 :=
  steps.foldl (fun r c => let y := chainOp c.code r.bits (val c.a) (val c.b); ⟨y.bits, r.sat || y.sat⟩) ⟨p, false⟩

/-- The operand that a selector names for an element (08:R213). -/
def VecWork.select (w : VecWork) (x : Issue) (c : Cell) (l : Layout) (p e code : Nat) : BitVec 32 :=
  match code with
  | 0 => w.s1.value x.seat c l w.first p e
  | 1 => w.s2.value x.seat c l w.first p e
  | 2 => BitVec.ofNat 32 (x.param 95 64)
  | _ => w.s0.value x.seat c l w.first p e

/-- Every live element through `f`; a position outside the shape is a padding result. -/
def resultsOf (l : Layout) (ps : List Nat) (f : Nat → Nat → F32) : List Res :=
  ps.map (fun p => match l.posIndex p with
    | none => ⟨p, none, .nan, false⟩
    | some e => let y := f p e; ⟨p, some e, f32Val y.bits, y.sat⟩)

/-! ## Timing and ports (05:R135, Table 5.4; 06:R160) -/

/-- Functions and other operations of a chain (05:R135). -/
def chainFns (steps : List ChainStep) : Nat := steps.countP (fun c => decide (0x10 ≤ c.code))
def chainInterval (steps : List ChainStep) : Nat := (steps.length - chainFns steps) + 4 * chainFns steps

/-- The arithmetic operations and the correctly rounded functions per element: a chain's own; for every other opcode those that its rule lists for an element (log entry 123). -/
def Issue.vecOps (x : Issue) : Nat × Nat :=
  let st := chainSteps x.op.params.toNat
  match x.op.opcode with
  | 0x0200 => (st.length - chainFns st, chainFns st)
  | 0x0240 => (st.length - chainFns st, chainFns st)
  | 0x0210 => (2, 2)
  | 0x0211 => (2, 0)
  | 0x0212 => (3, 0)
  | 0x0213 => (3, 2)
  | 0x0220 => (2, 0)
  | 0x0221 => (2, 0)
  | 0x0230 => (1, 2)
  | _ => (1, 0)

/-- A composite, and sampling and routing, need their whole rows before their first result (log entry 123). -/
def Issue.wholeRows (x : Issue) : Bool := [0x0210, 0x0211, 0x0212, 0x0213, 0x0230, 0x0231].contains x.op.opcode

/-- The issue interval of 128 elements, twice as long on an audit logical cell (05:R135, R145). -/
def Issue.vecInterval (x : Issue) : Nat :=
  max 1 ((x.vecOps.1 + 4 * x.vecOps.2) * (if (x.g.cells[x.rc.cell]?).any (fun c => c.audit) then 2 else 1))

/-- The tick at which the record reads a position, and that at which its result is written. -/
def Issue.vecGroup (x : Issue) (p : Nat) : Nat := (p - x.vecFirst) / 128
def Issue.vecRead (x : Issue) (p : Nat) : Nat := x.start + x.vecInterval * x.vecGroup p
def Issue.vecWrite (x : Issue) (p : Nat) : Nat :=
  x.start + x.vecInterval * ((if x.wholeRows then vecGroups x.rc else 0) + x.vecGroup p) + 24 + 40 * x.vecOps.2

/-- The tensor whose layout the element stream follows. -/
def Issue.vecStream (x : Issue) : Nat := if x.op.opcode = 0x0213 ∨ x.op.opcode = 0x0230 ∨ x.op.opcode = 0x0231 then x.op.src0 else x.op.dst
/-- The tensor and the address of its results. -/
def Issue.vecDest (x : Issue) : Nat × Nat := if x.op.opcode = 0x0213 then (x.param 63 32, x.arg 115 94) else (x.op.dst, x.arg 93 72)

/-- The places that the vector engine reads, or writes, for the elements of one group. -/
def Issue.groupPlaces (x : Issue) (write : Bool) (g : Nat) : List Nat :=
  match x.vecWork x.vecStream x.vecDest.1 x.vecDest.2, x.g.lay x.vecStream with
  | some w, some l =>
    let ps := w.ps.filter (fun p => x.vecGroup p == g)
    if write then (if x.arg 65 64 = 1 then [] else ps.flatMap (w.dst.touches x.seat))
    else if x.op.opcode = 0x0100 then []
    else ({ w with ps := ps }.touches x.seat l) ++ (if x.op.opcode = 0x0240 then ps.flatMap (w.dst.touches x.seat) else [])
  | _, _ => []

/-- The same for the group that is read, or written, in a tick of the pound. -/
def Issue.vectorPorts (x : Issue) (write : Bool) (τ : Nat) : List Nat :=
  let first := x.start + (if write then x.vecWrite x.vecFirst - x.start else 0)
  if τ < first ∨ first + x.vecInterval * vecGroups x.rc ≤ τ ∨ (τ - first) % x.vecInterval ≠ 0 then []
  else x.groupPlaces write ((τ - first) / x.vecInterval)

/-- The uses of the matrix engine in a tick, which go before those of the vector engine. -/
def Issue.aboveVector (x : Issue) (c : Cell) (write : Bool) (τ : Nat) : List Nat := c.usesOf 1 write τ ++ (x.mates 1).flatMap (fun y => y.matrixPorts write τ)

/-- The cell as a vector record reads a position; `more` are places that its group reads and the image does not fix. -/
def Issue.vecCellOf (x : Issue) (more : Nat → List Nat) (c : Cell) (p : Nat) : Cell :=
  if c.landed.isEmpty && c.queueLanded.isEmpty && (x.mates 1).isEmpty then c
  else c.seen x.g.compat (x.vecRead p) (x.aboveVector c false (x.vecRead p)) (x.groupPlaces false (x.vecGroup p) ++ more (x.vecGroup p))

def Issue.vecCell (x : Issue) (c : Cell) (p : Nat) : Cell := x.vecCellOf (fun _ => []) c p

/-- When the results of a vector record are written. -/
def Issue.vecWhen (x : Issue) : When := ⟨x.vecWrite, fun τ => (x.mates 1).flatMap (fun y => y.matrixPorts true τ)⟩

/-- A vector chain, or the identity that moves the tiles of a matrix product out of the tile queue. -/
def State.chainRun (s : State) (k : Nat) (x : Issue) (lanesDiffer : Bool) : State :=
  let s := s.began k x
  match x.vecWork x.op.dst x.op.dst (x.arg 93 72) with
  | none => s
  | some w =>
    let l := w.dst.lay
    let s := if x.op.opcode = 0x0200 then s.spadRead x.key (w.touches x.seat l) else s
    let v := x.vecCell (s.cell x.key)
    let steps := if x.op.opcode = 0x0200 then chainSteps x.op.params.toNat else []
    let first := if x.op.opcode = 0x0200 then w.s0 else .queue
    let rs := resultsOf l w.ps (fun p e => runChain steps (w.select x (v p) l p e) (first.value x.seat (v p) l w.first p e))
    let s := if x.op.opcode = 0x0200 then s.queueRead x w else s.modCell x.key (fun c => { c with readOut := c.readOut + w.ps.length })
    (s.writeResults x x.vecWhen w.dst x.dest false false rs).laneCheck x lanesDiffer

def execVectorChain (k : Nat) (lanesDiffer : Bool) (s : State) : Result :=
  match s.turn k 2 with
  | none => .next s
  | some x => if x.op.opcode = 0x0200 ∨ x.op.opcode = 0x0100 then .next (s.mirrored x (s.chainRun k x lanesDiffer)) else .next s

/-! ## Composites (05:R136, R137) -/

/-- The rows whose first element lies in the record's part. -/
def Issue.rows (l : Layout) (ps : List Nat) : List Nat :=
  (List.range (l.count / l.rowLen)).filter (fun r => ps.contains (l.pos (r * l.rowLen)))

/-- Whether any of a list of results saturated. -/
def anySat (l : List F32) : Bool := l.any (fun y => y.sat)

/-- What softmax and cross-entropy share: m, d, e, s, and whether a shared intermediate saturated (03:R86). -/
structure SoftRow where
  d : List (BitVec 32)
  e : List (BitVec 32)
  sum : BitVec 32
  sat : Bool
  deriving DecidableEq, Repr

def softRow (win k : Nat) (xs : List (BitVec 32)) : SoftRow :=
  let m := (xs.drop 1).foldl maxF32 (xs.headD 0)
  let d := xs.map (fun v => subF32 v m)
  let e := d.map (fun y => expF32 y.bits)
  let s := asum1 win k (e.map (·.bits))
  ⟨d.map (·.bits), e.map (·.bits), s.bits, anySat d || anySat e || s.sat⟩

def softmaxRow (win k : Nat) (xs : List (BitVec 32)) : List F32 :=
  let r := softRow win k xs
  r.e.map (fun v => let y := divF32 v r.sum; ⟨y.bits, y.sat || r.sat⟩)

/-- rsqrt(asum2(c) / n + eps), with its mark. -/
def normFactor (win k : Nat) (c : List (BitVec 32)) (eps : BitVec 32) : F32 :=
  let a := asum2 win k c
  let q := divF32 a.bits (f32OfNat c.length)
  let t := addF32 q.bits eps
  let r := rsqrtF32 t.bits
  ⟨r.bits, a.sat || q.sat || t.sat || r.sat⟩

def rmsRow (win k : Nat) (eps : BitVec 32) (xs gs : List (BitVec 32)) : List F32 :=
  let r := normFactor win k xs eps
  (List.zip xs gs).map (fun v =>
    let t := mulF32 v.1 r.bits
    let y := mulF32 t.bits v.2
    ⟨y.bits, r.sat || t.sat || y.sat⟩)

def layerRow (win k : Nat) (eps : BitVec 32) (xs gs bs : List (BitVec 32)) : List F32 :=
  let a := asum1 win k xs
  let mu := divF32 a.bits (f32OfNat xs.length)
  let c := xs.map (fun v => subF32 v mu.bits)
  let r := normFactor win k (c.map (·.bits)) eps
  let sat := a.sat || mu.sat || anySat c || r.sat
  (List.zip c (List.zip gs bs)).map (fun v =>
    let t := mulF32 v.1.bits r.bits
    let y := fmaF32 t.bits v.2.1 v.2.2
    ⟨y.bits, sat || t.sat || y.sat⟩)

/-- The values of one row from a source. -/
def Src.rowVals (r : Src) (t : Seat) (v : Nat → Cell) (l : Layout) (first row : Nat) : List (BitVec 32) :=
  (List.range l.rowLen).map (fun i =>
    let e := row * l.rowLen + i
    r.value t (v (l.pos e)) l first (l.pos e) e)

/-- The positions of the rows of a part. -/
def rowPositions (l : Layout) (rows : List Nat) : List Nat :=
  rows.flatMap (fun r => (List.range l.rowLen).map (fun i => l.pos (r * l.rowLen + i)))

/-- Results of whole rows in ascending position, the rest of their blocks as padding. -/
def rowResults (l : Layout) (rows : List (Nat × List F32)) : List Res :=
  sortBy (fun a b => decide (a.p ≤ b.p)) (rows.flatMap (fun y =>
    (List.range l.rowLen).map (fun i =>
      let e := y.1 * l.rowLen + i
      let v := y.2.getD i ⟨f32NaN, false⟩
      ⟨l.pos e, some e, f32Val v.bits, v.sat⟩)))

/-- A composite whose rows are given by `f` from its three sources. -/
def State.compositeRun (s : State) (k : Nat) (x : Issue) (lanesDiffer : Bool)
    (f : List (BitVec 32) → List (BitVec 32) → List (BitVec 32) → List F32) : State :=
  let s := s.began k x
  match x.vecWork x.op.dst x.op.dst (x.arg 93 72) with
  | none => s
  | some w =>
    let l := w.dst.lay
    let rows := Issue.rows l w.ps
    let s := s.spadRead x.key ({ w with ps := rowPositions l rows }.touches x.seat l)
    let v := x.vecCell (s.cell x.key)
    let rv (r : Src) (row : Nat) := r.rowVals x.seat v l w.first row
    let rs := rowResults l (rows.map (fun r => (r, f (rv w.s0 r) (rv w.s1 r) (rv w.s2 r))))
    ((s.queueRead x w).writeResults x x.vecWhen w.dst x.dest false false rs).laneCheck x lanesDiffer

def execSoftmax (k : Nat) (lanesDiffer : Bool) (s : State) : Result :=
  match s.turn k 2 with
  | none => .next s
  | some x => if x.op.opcode = 0x0210 then .next (s.mirrored x (s.compositeRun k x lanesDiffer (fun a _ _ => softmaxRow x.op.window (x.op.km1 + 1) a))) else .next s

def execRmsNormalisation (k : Nat) (lanesDiffer : Bool) (s : State) : Result :=
  match s.turn k 2 with
  | none => .next s
  | some x =>
    if x.op.opcode = 0x0211 then
      .next (s.mirrored x (s.compositeRun k x lanesDiffer (fun a g _ => rmsRow x.op.window (x.op.km1 + 1) (BitVec.ofNat 32 (x.param 31 0)) a g)))
    else .next s

def execLayerNormalisation (k : Nat) (lanesDiffer : Bool) (s : State) : Result :=
  match s.turn k 2 with
  | none => .next s
  | some x =>
    if x.op.opcode = 0x0212 then
      .next (s.mirrored x (s.compositeRun k x lanesDiffer (fun a g b => layerRow x.op.window (x.op.km1 + 1) (BitVec.ofNat 32 (x.param 31 0)) a g b)))
    else .next s

/-- One row of cross-entropy: its loss with its mark, whether it counts, its gradient, whether its target is invalid. -/
structure EntropyRow where
  loss : F32
  counts : Bool
  dx : List F32
  bad : Bool
  deriving DecidableEq, Repr

def entropyRow (win k : Nat) (cg : BitVec 32) (xs : List (BitVec 32)) (tgt : Int) : EntropyRow :=
  let n := xs.length
  if tgt = -1 then ⟨⟨0, false⟩, false, xs.map (fun _ => ⟨0, false⟩), false⟩
  else if tgt < -1 ∨ (n : Int) ≤ tgt then ⟨⟨f32NaN, false⟩, true, xs.map (fun _ => ⟨f32NaN, false⟩), true⟩
  else
    let r := softRow win k xs
    let lg := logF32 r.sum
    let loss := subF32 lg.bits (r.d.getD tgt.toNat 0)
    ⟨⟨loss.bits, r.sat || lg.sat || loss.sat⟩, true,
      (List.zip (List.range n) r.e).map (fun y =>
        let q := divF32 y.2 r.sum
        let p := if (y.1 : Int) = tgt then subF32 q.bits 0x3F800000 else ⟨q.bits, false⟩
        let d := mulF32 p.bits cg
        ⟨d.bits, r.sat || q.sat || p.sat || d.sat⟩), false⟩

/-- The loss of an operation once every row has its own (05:R137). The terms of this sum are the rows: their number is its K (log 126). -/
def meanLoss (win : Nat) (rows : List RowLoss) : F32 :=
  let n := rows.countP (fun r => r.counts)
  if n = 0 then ⟨0, false⟩ else
  let a := asum1 win rows.length (rows.map (·.loss))
  let y := divF32 a.bits (f32OfNat n)
  ⟨y.bits, a.sat || y.sat || rows.any (fun r => r.sat)⟩

/-- The losses of rows replace those that stand for the same rows. -/
def addRows (op : Nat) (es : List (Nat × EntropyRow)) (l : List RowLoss) : List RowLoss :=
  es.foldl (fun a y => a.filter (fun r => !(r.op == op && r.row == y.1)) ++ [⟨op, y.1, y.2.loss.bits, y.2.counts, y.2.loss.sat⟩]) l

/-- The rows of the operation are complete: its loss is written at the record's DST. -/
def State.writeLoss (s : State) (x : Issue) (l : Layout) : State :=
  let mine := (s.slot x.slot).losses.filter (fun r => r.op == x.op.id)
  let rows := (List.range (l.count / l.rowLen)).filterMap (fun i => mine.find? (fun r => r.row == i))
  if rows.length = l.count / l.rowLen then
    match x.operand x.op.dst (x.arg 93 72) 0 with
    | none => s
    | some o => let y := meanLoss x.op.window rows; s.writeResults x x.vecWhen o toSpad false false [⟨0, some 0, f32Val y.bits, y.sat⟩]
  else s

/-- Cross-entropy: each row's loss and gradient, and the mean loss with the last row. -/
def State.entropyRun (s : State) (k : Nat) (x : Issue) (lanesDiffer : Bool) : State :=
  let s := s.began k x
  match x.vecWork x.op.src0 (x.param 63 32) (x.arg 115 94) with
  | none => s
  | some w =>
    let l := w.dst.lay
    let rows := Issue.rows l w.ps
    match x.g.lay x.op.src1 with
    | none => s
    | some tl =>
      match x.operand x.op.src1 (x.arg 137 116) (tl.pos (rows.headD 0)) with
      | none => s
      | some t =>
        let s := s.spadRead x.key (w.s0.touches x.seat l (rowPositions l rows) ++ rows.flatMap (fun r => t.touches x.seat (tl.pos r)))
        let v := x.vecCell (s.cell x.key)
        let es := rows.map (fun r => (r, entropyRow x.op.window (x.op.km1 + 1) (BitVec.ofNat 32 (x.param 31 0)) (w.s0.rowVals x.seat v l w.first r)
          (signedOf 32 (t.bits x.seat (v (l.pos (r * l.rowLen))) (tl.pos r)))))
        let s := s.queueRead x w
        let s := s.writeResults x x.vecWhen w.dst x.dest false false (rowResults l (es.map (fun y => (y.1, y.2.dx))))
        let s := s.modSlot x.slot (fun sl => { sl with losses := addRows x.op.id es sl.losses })
        let s := if es.any (fun y => y.2.bad) then s.opEvent x.slot x.op.id 0x2004 else s
        (s.writeLoss x l).laneCheck x lanesDiffer

def execCrossEntropy (k : Nat) (lanesDiffer : Bool) (s : State) : Result :=
  match s.turn k 2 with
  | none => .next s
  | some x => if x.op.opcode = 0x0213 then .next (s.mirrored x (s.entropyRun k x lanesDiffer)) else .next s

/-! ## Drop-out and initialisation (04:R109, R110) -/

/-- One element of drop-out: threshold d, keep scale c, ALL, its word (drawn only for d ≠ 0 and not ALL). -/
def dropOne (d : Nat) (c : BitVec 32) (all : Bool) (word : Nat) (v : BitVec 32) : F32 :=
  if all then ⟨0, false⟩ else if word < d then ⟨0, false⟩ else mulF32 v c

def execDropOut (run : AuditRun) (s : State) : Result :=
  match s.turn run.k 2 with
  | none => .next s
  | some x =>
    if x.op.opcode ≠ 0x0220 then .next s else
    let s := s.began run.k x
    match x.vecWork x.op.dst x.op.dst (x.arg 93 72) with
    | none => .next s
    | some w =>
      let l := w.dst.lay
      let s := s.spadRead x.key (w.s0.touches x.seat l w.ps)
      let v := x.vecCell (s.cell x.key)
      let d := x.param 31 0
      let all := x.param 64 64 == 1
      let rs := resultsOf l w.ps (fun p e =>
        dropOne d (BitVec.ofNat 32 (x.param 63 32)) all (if d = 0 ∨ all then 0 else s.drawOf x.slot x.op.stream 2 e)
          (w.s0.value x.seat (v p) l w.first p e))
      .next (s.mirrored x (((s.queueRead x w).writeResults x x.vecWhen w.dst x.dest false false rs).laneCheck x run.differ))

/-- lo + u × span with u = (r >> 8) × 2^−24. -/
def initOne (lo span : BitVec 32) (r : Nat) : F32 :=
  addVal (mulVal (.fin false (r / 256) (-24)) (f32Val span)) (f32Val lo)

def execInitialisation (run : AuditRun) (s : State) : Result :=
  match s.turn run.k 2 with
  | none => .next s
  | some x =>
    if x.op.opcode ≠ 0x0221 then .next s else
    let s := s.began run.k x
    match x.vecWork x.op.dst x.op.dst (x.arg 93 72) with
    | none => .next s
    | some w =>
      let rs := resultsOf w.dst.lay w.ps (fun _ e =>
        initOne (BitVec.ofNat 32 (x.param 31 0)) (BitVec.ofNat 32 (x.param 63 32)) (s.drawOf x.slot x.op.stream 3 e))
      .next (s.mirrored x ((s.writeResults x x.vecWhen w.dst x.dest false false rs).laneCheck x run.differ))

/-! ## Sampling (04:R111 to R116) -/

/-- A candidate with its ranking value. -/
structure Cand where
  index : Nat
  z : Val
  q : Int
  deriving DecidableEq, Repr

/-- z descending with −0 = +0, then index ascending (R112). -/
def candLe (a b : Cand) : Bool := ltVal b.z a.z || (!ltVal a.z b.z && decide (a.index ≤ b.index))

/-- q descending, then index ascending (R114). -/
def massLe (a b : Cand) : Bool := decide (b.q < a.q) || (decide (a.q = b.q) && decide (a.index ≤ b.index))

/-- The first candidates whose sum of q reaches a bound. -/
def takeMass (tau : Int) : Int → List Cand → List Cand
  | _, [] => []
  | c, a :: t => if tau ≤ c + a.q then [a] else a :: takeMass tau (c + a.q) t

/-- The first candidate whose cumulative sum exceeds t. -/
def pick (t : Int) : Int → List Cand → Nat
  | _, [] => 0
  | c, a :: l => if t < c + a.q then a.index else pick t (c + a.q) l

/-- ceil(p × S). -/
def ceilMass (p : Val) (total : Int) : Int :=
  match p with
  | .fin _ m e => let n := m * total.toNat; if 0 ≤ e then (n * 2 ^ e.toNat : Nat) else (ceilDiv n (2 ^ (-e).toNat) : Nat)
  | _ => total

/-- The sampler on one sequence: logits, temperature, top-k, top-p, the word. The answer is the index or −1 (R112 to R116). -/
def sampleOne (logits : List (BitVec 32)) (temp : BitVec 32) (k : Int) (p : BitVec 32) (word : Nat) : Int :=
  let one : Val := .fin false 1 0
  let zero : Val := .fin false 0 0
  let finite (v : Val) : Bool := match v with | .fin .. => true | _ => false
  let tv := f32Val temp
  let pv := f32Val p
  if !finite tv || !ltVal zero tv || decide (k < 0) || pv == .nan || !ltVal zero pv || ltVal one pv then -1
  else if logits.any isNaN32 then -1
  else
    let zs := (List.zip (List.range logits.length) logits).map (fun y => (⟨y.1, f32Val (divF32 y.2 temp).bits, 0⟩ : Cand))
    match zs.find? (fun c => c.z == .inf false) with
    | some c => (c.index : Int)
    | none =>
      let ranked := sortBy candLe zs
      let kept := if k = 0 ∨ (logits.length : Int) ≤ k then ranked else ranked.take k.toNat
      if kept.all (fun c => c.z == .inf true) then -1
      else
        -- the first of the ranked candidates has the largest z
        let m := (divF32 (logits.getD (kept.headD ⟨0, .nan, 0⟩).index 0) temp).bits
        let es := kept.map (fun c => (c, (expF32 (subF32 (divF32 (logits.getD c.index 0) temp).bits m).bits).bits))
        let s := surveyMax (es.map (fun y => surveyByte 0x11 0 y.2.toNat))
        let a := anchor1 0x11 s kept.length
        let qs := es.map (fun y => { y.1 with q := (termAcc (f32Val y.2) a 62).q })
        let total := (qs.map (·.q)).foldl (· + ·) 0
        let top := takeMass (ceilMass pv total) 0 (sortBy massLe qs)
        let cn := (top.map (·.q)).foldl (· + ·) 0
        if top.length = 1 then ((top.headD ⟨0, .nan, 0⟩).index : Int)
        else (pick (word * cn / 2 ^ 32) 0 top : Int)

def execSampling (run : AuditRun) (s : State) : Result :=
  match s.turn run.k 2 with
  | none => .next s
  | some x =>
    if x.op.opcode ≠ 0x0230 then .next s else
    let s := s.began run.k x
    match x.g.lay x.op.src0, x.g.lay x.op.src1, x.g.lay x.op.dst with
    | some l, some pl, some dl =>
      let ps := x.positions l
      let seqs := Issue.rows l ps
      let s0 := x.src l 0 x.op.src0 (x.arg 159 138) x.vecFirst
      match x.operand x.op.src1 (x.arg 137 116) (pl.pos (3 * seqs.headD 0)), x.operand x.op.dst (x.arg 93 72) (dl.pos (seqs.headD 0)) with
      | some q, some o =>
        let s := s.spadRead x.key (s0.touches x.seat l (rowPositions l seqs) ++
          seqs.flatMap (fun r => (List.range 3).flatMap (fun i => q.touches x.seat (pl.pos (3 * r + i)))))
        let v := x.vecCell (s.cell x.key)
        let par (r i : Nat) : Nat := q.bits x.seat (v (l.pos (r * l.rowLen))) (pl.pos (3 * r + i))
        let pos := x.param 31 0
        let out := seqs.map (fun r => (r, sampleOne (s0.rowVals x.seat v l x.vecFirst r) (BitVec.ofNat 32 (par r 0)) (signedOf 32 (par r 1))
          (BitVec.ofNat 32 (par r 2)) (s.drawOf x.slot x.op.stream 4 (r * 2 ^ 32 + pos))))
        let t := s.writeResults x x.vecWhen o x.dest false false (out.map (fun y => ⟨dl.pos y.1, some y.1, .ofInt y.2 0, false⟩))
        .next (s.mirrored x ((out.foldl (fun s y => if y.2 = -1 then s.samplerEvent x.slot x.op.id y.1 pos else s) t).laneCheck x run.differ))
      | _, _ => .next s
    | _, _, _ => .next s

/-! ## Routing (04:R117 to R119) -/

/-- A score before another: value descending, NaN last, then index ascending. -/
def scoreLe (a b : Val × Nat) : Bool :=
  if a.1 = .nan then decide (b.1 = .nan) && decide (a.2 ≤ b.2)
  else if b.1 = .nan then true
  else ltVal b.1 a.1 || (!ltVal a.1 b.1 && decide (a.2 ≤ b.2))

/-- The experts that a token chooses, in order. -/
def chosen (scores : List Val) (n : Nat) : List Nat :=
  ((sortBy scoreLe (List.zip scores (List.range scores.length))).take n).map (·.2)

/-- The tokens that an expert keeps, in ascending order (R118). -/
def keptTokens (score : Nat → Nat → Val) (choice : List (List Nat)) (cap e : Nat) : List Nat :=
  let ts := (List.range choice.length).filter (fun t => (choice.getD t []).contains e)
  sortBy (fun a b => decide (a ≤ b)) (((sortBy scoreLe (ts.map (fun t => (score t e, t)))).take cap).map (·.2))

/-- A routing record (04:R117, R118; out-of-range parameters and parts: log entries 136, 137). -/
def execRouting (run : AuditRun) (s : State) : Result :=
  match s.turn run.k 2 with
  | none => .next s
  | some x =>
    if x.op.opcode ≠ 0x0231 then .next s else
    let s := s.began run.k x
    match x.g.lay x.op.src0, x.g.lay x.op.dst, x.g.lay (x.param 31 0) with
    | some l, some cl, some sl =>
      let ps := x.positions l
      let here := Issue.rows l ps
      let tokens := l.dims.getD 0 0
      let n := x.param 63 32
      let cr := x.param 95 64
      let cap := x.param 127 96
      match x.src l 0 x.op.src0 (x.arg 159 138) x.vecFirst, x.operand x.op.dst (x.arg 93 72) (cl.pos (here.headD 0 * cr)),
          x.operand (x.param 31 0) (x.arg 137 116) 0 with
      | s0, some co, some so =>
        let s := s.spadRead x.key (s0.touches x.seat l (rowPositions l (List.range tokens)))
        let v := x.vecCell (s.cell x.key)
        let score (t e : Nat) : Val := f32Val (s0.value x.seat (v (l.pos (t * n + e))) l x.vecFirst (l.pos (t * n + e)) (t * n + e))
        let choice := (List.range tokens).map (fun t => chosen ((List.range n).map (score t)) cr)
        let kept := (List.range n).map (keptTokens score choice cap)
        let slotAt (e i : Nat) : Int := match (kept.getD e [])[i]? with | some t => (t : Int) | none => -1
        let entry (t j : Nat) : Int :=
          let e := (choice.getD t []).getD j 0
          match (kept.getD e []).findIdx? (fun u => u == t) with
          | some i => (e * cap + i : Nat)
          | none => -1
        let cs := here.flatMap (fun t => (List.range cr).map (fun j => (⟨cl.pos (t * cr + j), some (t * cr + j), .ofInt (entry t j) 0, false⟩ : Res)))
        let ss := (List.range n).flatMap (fun e => (List.range cap).map (fun i => (⟨sl.pos (e * cap + i), some (e * cap + i), .ofInt (slotAt e i) 0, false⟩ : Res)))
        .next (s.mirrored x (((s.writeResults x x.vecWhen co x.dest false false cs).writeResults x x.vecWhen so { x.dest with feed := false } false false ss).laneCheck x run.differ))
      | _, _, _ => .next s
    | _, _, _ => .next s

/-! ## The optimizer update (05:R146 to R148) -/

/-- Is the weight held in split mode (05:R146)? -/
def State.splitWeight (s : State) (x : Issue) : Option TensorRec :=
  if (s.slot x.slot).wmode then x.g.skimOf x.op.dst else none

/-- The new master weight split into body and skim. -/
def splitPuts (ps : List Res) (bits32 : Nat → BitVec 32) : List Put × List Put :=
  (ps.map (fun r => ⟨r.p, r.e, 0, (bits32 r.p).toNat / 2 ^ 16, r.sat⟩), ps.map (fun r => ⟨r.p, r.e, 0, (bits32 r.p).toNat % 2 ^ 16, false⟩))

/-- The uses of the ports for the skim words, which the image does not fix: they are read and written in split mode alone. -/
def Issue.noteSkim (x : Issue) (so : Operand) (ps : List Nat) (c : Cell) : Cell :=
  (c.notePorts 2 x.g.compat false (so.landings x.seat x.vecRead (ps.map (fun p => ⟨p, none, 0, 0, false⟩)))).notePorts 2 x.g.compat true
    (so.landings x.seat x.vecWrite (ps.map (fun p => ⟨p, none, 0, 0, false⟩)))

def State.updateRun (s : State) (k : Nat) (x : Issue) (lanesDiffer : Bool) : State :=
  let s := s.began k x
  match x.vecWork x.op.dst x.op.dst (x.arg 93 72) with
  | none => s
  | some w =>
    let l := w.dst.lay
    let steps := chainSteps x.op.params.toNat
    match s.splitWeight x with
    | some sk =>
      let so : Operand := ⟨sk.id, sk.kind, l, Config.skimBase sk.id w.dst.vbase, 0⟩
      let s := s.spadRead x.key (w.touches x.seat l ++ (Src.spad w.dst).touches x.seat l w.ps ++ (Src.spad so).touches x.seat l w.ps)
      let v := x.vecCellOf (fun g => (w.ps.filter (fun p => x.vecGroup p == g)).flatMap (so.touches x.seat)) (s.cell x.key)
      let s := s.modCell x.key (x.noteSkim so w.ps)
      let m (p : Nat) : BitVec 32 := BitVec.ofNat 32 (w.dst.bits x.seat (v p) p * 2 ^ 16 + so.bits x.seat (v p) p)
      let run (p e : Nat) : F32 := runChain steps (w.select x (v p) l p e) (m p)
      let rs := resultsOf l w.ps run
      let ys := w.ps.map (fun p => (p, match l.posIndex p with | some e => (run p e).bits | none => 0))
      let z := splitPuts rs (fun p => ((ys.find? (fun y => y.1 == p)).map (·.2)).getD 0)
      (((s.queueRead x w).putResults x x.vecWhen w.dst x.dest z.1).putResults x x.vecWhen so { x.dest with feed := false } z.2).laneCheck x lanesDiffer
    | none =>
      let s := s.spadRead x.key (w.touches x.seat l ++ (Src.spad w.dst).touches x.seat l w.ps)
      let v := x.vecCell (s.cell x.key)
      let rs := resultsOf l w.ps (fun p e => runChain steps (w.select x (v p) l p e) (w.dst.f32 x.seat (v p) p))
      ((s.queueRead x w).writeResults x x.vecWhen w.dst x.dest false (w.dst.kind == 0) rs).laneCheck x lanesDiffer

def execOptimizerUpdate (k : Nat) (lanesDiffer : Bool) (s : State) : Result :=
  match s.turn k 2 with
  | none => .next s
  | some x => if x.op.opcode = 0x0240 then .next (s.mirrored x (s.updateRun k x lanesDiffer)) else .next s

/-! ## Conversions (03:R77, R78) -/

/-- The anchor of an element of an anchored tensor: the region's (02:R60), or its survey record (02:R58); a free value where the module keeps none. -/
def State.anchorOf (s : State) (n : Nat) (g : Image) (tensor e : Nat) : Int :=
  match g.region tensor with
  | some r => if isAncFmt r.cellType then r.anchor else 0
  | none => (sget none (s.slot n).anchors (tensor * 2 ^ 64 + e)).getD (Config.unknownAnchor (tensor * 2 ^ 64 + e))

def execConversion (run : AuditRun) (s : State) : Result :=
  match s.turn run.k 2 with
  | none => .next s
  | some x =>
    if x.op.opcode ≠ 0x0500 then .next s else
    let s := s.began run.k x
    match x.vecWork x.op.dst x.op.dst (x.arg 93 72) with
    | none => .next s
    | some w =>
      let l := w.dst.lay
      let s := s.spadRead x.key (w.s0.touches x.seat l w.ps)
      let v := x.vecCell (s.cell x.key)
      let anc := (x.g.lay x.op.src0).any (fun m => isAncFmt m.format)
      let rs := w.ps.map (fun p => (match l.posIndex p with
        | none => ⟨p, none, .nan, false⟩
        | some e => ⟨p, some e, (match w.s0.place l p e with
            | some (o, q) => o.val x.seat (v p) q (if anc then s.anchorOf x.slot x.g x.op.src0 e else 0)
            | none => f32Val (w.s0.value x.seat (v p) l w.first p e)), false⟩ : Res))
      .next (s.mirrored x (((s.queueRead x w).writeResults x x.vecWhen w.dst x.dest anc false rs).laneCheck x run.differ))

end Sys2Proof.Machine
end

