-- ==== Sys2Proof/Machine/Reduction.lean ====
section
/-! DEFINITION. The reduction unit (05:R138, R139): terms into anchored accumulators, and the close of an output. -/

namespace Sys2Proof.Machine

open Sys2Proof

/-- Coordinates without dimension d. -/
def dropDim (cs : List Nat) (d : Nat) : List Nat := cs.eraseIdx d

/-- One term of a reduction record: its lane in its group, its output, its value, its survey byte. -/
structure Term where
  lane : Nat
  out : Nat
  val : Val
  byte : Nat
  deriving DecidableEq, Repr

def redGroups (r : IRec) : Nat := bits r.args.toNat 105 86

/-- The first position that a reduction record reads. -/
def Issue.redFirst (x : Issue) : Nat := 128 * partStart x redGroups

/-! ## Timing and ports (05:Table 5.4; 06:R160) -/

/-- The tick at which a record takes in a position: one group of 128 per tick. -/
def Issue.redRead (x : Issue) (p : Nat) : Nat := x.start + (p - x.redFirst) / 128

/-- The tick at which a closing record writes its outputs: 4 ticks for the last group to its accumulator, 8 for the close. -/
def Issue.redWrite (x : Issue) : Nat := x.start + (redGroups x.rc - 1) + 12

/-- The places that a record reads for one group. -/
def Issue.redPlaces (x : Issue) (c : Cell) (o : Operand) (g : Nat) : List Nat :=
  if c.feedTensor = o.tensor ∧ o.tensor ≠ 0 then [] else
  (List.range 128).flatMap (fun i =>
    let p := x.redFirst + 128 * g + i
    if p < o.lay.positions then o.touches x.seat p else [])

/-- The uses of the engines of higher priority in a tick. -/
def Issue.aboveReduction (x : Issue) (c : Cell) (write : Bool) (τ : Nat) : List Nat :=
  c.usesOf 2 write τ ++ (x.mates 1).flatMap (fun y => y.matrixPorts write τ) ++ (x.mates 2).flatMap (fun y => y.vectorPorts write τ)

/-- The cell as a reduction record reads a position. -/
def Issue.redCell (x : Issue) (c : Cell) (o : Operand) (p : Nat) : Cell :=
  if c.landed.isEmpty && (x.mates 1).isEmpty && (x.mates 2).isEmpty then c
  else c.seen x.g.compat (x.redRead p) (x.aboveReduction c false (x.redRead p)) (x.redPlaces c o ((p - x.redFirst) / 128))

/-- When a closing record's outputs are written. -/
def Issue.redWhen (x : Issue) : When := ⟨fun _ => x.redWrite, fun τ => x.vecWhen.above τ ++ (x.mates 2).flatMap (fun y => y.vectorPorts true τ)⟩

/-! ## Terms -/

/-- The element at a position of the source: what a vector chain has passed to the unit, or the scratchpad (05:R138). -/
def Issue.redElement (x : Issue) (c : Cell) (o : Operand) (p : Nat) : Nat × Nat :=
  if c.feedTensor = o.tensor ∧ o.tensor ≠ 0 then
    let v := (sget 0 c.feed p).toNat
    (v / 2 ^ 64, v % 2 ^ 64)
  else let c := x.redCell c o p; (o.scale x.seat c p, o.bits x.seat c p)

/-- The terms of a record in order. -/
def Issue.redTerms (x : Issue) (c : Cell) (o : Operand) : List Term :=
  let l := o.lay
  let d := x.param 2 0
  let odims := dropDim l.dims d
  (List.range (128 * redGroups x.rc)).filterMap (fun i =>
    let p := x.redFirst + i
    if p < l.positions then
      (l.posIndex p).map (fun _ =>
        let cs := l.posCoords p
        let e := x.redElement c o p
        ⟨i % 128, indexOf odims (dropDim cs d), decodeVal l.format e.1 e.2 0, surveyByte l.format e.1 e.2⟩)
    else none)

/-- The addresses that a record reads from the scratchpad. -/
def Issue.redTouches (x : Issue) (c : Cell) (o : Operand) : List Nat :=
  if c.feedTensor = o.tensor ∧ o.tensor ≠ 0 then [] else
  (List.range (128 * redGroups x.rc)).flatMap (fun i =>
    let p := x.redFirst + i
    if p < o.lay.positions then o.touches x.seat p else [])

/-- The accumulators of a record with their outputs: in across mode the outputs in order of appearance from the first accumulator on, in lanewise mode those of the lanes (log entry 20). -/
def Issue.redSeats (x : Issue) (ts : List Term) : List (Nat × Nat) :=
  if x.arg 115 115 = 1 then
    ((ts.map (·.lane)).eraseDups).filterMap (fun ln => (ts.find? (fun t => t.lane == ln)).map (fun t => (ln, t.out)))
  else
    let outs := (ts.map (·.out)).eraseDups
    (List.zip (List.range outs.length) outs).map (fun y => ((x.arg 113 107 + y.1) % 128, y.2))

/-- The anchor of an accumulator with a survey in use (02:R44). -/
def Issue.redAnchor (x : Issue) (f s : Nat) : Int :=
  if x.arg 114 114 = 1 then anchor2 f s s (x.op.km1 + 1) else anchor1 f s (x.op.km1 + 1)

/-- The terms of one output that a survey pass covers when no byte is supplied (05:R139): those of every record of the operation in the cell's pound, which together are what the cell adds along the reduced axis. -/
def Issue.axisTerms (x : Issue) (c : Cell) (out : Nat) : List Term :=
  ((x.mates 3).filter (fun y => y.op.id == x.op.id)).flatMap (fun y => match y.operand y.op.src0 (y.arg 159 138) y.redFirst with
    | none => []
    | some o => (y.redTerms c o).filter (fun t => t.out == out))

/-- An accumulator that is not open takes its survey and its output. -/
def Cell.openAcc (c : Cell) (a out : Nat) (survey : Nat) : Cell :=
  if sget 0 c.rout a = out + 1 then c else
  { c with
    rout := sset 0 c.rout a (out + 1)
    rsurvey := sset 0 c.rsurvey a (BitVec.ofNat 8 survey)
    racc := sset Acc.zero c.racc a Acc.zero }

/-- The terms of one accumulator are added; a factor above the survey in use makes the output NaN (05:R125). The answer counts such factors. -/
def Issue.redAdd (x : Issue) (f : Nat) (ts : List Term) (a : Nat) (c : Cell) : Cell × Nat :=
  let s := (sget 0 c.rsurvey a).toNat
  let w := ancWindow x.op.window
  let v (t : Term) : Val := if x.arg 114 114 = 1 then mulVal t.val t.val else t.val
  let sum := (sumTerms (ts.map v) (x.redAnchor f s) w).combine (sget Acc.zero c.racc a)
  let excess := ts.countP (fun t => aboveSurvey t.byte s)
  ({ c with racc := sset Acc.zero c.racc a (if excess = 0 then sum else .nan) }, excess)

/-- A reduction record feeds its terms (05:R138). -/
def State.reductionRun (s : State) (k : Nat) (x : Issue) (surveys : List Byte) : State :=
  let s := s.began k x
  match x.operand x.op.src0 (x.arg 159 138) x.redFirst with
  | none => s
  | some o =>
    let s := s.spadRead x.key (x.redTouches (s.cell x.key) o)
    let ts := x.redTerms (s.cell x.key) o
    let seats := x.redSeats ts
    let mine (y : Nat × Nat) : List Term := ts.filter (fun t => if x.arg 115 115 = 1 then t.lane == y.1 else t.out == y.2)
    let r := (List.zip (List.range seats.length) seats).foldl (fun (a : Cell × Nat) y =>
      let sv := match surveys[y.1]? with
        | some b => b.toNat
        | none => if a.1.inOp = x.op.id ∧ a.1.inRows ≠ [] then (a.1.inRows.getD y.2.2 0).toNat else surveyMax ((x.axisTerms (s.cell x.key) y.2.2).map (·.byte))
      let z := x.redAdd o.lay.format (mine y.2) y.2.1 (a.1.openAcc y.2.1 y.2.2 sv)
      (z.1, a.2 + z.2)) (s.cell x.key, 0)
    let s := s.setCell x.key { r.1 with surveyErr := r.1.surveyErr + BitVec.ofNat 64 r.2 }
    s.postTimes r.2 0x5001 (srcDie x.bind.die) (some x.slot) (payload [(0, 4, x.op.id), (4, 1, x.bind.die), (5, 1, x.bind.cell)])

def execReduction (k : Nat) (surveys : List Byte) (s : State) : Result :=
  match s.turn k 3 with
  | none => .next s
  | some x => .next (s.mirrored x (s.reductionRun k x surveys))

/-- The open accumulators that a closing record names: those of its terms, or from the first accumulator on where it has none. -/
def Issue.closing (x : Issue) (c : Cell) (o : Operand) : List (Nat × Nat) :=
  let l := (x.redSeats (x.redTerms c o)).filter (fun y => sget 0 c.rout y.1 == y.2 + 1)
  if redGroups x.rc = 0 then
    (List.range 128).filterMap (fun a => if sget 0 c.rout a = 0 then none else some (a, sget 0 c.rout a - 1))
  else l

/-- A closed output: converted once into the destination (02:R54), or written as a partial (02:R52). -/
def State.closeRun (s : State) (x : Issue) : State :=
  match x.operand x.op.src0 (x.arg 159 138) x.redFirst, x.g.lay x.op.dst with
  | some o, some l =>
    let c := s.cell x.key
    let outs := sortBy (fun a b => decide (l.pos a.2 ≤ l.pos b.2)) (x.closing c o)
    match x.operand x.op.dst (x.arg 137 116) (l.pos ((x.closing c o).headD (0, 0)).2) with
    | none => s
    | some d =>
      let f := o.lay.format
      let w := ancWindow x.op.window
      let anchor (a : Nat) : Int := x.redAnchor f (sget 0 c.rsurvey a).toNat
      let sum (a : Nat) : Acc := sget Acc.zero c.racc a
      let cleared (c : Cell) : Cell := outs.foldl (fun c y =>
        { c with racc := sset Acc.zero c.racc y.1 Acc.zero, rsurvey := sset 0 c.rsurvey y.1 0, rout := sset 0 c.rout y.1 0 }) c
      let s := s.modCell x.key cleared
      if isAncFmt l.format then
        let s := s.modSlot x.slot (fun sl => { sl with anchors := outs.foldl (fun m y => sset none m (x.op.dst * 2 ^ 64 + y.2) (some (anchor y.1))) sl.anchors })
        s.putResults x x.redWhen d toSpad (outs.map (fun y => ⟨l.pos y.2, some y.2, 0, (sum y.1).pattern x.op.window, false⟩))
      else s.writeResults x x.redWhen d toSpad true false (outs.map (fun y => ⟨l.pos y.2, some y.2, (sum y.1).val (anchor y.1) w, false⟩))
  | _, _ => s

def execReductionClose (r : AuditRun) (s : State) : Result :=
  match s.issueOf r.k 3 with
  | none => .next s
  | some x => if x.arg 106 106 = 1 ∧ (s.slot x.slot).doneRecs.contains r.k then .next (s.mirrored x ((s.closeRun x).laneCheck x r.differ)) else .next s

end Sys2Proof.Machine
end

