-- ==== Sys2Proof/Machine/Copies.lean ====
section
/-! DEFINITION. Layout copies, gathers and scatters (06:R161 to R172, R436): within the scratchpad on the layout-copy engine, to and from device memory on a DMA channel. -/

namespace Sys2Proof.Machine

open Sys2Proof

/-! ## Refusals at issue -/

/-- A record is refused at issue (06:R163, R168): event 0x1008, the context faults at its next sill. -/
def State.refuseIssue (s : State) (x : Issue) (why chan descr : Nat) : State :=
  (s.post 0x1008 (srcDie x.bind.die) (some x.slot)
    (payload [(0, 4, x.op.id), (4, 4, x.rc.part), (8, 1, why), (9, 1, x.bind.die), (10, 1, x.bind.cell), (11, 1, chan), (12, 2, descr)])).faultAtSill x.slot

/-- The last put of each position stands (06:R169). -/
def lastPuts : List Put → List Put
  | [] => []
  | y :: t => if t.any (fun z => z.p == y.p) then lastPuts t else y :: lastPuts t

/-- The survey records of anchored words move with them (02:R58): destination and source logical indices. A filled element keeps the anchor that the destination's record gives its position. -/
def State.moveAnchorsOf (s : State) (n : Nat) (g : Image) (src dst : Nat) (l : Layout) (es : List (Nat × Option Nat)) : State :=
  if isAncFmt l.format then
    let move (m : Sparse (Option Int)) (e : Nat × Option Nat) : Sparse (Option Int) := match e.2 with
      | some i => sset none m (dst * 2 ^ 64 + e.1) (some (s.anchorOf n g src i))
      | none => m
    s.modSlot n (fun sl => { sl with anchors := es.foldl move sl.anchors })
  else s

def State.moveAnchors (s : State) (x : Issue) (src dst : Nat) (l : Layout) (es : List (Nat × Option Nat)) : State := s.moveAnchorsOf x.slot x.g src dst l es

/-! ## Timing and ports (06:Table 6.5; 06:R160) -/

/-- The lowest channel with the largest credit. -/
def bestChannel (cur : List Int) : Nat :=
  (List.range 8).foldl (fun b i => if cur.getD b 0 < cur.getD i 0 then i else b) 0

/-- The slot pattern of the weights (10:R275). -/
def patternFrom (wt : List Nat) : Nat → List Int → List Nat
  | 0, _ => []
  | n + 1, cur =>
    let c := (List.range 8).map (fun i => cur.getD i 0 + (wt.getD i 0 : Int))
    let b := bestChannel c
    b :: patternFrom wt n (c.set b (c.getD b 0 - 16))

def pattern (wt : List Nat) : List Nat := patternFrom wt 16 (List.replicate 8 0)

/-- The n-th burst slot of a channel at or after slot number q of a phase (10:R275): slot q stands at tick 8q. -/
def nthSlot (pat : List Nat) (ch : Nat) : Nat → Nat → Nat → Nat
  | 0, q, _ => q
  | fuel + 1, q, n =>
    if pat.getD (q % 16) 0 = ch then (if n = 0 then q else nthSlot pat ch fuel (q + 1) (n - 1)) else nthSlot pat ch fuel (q + 1) n

/-- The places that a reduction record reads, or a closing one writes, in a tick. -/
def Issue.reductionPorts (x : Issue) (c : Cell) (write : Bool) (τ : Nat) : List Nat :=
  match x.operand x.op.src0 (x.arg 159 138) x.redFirst, x.g.lay x.op.dst with
  | some o, some l =>
    if write then
      if x.arg 106 106 = 1 ∧ τ = x.redWrite then
        let outs := (x.redSeats (x.redTerms c o)).map (·.2)
        match x.operand x.op.dst (x.arg 137 116) (l.pos (outs.headD 0)) with
        | some d => outs.flatMap (fun e => d.touches x.seat (l.pos e))
        | none => []
      else []
    else if x.start ≤ τ ∧ τ < x.start + redGroups x.rc then x.redPlaces c o (τ - x.start) else []
  | _, _ => []

/-- The uses of the engines above the layout-copy engine in a tick. -/
def Issue.aboveCopy (x : Issue) (c : Cell) (write : Bool) (τ : Nat) : List Nat :=
  x.aboveReduction c write τ ++ (x.mates 3).flatMap (fun y => y.reductionPorts c write τ)

/-- The cell as the layout-copy engine reads it at tick τ, where `mine τ` are the places that the record reads in that tick. -/
def Issue.copyCell (x : Issue) (c : Cell) (mine : Nat → List Nat) (τ : Nat) : Cell :=
  if c.landed.isEmpty && [1, 2, 3].all (fun e => (x.mates e).isEmpty) then c
  else c.seen x.g.compat τ (x.aboveCopy c false τ) (mine τ)

/-! ## Layout copies (06:R161 to R163, R436) -/

/-- P(k): the source dimension of destination dimension k. -/
def permOf (params k : Nat) : Nat := if bits params 17 0 = 0 then k else bits params (3 * k + 2) (3 * k)

/-- A copy as its record declares it. -/
structure CopyPlan where
  so : Operand
  dst : Operand
  first : Nat
  count : Nat
  origin : List Int
  dyn : Bool
  deriving DecidableEq, Repr

/-- The source coordinates of a destination coordinate. -/
def CopyPlan.source (c : CopyPlan) (params : Nat) (cs : List Nat) : List Int :=
  (List.range c.so.lay.rank).map (fun d =>
    let k := ((List.range c.dst.lay.rank).find? (fun k => permOf params k == d)).getD d
    (cs.getD k 0 : Int) + c.origin.getD d 0)

/-- Coordinates inside a shape. -/
def insideShape (dims : List Nat) (cs : List Int) : Option (List Nat) :=
  if (List.range dims.length).all (fun k => decide (0 ≤ cs.getD k 0 ∧ cs.getD k 0 < (dims.getD k 0 : Nat))) then
    some (cs.map Int.toNat) else none

/-- The destination positions of a copy's part. -/
def CopyPlan.positions (c : CopyPlan) : List Nat :=
  (List.range c.count).filterMap (fun i => if c.first + i < c.dst.lay.positions then some (c.first + i) else none)

/-- The span of addresses, if any. -/
def span (l : List Nat) : Option (Nat × Nat) :=
  match l with
  | [] => none
  | a :: t => some (t.foldl min a, t.foldl max a)

def overlaps (a b : Option (Nat × Nat)) : Bool :=
  match a, b with
  | some x, some y => decide (x.1 ≤ y.2 ∧ y.1 ≤ x.2)
  | _, _ => false

/-- Do two layouts agree in every field of 06:R159? -/
def sameShape (a b : Layout) : Bool :=
  a.rank == b.rank && a.dims == b.dims && a.tileLog2 == b.tileLog2 && a.tstride == b.tstride && a.order == b.order

/-- The plan of a copy record; the origins come from PARAMS or, with DYN, from SRC1 (06:R162). -/
def Issue.copyPlan (x : Issue) (c : Cell) : Option CopyPlan :=
  match x.operand x.op.src0 (x.arg 159 138) 0, x.operand x.op.dst (x.arg 137 116) (x.arg 93 62) with
  | some so, some dst =>
    let dyn := x.param 18 18 == 1
    let fixed := (List.range so.lay.rank).map (fun k => signedOf 32 (x.param (32 * k + 95) (32 * k + 64)))
    let read := match x.operand x.op.src1 (x.arg 115 94) 0 with
      | some o => (List.range so.lay.rank).map (fun k => signedOf 32 (o.bits x.seat c (o.lay.pos k)))
      | none => []
    some ⟨so, dst, x.arg 93 62, x.arg 61 42, if dyn then read else fixed, dyn⟩
  | _, _ => none

/-- The addresses that a copy reads and those that it writes, scale bytes included. -/
def CopyPlan.reads (c : CopyPlan) (t : Seat) (params : Nat) : List Nat :=
  c.positions.flatMap (fun p => match c.dst.lay.posIndex p with
    | none => []
    | some _ => match insideShape c.so.lay.dims (c.source params (c.dst.lay.posCoords p)) with
      | some cs => c.so.touches t (c.so.lay.posOf cs)
      | none => [])

/-- The bytes of a position before swizzle (06:R163), its scale byte included. -/
def Operand.plainBytes (o : Operand) (p : Nat) : List Int :=
  (List.range (o.lay.spanBytes p)).map (fun i => o.vbase + ((o.lay.byteOf p).1 + i : Nat)) ++
  (if isBlockFmt o.lay.format then [if o.lay.interleaved then o.vbase + (o.lay.interScale p : Nat) else o.sbase + (p / 32 : Nat)] else [])

/-- The source position of each element that a copy reads inside its source. -/
def CopyPlan.sources (c : CopyPlan) (params : Nat) : List Nat :=
  c.positions.filterMap (fun p => match c.dst.lay.posIndex p with
    | none => none
    | some _ => (insideShape c.so.lay.dims (c.source params (c.dst.lay.posCoords p))).map c.so.lay.posOf)

/-- Do the byte ranges overlap in a copy that is not a forward move (06:R163)? -/
def CopyPlan.clashes (c : CopyPlan) (t : Seat) (params : Nat) : Bool :=
  let l := c.so.lay
  let forward := bits params 17 0 == 0 && l.format == c.dst.lay.format && sameShape l c.dst.lay && decide (c.dst.vbase < c.so.vbase)
  overlaps (span ((c.sources params).flatMap (fun q => (c.so.plainBytes q).map t.addr))) (span (c.positions.flatMap (fun p => (c.dst.plainBytes p).map t.addr))) && !forward

/-- Does a window read beyond the logical cell's scratchpad space (07:R197), with an element or with a scale byte? -/
def CopyPlan.beyond (c : CopyPlan) (t : Seat) (params : Nat) : Bool :=
  (c.sources params).any (fun q => (c.so.plainBytes q).any (fun a => decide (a < 0 ∨ (t.space : Int) ≤ a)))

/-- Is a copy whose values were computed at issue refused (06:R163, R436; 07:R197)? -/
def CopyPlan.refused (c : CopyPlan) (t : Seat) (params : Nat) : Bool :=
  let l := c.so.lay
  let block := isBlockFmt l.format && l.format == c.dst.lay.format
  c.dyn && ((block && decide (c.origin.getD l.blockAxis 0 % 32 ≠ 0)) || c.clashes t params || c.beyond t params)

/-- The scale byte of a destination block in a copy without change of format (06:R436): that of its source block, or the fill's. -/
def CopyPlan.blockScale (c : CopyPlan) (t : Seat) (cell : Cell) (params p : Nat) : Nat :=
  if !c.dst.lay.blockLive (p / 32) then 0 else
  match insideShape c.so.lay.dims (c.source params (c.dst.lay.posCoords (p / 32 * 32))) with
  | some cs => c.so.scale t cell (c.so.lay.posOf cs)
  | none => c.so.lay.fillElem.2

/-- The source element of a destination position: its logical index if it lies inside the source. -/
def CopyPlan.srcIndex (c : CopyPlan) (params p : Nat) : Option Nat :=
  (insideShape c.so.lay.dims (c.source params (c.dst.lay.posCoords p))).map (indexOf c.so.lay.dims)

/-- A copy without change of format moves encodings unchanged (03:R83). -/
def CopyPlan.moves (c : CopyPlan) (t : Seat) (v : Nat → Cell) (params : Nat) : List Put :=
  c.positions.map (fun p =>
    let sc := if isBlockFmt c.dst.lay.format then c.blockScale t (v p) params p else 0
    match c.dst.lay.posIndex p with
    | none => ⟨p, none, sc, 0, false⟩
    | some e => match c.srcIndex params p with
      | some i => ⟨p, some e, sc, c.so.bits t (v p) (c.so.lay.pos i), false⟩
      | none => ⟨p, some e, sc, c.so.lay.fillElem.1, false⟩)

/-- The bytes of n elements in storage, scales included. -/
def storedBytes (l : Layout) (n : Nat) : Nat :=
  if isBlockFmt l.format then ceilDiv n 32 * (fieldBytes l.format + 1) else n * (fmtBits l.format / 8)

/-- The ticks of the copy of n elements (06:R164), and the ticks from its issue to its first write. -/
def copyTicks (so dst : Layout) (n : Nat) : Nat :=
  let move := ceilDiv (max (storedBytes so n) (storedBytes dst n)) 256
  if so.format = dst.format then move else max move (ceilDiv n 128)
def copyLead (so dst : Layout) : Nat := if so.format ≠ dst.format ∧ isBlockFmt dst.format = true then 72 else 40

/-- The tick of a copy, counted from its issue, in which it reads for a destination position (log entry 124: an even rate). -/
def CopyPlan.tick (c : CopyPlan) (p : Nat) : Nat := (p - c.first) * copyTicks c.so.lay c.dst.lay c.count / max 1 c.count

/-- The places that a copy reads in a tick. -/
def CopyPlan.placesAt (c : CopyPlan) (t : Seat) (params start τ : Nat) : List Nat :=
  (c.positions.filter (fun p => start + c.tick p == τ)).flatMap (fun p =>
    match insideShape c.so.lay.dims (c.source params (c.dst.lay.posCoords p)) with
    | some cs => c.so.touches t (c.so.lay.posOf cs)
    | none => [])

/-- The cell as a copy reads for a destination position. -/
def Issue.copyView (x : Issue) (c : CopyPlan) (cell : Cell) (p : Nat) : Cell :=
  x.copyCell cell (c.placesAt x.seat x.op.params.toNat x.start) (x.start + c.tick p)

/-- When a copy's results are written. -/
def Issue.copyWhen (x : Issue) (c : CopyPlan) (cell : Cell) : When :=
  ⟨fun p => x.start + copyLead c.so.lay c.dst.lay + c.tick p, x.aboveCopy cell true⟩

/-- The uses of a copy's ports. -/
def CopyPlan.note (c : CopyPlan) (x : Issue) (cell : Cell) : Cell :=
  let wn := x.copyWhen c cell
  (cell.notePorts 4 x.g.compat false (c.positions.flatMap (fun p => match insideShape c.so.lay.dims (c.source x.op.params.toNat (c.dst.lay.posCoords p)) with
      | some cs => (c.so.touches x.seat (c.so.lay.posOf cs)).map (fun a => (x.start + c.tick p, a))
      | none => []))).notePorts 4 x.g.compat true (c.positions.flatMap (fun p => (c.dst.touches x.seat p).map (fun a => (wn.tick p, a))))

/-- The elements that a copy reads out of bounds. -/
def CopyPlan.outside (c : CopyPlan) (params : Nat) : Nat :=
  c.positions.countP (fun p => (c.dst.lay.posIndex p).isSome && (c.srcIndex params p).isNone)

/-- A layout copy, or a conversion on the layout-copy engine (the fill's anchor: log entry 134). -/
def State.copyRun (s : State) (k : Nat) (x : Issue) : State :=
  let s := s.began k x
  let pm := x.op.params.toNat
  -- the origins of a dynamic copy are read in the tick of its issue
  let ats := match x.operand x.op.src1 (x.arg 115 94) 0 with
    | some o => (List.range o.lay.count).flatMap (fun k => o.touches x.seat (o.lay.pos k))
    | none => []
  match x.copyPlan (x.copyCell (s.cell x.key) (fun _ => ats) x.start) with
  | none => s
  | some c =>
    let s := if c.dyn then match x.operand x.op.src1 (x.arg 115 94) 0 with
        | some o => s.spadRead x.key ((List.range c.so.lay.rank).flatMap (fun k => o.touches x.seat (o.lay.pos k)))
        | none => s
      else s
    if c.refused x.seat pm then s.refuseIssue x 1 0 0 else
    let s := s.spadRead x.key (c.reads x.seat pm)
    let v := x.copyView c (s.cell x.key)
    let wn := x.copyWhen c (s.cell x.key)
    let s := s.modCell x.key (c.note x)
    let s := s.countOobRead x.slot (c.outside pm)
    let f := c.so.lay.format
    if f = c.dst.lay.format then
      let ps := c.moves x.seat v pm
      let s := s.moveAnchors x x.op.src0 x.op.dst c.dst.lay (ps.filterMap (fun y => y.e.map (fun e => (e, c.srcIndex pm y.p))))
      s.putResults x wn c.dst toSpad ps
    else
      let val (p : Nat) : Val := match c.srcIndex pm p with
        | some i => c.so.val x.seat (v p) (c.so.lay.pos i) (if isAncFmt f then s.anchorOf x.slot x.g x.op.src0 i else 0)
        | none => c.so.lay.fillVal 0
      s.writeResults x wn c.dst toSpad (isAncFmt f) false (c.positions.map (fun p => ⟨p, c.dst.lay.posIndex p, val p, false⟩))

def execLayoutCopy (k : Nat) (s : State) : Result :=
  match s.turn k 4 with
  | none => .next s
  | some x => if x.op.opcode = 0x0300 ∨ x.op.opcode = 0x0500 then .next (s.mirrored x (s.copyRun k x)) else .next s

/-! ## Slices (06:R167, R168) -/

/-- Coordinates with index dimension g at value v. -/
def withDim (rest : List Nat) (g v : Nat) : List Nat := rest.take g ++ [v] ++ rest.drop g

/-- The coordinates of the other dimensions of a slice, in logical order. -/
def restCoords (dims : List Nat) (g : Nat) : List (List Nat) :=
  let rest := dropDim dims g
  (List.range (prodNat rest)).map (coordsOf rest)

/-- The extent of dimension k, in whole blocks along the block axis (06:R436). -/
def Layout.wholeBlocks (l : Layout) (k n : Nat) : Nat := if isBlockFmt l.format ∧ k = l.blockAxis then ceilDiv n 32 * 32 else n

/-- Does a slice reach over the whole of the other dimensions? `e` is the extent that the operation declares: the shape of its other tensor (06:R167). -/
def Layout.sliceWhole (l : Layout) (g : Nat) (e : List Nat) : Bool :=
  (List.range l.rank).all (fun k => k == g || decide (l.dims.getD k 0 ≤ l.wholeBlocks k (e.getD k 0)))

/-- The dimensions of a slice within that extent. -/
def Layout.sliceDims (l : Layout) (g : Nat) (e : List Nat) : List Nat :=
  (List.range l.rank).map (fun k => if k = g then l.dims.getD k 0 else min (l.wholeBlocks k (l.dims.getD k 0)) (l.wholeBlocks k (e.getD k 0)))

/-- The positions of a slice: with the padding of the whole tiles where it reaches over the tensor, else those of its extent. -/
def Layout.slicePositions (l : Layout) (g : Nat) (e : List Nat) : Nat :=
  if l.sliceWhole g e then l.positions / max 1 (l.grid g) else prodNat (dropDim (l.sliceDims g e) g)

/-- Are they contiguous (06:Table 6.4)? -/
def Layout.sliceRuns (l : Layout) (g : Nat) (e : List Nat) : Bool :=
  l.sliceWhole g e || (restCoords (l.sliceDims g e) g).all (fun r => decide (l.posOf (withDim r g 0) < l.slicePositions g e))

/-- Bytes of a slice in the storage order of its tensor, without interleaved scales where they are separate. -/
def Layout.sliceBytes (l : Layout) (g : Nat) (e : List Nat) : Nat :=
  if isBlockFmt l.format then ceilDiv (l.slicePositions g e / 32) l.blocksPerBarge * 4096
  else l.slicePositions g e * (fmtBits l.format / 8)

/-- Bytes from the start of one slice to that of the next. -/
def Layout.slicePitch (l : Layout) (g : Nat) : Nat :=
  let n := l.positions / max 1 (l.grid g)
  if isBlockFmt l.format then ceilDiv (n / 32) l.blocksPerBarge * 4096 else n * (fmtBits l.format / 8)

/-- The constraints of 06:Table 6.4 on one slice. -/
def Layout.sliceOk (l : Layout) (g : Nat) (e : List Nat) (device : Bool) : Bool :=
  let n := l.slicePositions g e
  let z := l.sliceBytes g e
  let pitch := l.slicePitch g
  decide (g < l.rank) && l.tile g == 1 && l.sliceRuns g e &&
  (List.range l.rank).all (fun k => decide (l.tstride.getD k 0 ≤ l.tstride.getD g 0)) &&
  (if isBlockFmt l.format then
    g != l.blockAxis && n % 32 == 0 &&
    (if device then l.interleaved && n / 32 % l.blocksPerBarge == 0 && l.positions / max 1 (l.grid g) / 32 % l.blocksPerBarge == 0
     else !l.interleaved && n / 32 % 64 == 0)
  else if device then z % 256 == 0 && pitch % 256 == 0 &&
    ((z % 4096 == 0 && pitch % 4096 == 0) || (List.range (l.dims.getD g 0)).all (fun i => decide (i * pitch % 4096 + z ≤ 4096)))
  else z % 64 == 0 && pitch % 64 == 0)

/-- Does this module own the barge of a position (06:R175)? -/
def State.ownsPos (s : State) (g : Image) (tensor : Nat) (l : Layout) (p : Nat) : Bool :=
  match g.owner tensor with
  | none => true
  | some o => o.ownerOf ((l.byteOf p).1 / 4096) == s.lnk.node.toNat

/-- One slot of a gather or a scatter: its j and its index. -/
structure SliceSlot where
  j : Nat
  index : Int
  deriving DecidableEq, Repr

/-- The slots of a record: its index operand in the scratchpad, from `first`, `count` of them; `v j` is the cell as slot j reads its index. -/
def indexSlots (o : Operand) (t : Seat) (v : Nat → Cell) (first count : Nat) : List SliceSlot :=
  (List.range count).filterMap (fun i =>
    if first + i < o.lay.count then some ⟨first + i, signedOf 32 (o.bits t (v (first + i)) (o.lay.pos (first + i)))⟩ else none)

def indexTouches (o : Operand) (t : Seat) (first count : Nat) : List Nat :=
  (List.range count).flatMap (fun i => if first + i < o.lay.count then o.touches t (o.lay.pos (first + i)) else [])

/-- Ticks of a slot on the layout-copy engine (06:Table 6.5). -/
def Layout.slotTicks (l : Layout) (g : Nat) (e : List Nat) : Nat := max 1 (ceilDiv (storedBytes l (l.slicePositions g e)) 256)

/-- The share of a slice's elements that lie before those of a position, of n. -/
def Layout.shareOf (l : Layout) (g n p : Nat) : Nat :=
  indexOf (dropDim l.dims g) (dropDim (l.posCoords p) g) * n / max 1 (prodNat (dropDim l.dims g))

/-- A channel in a phase of a pound as the image fixes it (10:R274, R275): the first slot that it has not had, the records written and not yet issued with their tick and their bursts, the first slot of each record that has issued. -/
structure ChannelPlan where
  free : Nat
  queue : List (IRec × Nat)
  starts : List (IRec × Nat)
  deriving DecidableEq, Repr

/-- The first slot of the record at the head of the queue. -/
def headSlot (pat : List Nat) (ch free : Nat) (r : IRec) : Nat := nthSlot pat ch 17 (max free ((r.offset + 15) / 8)) 0

/-- The records that have issued by a tick leave the queue. -/
def ChannelPlan.issueBy (pat : List Nat) (ch : Nat) (tick : Option Nat) : Nat → ChannelPlan → ChannelPlan
  | 0, c => c
  | fuel + 1, c =>
    match c.queue with
    | [] => c
    | y :: t =>
      let σ := headSlot pat ch c.free y.1
      if tick.any (fun τ => decide (τ < 8 * σ)) then c
      else ChannelPlan.issueBy pat ch tick fuel ⟨nthSlot pat ch (16 * (y.2 + 2)) σ (y.2 - 1) + 1, t, c.starts ++ [(y.1, σ)]⟩

/-- A record is written into the queue: the 33rd takes the place of the oldest, which never issues (07:R200). -/
def ChannelPlan.write (pat : List Nat) (ch : Nat) (c : ChannelPlan) (y : IRec × Nat) : ChannelPlan :=
  let c := c.issueBy pat ch (some y.1.offset) c.queue.length
  { c with queue := (if 32 ≤ c.queue.length then c.queue.drop 1 else c.queue) ++ [y] }

/-- The first slot of each record of a channel of a logical cell in a pound. -/
def Image.channelStarts (g : Image) (cell pound ch : Nat) : List (IRec × Nat) :=
  match g.dmaOf cell with
  | none => []
  | some d =>
    let pat := pattern d.weights
    let rs := (g.instrs.filter (fun r => r.engine == 5 && r.cell == cell && r.pound == pound && bits r.args.toNat 159 157 == ch)).filterMap (fun r =>
      (d.descrs[bits r.args.toNat 156 142]?).map (fun x => (r, x.length / 256)))
    let c := rs.foldl (ChannelPlan.write pat ch) ⟨0, [], []⟩
    (c.issueBy pat ch none c.queue.length).starts

/-- The first slot of a DMA record; none if it never issues. -/
def Issue.firstSlot (x : Issue) : Option Nat := ((x.g.channelStarts x.rc.cell x.rc.pound (x.arg 159 157)).find? (fun y => y.1 == x.rc)).map (·.2)

/-- The tick of a DMA record's n-th burst: its channel's slots from its first one on (10:R274, R275). -/
def Issue.burstTick (x : Issue) (n : Nat) : Nat :=
  x.bind.phase * x.g.poundLen x.rc.pound +
    8 * nthSlot (pattern ((x.g.dmaOf x.rc.cell).elim [] (fun d => d.weights))) (x.arg 159 157) (16 * (n + 2)) (x.firstSlot.getD 0) n

/-- The tick in which slot j of a record issues. The slots of a DMA record follow one another in the burst slots of its channel. -/
def Issue.slotTick (x : Issue) (l : Layout) (g : Nat) (e : List Nat) (first j : Nat) : Nat :=
  if x.rc.engine = 5 then x.burstTick ((j - first) * (l.sliceBytes g e / 256)) else x.start + (j - first) * l.slotTicks g e

/-- The uses of the engines above DMA in a tick; those of the layout-copy engine are the ones it has noted. -/
def Issue.aboveDma (x : Issue) (c : Cell) (write : Bool) (τ : Nat) : List Nat :=
  x.aboveCopy c write τ ++ c.usesOf 4 write τ

/-- The cell as a gather or a scatter reads it at a tick, `mine` the places it reads then. -/
def Issue.sliceCell (x : Issue) (c : Cell) (τ : Nat) (mine : List Nat) : Cell :=
  if c.landed.isEmpty && c.ports.isEmpty && [1, 2, 3].all (fun e => (x.mates e).isEmpty) then c
  else c.seen x.g.compat τ (if x.rc.engine = 5 then x.aboveDma c false τ else x.aboveCopy c false τ) mine

/-- The cell as slot j reads its index. -/
def Issue.indexCell (x : Issue) (c : Cell) (ix : Operand) (l : Layout) (g : Nat) (e : List Nat) (first j : Nat) : Cell :=
  x.sliceCell c (x.slotTick l g e first j) (ix.touches x.seat (ix.lay.pos j))

/-- The cell as slot j reads a position of a slice in the scratchpad. -/
def Issue.elementCell (x : Issue) (c : Cell) (o : Operand) (l : Layout) (g : Nat) (e : List Nat) (first j p : Nat) : Cell :=
  x.sliceCell c (x.slotTick l g e first j + l.shareOf g (l.slotTicks g e) p) (o.touches x.seat p)

/-- When slot j writes a position: 40 ticks after its read on the layout-copy engine, 900 after its burst from device memory. -/
def Issue.sliceWhen (x : Issue) (c : Cell) (l : Layout) (g : Nat) (e : List Nat) (first : Nat) (slotOf : Nat → Nat) : When :=
  if x.rc.engine = 5 then
    let n := l.sliceBytes g e / 256
    ⟨fun p => x.burstTick ((slotOf p - first) * n + l.shareOf g n p) + 900 + l.shareOf g (4 * n) p % 4, x.aboveDma c true⟩
  else ⟨fun p => x.slotTick l g e first (slotOf p) + 40 + l.shareOf g (l.slotTicks g e) p, x.aboveCopy c true⟩

/-- An index that names a slice of the tensor. -/
def sliceIn (l : Layout) (g : Nat) (i : Int) : Option Nat :=
  if 0 ≤ i ∧ i < (l.dims.getD g 0 : Nat) then some i.toNat else none

/-! ## Hop 2 (10:R264, R265, R269) -/

/-- Does the reading context refer to the base that holds a shared tensor (10:R268)? -/
def State.refersToBase (s : State) (n tensor : Nat) : Bool :=
  let b := (s.slot n).baseCur.toNat
  b != 7 && (sget .none s.wld.bases b).places.any (fun p => p.tensor == tensor)

/-- The check of hop 2: the reason of the first check that fails. -/
def State.hop2 (s : State) (n : Nat) (g : Image) (tensor block : Nat) (p : Bytes) (tag : BitVec 256) : Option Nat :=
  if !tagOk p tag then some 3
  else if tagTensor tag ≠ tensor ∨ tagBlock tag ≠ block then some 4
  else if tagOwner tag ≠ s.ownerNode g tensor block then some 5
  else if g.isShared tensor then (if s.refersToBase n tensor then none else some 6)
  else if tagCtx tag ≠ n ∨ tagGen tag ≠ (s.gen n).toNat then some 6
  else none

/-- A cell checks a whole barge that one issue of a descriptor has read from device memory. -/
def State.checkRead (s : State) (key n : Nat) (g : Image) (tensor block channel descr device : Nat) (p : Bytes) : State :=
  let tag := s.mem.bargeTag device
  match s.hop2 n g tensor block p tag with
  | none => s
  | some why =>
    let s := s.modCell key (fun c => { c with
      towFail := c.towFail + 1
      dmaLast := ⟨2, BitVec.ofNat 3 channel, BitVec.ofNat 15 descr, BitVec.ofNat 4 why, BitVec.ofNat 40 block⟩ })
    s.failedHopTag 2 (srcDie (key / 68)) tag

/-! ## The queue of a DMA channel (10:R274) -/

def Cell.channel (c : Cell) (i : Nat) : Channel := sget .empty c.channels i
def Cell.setChannel (c : Cell) (i : Nat) (v : Channel) : Cell := { c with channels := sset .empty c.channels i v }

/-- A descriptor enters its channel's queue; the 33rd takes the place of the oldest, which never issues (07:R200, 10:R274). -/
def Channel.write (c : Channel) (q : Queued) : Channel :=
  { c with queue := (if 32 ≤ c.queue.length then c.queue.drop 1 else c.queue) ++ [q] }

/-- A DMA record writes its descriptor. -/
def State.enqueue (s : State) (x : Issue) : State :=
  s.modCell x.key (fun c => c.setChannel (x.arg 159 157) ((c.channel (x.arg 159 157)).write ⟨x.arg 156 142, x.op.id, x.rc.part, x.start⟩))

def isSliceOp (opcode : Nat) : Bool := opcode == 0x0310 || opcode == 0x0311 || opcode == 0x0312

/-- The issue of a gather or a scatter: on a DMA channel its descriptor is written into the queue, whose slots its slices take. -/
def State.beganSlice (s : State) (k : Nat) (x : Issue) : State := if x.rc.engine = 5 then (s.began k x).enqueue x else s.began k x

/-- Does a record never come to issue, since the 33rd descriptor after it has taken its place? -/
def Issue.dropped (x : Issue) : Bool := x.rc.engine == 5 && x.firstSlot.isNone

/-! ## Slices in device memory -/

/-- The first position of slice i. -/
def Layout.sliceStart (l : Layout) (g i : Nat) : Nat := l.posOf (withDim (List.replicate (l.rank - 1) 0) g i)

/-- A slice read from device memory: its bytes in storage order from its first position's barge byte on. -/
def State.readSlice (s : State) (x : Issue) (tensor : Nat) (l : Layout) (p0 n : Nat) : State × Bytes :=
  let base := (l.byteOf p0).1
  let r : Reader := ⟨0, x.bind.die, x.bind.cell, some x.slot⟩
  (List.range ((base + n - 1) / 4096 + 1 - base / 4096)).foldl (fun a i =>
    let b := base / 4096 + i
    let lo := max base (b * 4096)
    let hi := min (base + n) (b * 4096 + 4096)
    match a.1.bargeAddr x.slot x.g tensor b with
    | none => (a.1, a.2 ++ List.replicate (hi - lo) 0)
    | some d =>
      let y := a.1.readRange r (d + (lo - b * 4096)) (hi - lo)
      let z := y.1.afterRead r y.2.2
      -- a slice of whole barges reads all 16 bursts of each in one issue, so hop 2 checks them (10:R264)
      (if n % 4096 = 0 then z.checkRead x.key x.slot x.g tensor b (x.arg 159 157) (x.arg 156 142) d y.2.1 else z, a.2 ++ y.2.1)) (s, [])

/-- An element's scale byte and bits out of a slice's bytes. -/
def Layout.elementIn (l : Layout) (base : Nat) (d : Bytes) (p : Nat) : Nat × Nat :=
  let y := l.byteOf p
  let b := leNat ((d.drop (y.1 - base)).take l.elemBytes)
  (if isBlockFmt l.format then (d.getD (l.interScale p - base) 0).toNat else 0, b / 2 ^ y.2 % 2 ^ fmtBits l.format)

/-! ## Gathers -/

/-- A gather's work, whichever engine carries it out. -/
structure GatherPlan where
  sl : Layout
  dst : Operand
  idx : Operand
  g : Nat
  first : Nat
  count : Nat
  deriving DecidableEq, Repr

/-- What a slot of a gather yields for destination coordinates: the source element, the fill of an index in another part's range (not counted), or the fill of an element out of bounds. -/
inductive Pull where
  | elem (p : Nat)
  | other
  | oob
  deriving DecidableEq, Repr

def State.pull (s : State) (x : Issue) (w : GatherPlan) (slot : SliceSlot) (rest : List Nat) : Pull :=
  match sliceIn w.sl w.g slot.index with
  | none => if s.ownsPos x.g x.op.src0 w.sl 0 then .oob else .other
  | some i =>
    if s.ownsPos x.g x.op.src0 w.sl (w.sl.sliceStart w.g i) then
      match insideShape w.sl.dims ((withDim rest w.g i).map Int.ofNat) with
      | none => .oob
      | some cs => .elem (w.sl.posOf cs)
    else .other

/-- The destination elements of a gather: each slot's coordinates. -/
def GatherPlan.sites (w : GatherPlan) (slots : List SliceSlot) : List (SliceSlot × List Nat) :=
  slots.flatMap (fun q => (restCoords w.dst.lay.dims w.g).map (fun r => (q, r)))

/-- The source block of a destination element, if any of its positions lies in the source: its scale stands for the whole block (06:R436). -/
def State.blockSource (s : State) (x : Issue) (w : GatherPlan) (slot : SliceSlot) (rest : List Nat) : Option Nat :=
  let l := w.dst.lay
  if isBlockFmt l.format then
    let cs := withDim rest w.g slot.j
    let a := l.blockAxis
    match s.pull x w slot (dropDim (cs.set a (cs.getD a 0 / 32 * 32)) w.g) with
    | .elem p => some p
    | _ => none
  else none

/-- The gather's results from a reader of source elements (06:R167). -/
def State.gatherPuts (s : State) (x : Issue) (w : GatherPlan) (slots : List SliceSlot) (read : SliceSlot → Nat → Nat × Nat) : List Put :=
  (w.sites slots).map (fun y =>
    let cs := withDim y.2 w.g y.1.j
    let fill := w.sl.fillElem
    let e := indexOf w.dst.lay.dims cs
    match s.pull x w y.1 y.2 with
    | .elem p => let v := read y.1 p; ⟨w.dst.lay.posOf cs, some e, v.1, v.2, false⟩
    | _ => ⟨w.dst.lay.posOf cs, some e, ((s.blockSource x w y.1 y.2).map (fun p => (read y.1 p).1)).getD fill.2, fill.1, false⟩)

/-- The positions outside the shape in the blocks that are written: whole blocks move (06:R436), and they hold +0 under the block's scale (06:R155). -/
def Layout.blockPads (l : Layout) (ps : List Put) : List Put :=
  if isBlockFmt l.format then
    ps ++ ((ps.map (fun y => y.p / 32)).eraseDups).flatMap (fun h =>
      let sc := ((ps.find? (fun y => y.p / 32 == h)).map (·.scale)).getD 0
      (List.range 32).filterMap (fun i => if (l.posIndex (h * 32 + i)).isSome ∨ l.positions ≤ h * 32 + i then none else some ⟨h * 32 + i, none, sc, 0, false⟩))
  else ps

/-- When a gather writes its positions: the slot of a position is its coordinate in the slice dimension. -/
def GatherPlan.when (w : GatherPlan) (x : Issue) (c : Cell) : When :=
  x.sliceWhen c w.dst.lay w.g w.sl.dims w.first (fun p => (w.dst.lay.posCoords p).getD w.g 0)

/-- Writes a gather's results and counts what lay out of bounds. -/
def State.gatherWrite (s : State) (x : Issue) (w : GatherPlan) (wn : When) (slots : List SliceSlot) (ps : List Put) : State :=
  let sites := w.sites slots
  let s := s.countOobRead x.slot (sites.countP (fun y => s.pull x w y.1 y.2 == .oob))
  let s := s.moveAnchors x x.op.src0 x.op.dst w.dst.lay (sites.map (fun y =>
    (indexOf w.dst.lay.dims (withDim y.2 w.g y.1.j), match s.pull x w y.1 y.2 with | .elem p => w.sl.posIndex p | _ => none)))
  let s := if x.rc.engine = 4 then s.modCell x.key (fun c => c.notePorts 4 x.g.compat true (w.dst.landings x.seat wn.tick ps)) else s
  s.putResults x wn w.dst toSpad ps

/-- A gather within the scratchpad. -/
def State.gatherSpad (s : State) (x : Issue) (so : Operand) (w : GatherPlan) : State :=
  let s := s.spadRead x.key (indexTouches w.idx x.seat w.first w.count)
  let slots := indexSlots w.idx x.seat (x.indexCell (s.cell x.key) w.idx w.sl w.g w.dst.lay.dims w.first) w.first w.count
  let reads := (w.sites slots).flatMap (fun y => match s.pull x w y.1 y.2 with | .elem p => [(y.1.j, p)] | _ => [])
  let s := s.spadRead x.key (reads.flatMap (fun y => so.touches x.seat y.2))
  let c := s.cell x.key
  let v (j p : Nat) : Cell := x.elementCell c so w.sl w.g w.dst.lay.dims w.first j p
  let s := s.modCell x.key (fun c => c.notePorts 4 x.g.compat false (reads.flatMap (fun y =>
    (so.touches x.seat y.2).map (fun a => (x.slotTick w.sl w.g w.dst.lay.dims w.first y.1 + w.sl.shareOf w.g (w.sl.slotTicks w.g w.dst.lay.dims) y.2, a)))))
  s.gatherWrite x w (w.when x c) slots (w.dst.lay.blockPads (s.gatherPuts x w slots (fun q p => (so.scale x.seat (v q.j p) p, so.bits x.seat (v q.j p) p))))

/-- A gather from device memory: each slot that names a slice reads it. -/
def State.gatherDevice (s : State) (x : Issue) (w : GatherPlan) : State :=
  let s := s.spadRead x.key (indexTouches w.idx x.seat w.first w.count)
  let slots := indexSlots w.idx x.seat (x.indexCell (s.cell x.key) w.idx w.sl w.g w.dst.lay.dims w.first) w.first w.count
  let n := w.sl.sliceBytes w.g w.dst.lay.dims
  let start (i : Nat) : Nat := w.sl.sliceStart w.g i
  let r := slots.foldl (fun (a : State × List (Nat × Nat × Bytes)) q =>
    match sliceIn w.sl w.g q.index with
    | none => a
    | some i =>
      if s.ownsPos x.g x.op.src0 w.sl (start i) then
        let y := a.1.readSlice x x.op.src0 w.sl (start i) n
        (y.1, a.2 ++ [(q.j, (w.sl.byteOf (start i)).1, y.2)])
      else a) (s, [])
  let read (q : SliceSlot) (p : Nat) : Nat × Nat :=
    match r.2.find? (fun z => z.1 == q.j) with
    | some z => w.sl.elementIn z.2.1 z.2.2 p
    | none => (0, 0)
  let s := r.1.modCell x.key (fun c => { c with dmaBursts := c.dmaBursts + BitVec.ofNat 64 (r.2.length * (n / 256)) })
  s.gatherWrite x w (w.when x (s.cell x.key)) slots (w.dst.lay.blockPads (s.gatherPuts x w slots read))

/-- The descriptor that a DMA record names. -/
def Issue.descr (x : Issue) : Option Descr := (x.g.dmaOf x.rc.cell).bind (fun d => d.descrs[x.arg 156 142]?)

/-- The slots of the lower parts of an operation on DMA channels (log entry 21). -/
def Issue.dmaFirst (x : Issue) (slice : Nat) : Nat :=
  partStart x (fun r => ((x.g.dmaOf r.cell).bind (fun d => d.descrs[bits r.args.toNat 156 142]?)).elim 0 (fun d => d.length / max 1 slice))

def State.gatherRun (s : State) (k : Nat) (x : Issue) : State :=
  let s := s.beganSlice k x
  if x.dropped then s else
  let g := x.param 2 0
  match x.g.lay x.op.src0, x.g.lay x.op.dst with
  | some sl, some dl =>
    let device := x.rc.engine == 5
    if !sl.sliceOk g dl.dims device then s.refuseIssue x 2 (if device then x.arg 159 157 else 0) (if device then x.arg 156 142 else 0)
    else if device then
      match x.descr with
      | none => s
      | some d =>
        let first := x.dmaFirst (sl.sliceBytes g dl.dims)
        let at0 := dl.posOf (withDim (List.replicate (dl.rank - 1) 0) g first)
        match x.operand x.op.dst d.saddr at0, x.operand x.op.src1 d.dynaddr 0 with
        | some o, some ix => s.gatherDevice x ⟨sl, o, ix, g, first, d.length / max 1 (sl.sliceBytes g dl.dims)⟩
        | _, _ => s
    else
      let first := x.arg 93 62
      let at0 := dl.posOf (withDim (List.replicate (dl.rank - 1) 0) g first)
      match x.operand x.op.src0 (x.arg 159 138) 0, x.operand x.op.dst (x.arg 137 116) at0, x.operand x.op.src1 (x.arg 115 94) 0 with
      | some so, some o, some ix => s.gatherSpad x so ⟨sl, o, ix, g, first, x.arg 61 42⟩
      | _, _, _ => s
  | _, _ => s

/-- The record of a copy, gather or scatter: on the layout-copy engine, or on a DMA channel. -/
def State.sliceIssue (s : State) (k : Nat) : Option Issue :=
  match s.turn k 4 with
  | some x => some x
  | none => s.turn k 5

def execGather (k : Nat) (s : State) : Result :=
  match s.sliceIssue k with
  | none => .next s
  | some x => if x.op.opcode = 0x0310 then .next (s.mirrored x (s.gatherRun k x)) else .next s

/-! ## Scatter-stores (06:R167, R169, R170) -/

/-- What a slot of a scatter does with a destination element: stored, skipped by the range, or dropped out of bounds and counted or not. -/
inductive Push where
  | store (p : Nat)
  | skip
  | drop
  deriving DecidableEq, Repr

/-- The records that carry out an operation's slices, and the first index of the range that each declares when there are several (log entry 125): the field first j of a record of the layout-copy engine, the memory offset of a DMA descriptor. -/
def Image.scatterLo (g : Image) (dl : Layout) (dim : Nat) (r : IRec) : Nat :=
  if r.engine = 5 then ((g.dmaOf r.cell).bind (fun d => d.descrs[bits r.args.toNat 156 142]?)).elim 0 (fun d => d.moffset / max 1 (dl.slicePitch dim))
  else bits r.args.toNat 93 62

/-- The destination range [lo, hi) of a scatter-store's part (06:R170): the whole dimension for an undivided one. The ranges cover the dimension, so one ends where the next begins. -/
def Issue.scatterRange (x : Issue) (dl : Layout) (dim : Nat) : Nat × Nat :=
  let rs := x.g.instrs.filter (fun r => r.opId == x.op.id && (r.engine == 4 || r.engine == 5))
  let n := dl.dims.getD dim 0
  if ((rs.map (·.part)).eraseDups).length ≤ 1 then (0, n) else
  let lo := x.g.scatterLo dl dim x.rc
  (lo, ((rs.map (x.g.scatterLo dl dim)).filter (fun y => decide (lo < y))).foldl min n)

/-- The slots of a part: those that its record names, or every j where the operation is divided by ranges. -/
def Issue.scatterSlots (x : Issue) (first count total : Nat) : Nat × Nat :=
  let rs := x.g.instrs.filter (fun r => r.opId == x.op.id && (r.engine == 4 || r.engine == 5))
  if ((rs.map (·.part)).eraseDups).length ≤ 1 then (first, count) else (0, total)

/-- What a slot of a scatter-store does with an element. -/
def State.push (s : State) (x : Issue) (dl : Layout) (g : Nat) (q : SliceSlot) (rest : List Nat) : Push :=
  let r := x.scatterRange dl g
  match sliceIn dl g q.index with
  | none => if r.1 = 0 ∧ s.ownsPos x.g x.op.dst dl 0 = true then .drop else .skip
  | some i => if i < r.1 ∨ r.2 ≤ i ∨ s.ownsPos x.g x.op.dst dl (dl.sliceStart g i) = false then .skip else
    match insideShape dl.dims ((withDim rest g i).map Int.ofNat) with
    | none => .drop
    | some cs => .store (dl.posOf cs)

/-- What a slot of a scatter-add does with an element: its parts are divided by j, so each counts its own elements out of bounds (06:R169, R170). -/
def State.pushAdd (s : State) (x : Issue) (dl : Layout) (g : Nat) (q : SliceSlot) (rest : List Nat) : Push :=
  match (sliceIn dl g q.index).bind (fun i => insideShape dl.dims ((withDim rest g i).map Int.ofNat)) with
  | none => .drop
  | some cs => if s.ownsPos x.g x.op.dst dl (dl.posOf cs) then .store (dl.posOf cs) else .skip

/-- The slots whose slice no later slot writes too (06:R169). -/
def lastSlots : List SliceSlot → List SliceSlot
  | [] => []
  | q :: t => if t.any (fun u => u.index == q.index) then lastSlots t else q :: lastSlots t

/-- The pieces of a scatter in order of j: the slot, the coordinates, the update element's position. -/
def scatterSites (ul : Layout) (g : Nat) (slots : List SliceSlot) : List (SliceSlot × List Nat × Nat) :=
  slots.flatMap (fun q => (restCoords ul.dims g).map (fun r => (q, r, ul.posOf (withDim r g q.j))))

/-- The pieces that a block-scaled scatter-store moves beyond the updates' shape: the rest of their last blocks, which receive the fill under the block's scale (06:R436). -/
def blockRests (ul : Layout) (g : Nat) (slots : List SliceSlot) : List (SliceSlot × List Nat × Nat) :=
  if isBlockFmt ul.format then
    let dims := (List.range ul.rank).map (fun k => ul.wholeBlocks k (ul.dims.getD k 0))
    slots.flatMap (fun q => ((restCoords dims g).filter (fun r => (insideShape ul.dims ((withDim r g q.j).map Int.ofNat)).isNone)).map (fun r =>
      (q, r, ul.posOf (withDim r g q.j))))
  else []

/-- What a scatter-store writes: the update elements in order of j, then the fill in the rest of their blocks. -/
def State.scatterPuts (s : State) (x : Issue) (u : Operand) (dl : Layout) (g : Nat) (slots : List SliceSlot) (v : Nat → Nat → Cell) : List Put :=
  let put (fill : Bool) (y : SliceSlot × List Nat × Nat) : Option Put := match s.push x dl g y.1 y.2.1 with
    | .store p => some ⟨p, dl.posIndex p, u.scale x.seat (v y.1.j y.2.2) y.2.2, if fill then u.lay.fillElem.1 else u.bits x.seat (v y.1.j y.2.2) y.2.2, false⟩
    | _ => none
  dl.blockPads (lastPuts ((scatterSites u.lay g slots).filterMap (put false) ++ (blockRests u.lay g slots).filterMap (put true)))

/-- The anchors of stored words move with them (02:R58). -/
def State.scatterAnchors (s : State) (x : Issue) (dl ul : Layout) (g : Nat) (slots : List SliceSlot) : State :=
  s.moveAnchors x x.op.src0 x.op.dst dl ((scatterSites ul g slots).filterMap (fun y => match s.push x dl g y.1 y.2.1 with
    | .store p => (dl.posIndex p).map (fun e => (e, ul.posIndex y.2.2))
    | _ => none))

/-- A scatter-store within the scratchpad. -/
def State.scatterSpad (s : State) (x : Issue) (u o ix : Operand) (g first count : Nat) : State :=
  let s := s.spadRead x.key (indexTouches ix x.seat first count)
  let slots := indexSlots ix x.seat (x.indexCell (s.cell x.key) ix u.lay g o.lay.dims first) first count
  let sites := scatterSites u.lay g slots
  let act (y : SliceSlot × List Nat × Nat) : Push := s.push x o.lay g y.1 y.2.1
  let s1 := s.spadRead x.key (sites.flatMap (fun y => match act y with | .store _ => u.touches x.seat y.2.2 | _ => []))
  let ps := s1.scatterPuts x u o.lay g slots (fun j p => x.elementCell (s1.cell x.key) u u.lay g o.lay.dims first j p)
  -- the slot that writes a position: the last one whose index names its slice
  let slotOf (p : Nat) : Nat := ((slots.filter (fun q => q.index == ((o.lay.posCoords p).getD g 0 : Int))).getLast?.map (·.j)).getD first
  let wn := x.sliceWhen (s1.cell x.key) o.lay g u.lay.dims first slotOf
  let s1 := s1.modCell x.key (fun c => (c.notePorts 4 x.g.compat false (sites.flatMap (fun y => match act y with
      | .store _ => (u.touches x.seat y.2.2).map (fun a => (x.slotTick u.lay g o.lay.dims first y.1.j + u.lay.shareOf g (u.lay.slotTicks g o.lay.dims) y.2.2, a))
      | _ => []))).notePorts 4 x.g.compat true (o.landings x.seat wn.tick ps))
  let s2 := s1.countOobWrite x.slot (sites.countP (fun y => act y == .drop))
  (s2.scatterAnchors x o.lay u.lay g slots).putResults x wn o toSpad ps

/-- The bytes of slice i of the destination within the extent of the updates, laid out as it stores them, from what is put there. -/
def sliceBytesOf (ps : List Put) (dl : Layout) (g : Nat) (e : List Nat) (i : Nat) : Bytes :=
  let base := (dl.byteOf (dl.sliceStart g i)).1
  let n := fmtBits dl.format
  (ps.filter (fun y => (dl.posCoords y.p).getD g 0 == i)).foldl (fun d y =>
    let a := dl.byteOf y.p
    let old := leNat ((d.drop (a.1 - base)).take dl.elemBytes)
    let new := old - old / 2 ^ a.2 % 2 ^ n * 2 ^ a.2 + y.bits * 2 ^ a.2
    let d := patch d (a.1 - base) ((leBytes dl.elemBytes new).take (d.length - (a.1 - base)))
    if isBlockFmt dl.format then patch d (dl.interScale y.p - base) [BitVec.ofNat 8 y.scale] else d) (List.replicate (dl.sliceBytes g e) (0 : Byte))

/-- A slice on its way to device memory: whole barges are sealed, a piece of a barge is a partial write. -/
def State.sendSlice (s : State) (x : Issue) (tensor base : Nat) (d : Bytes) : State :=
  if d.length % 4096 = 0 then
    (List.range (d.length / 4096)).foldl (fun s i =>
      let b := base / 4096 + i
      match s.bargeAddr x.slot x.g tensor b with
      | none => s
      | some a =>
        let z := s.seal x.slot x.g tensor b (sourceCell x.bind.die x.bind.cell) (s.slot x.slot).step.toNat ((d.drop (4096 * i)).take 4096)
        let s := s.snag x.key x.slot tensor b (s.ownerNode x.g tensor b) 0
        { s with flight := { s.flight with barges := s.flight.barges ++ [⟨a, z.1, z.2, none⟩] } }) s
  else
    match s.bargeAddr x.slot x.g tensor (base / 4096) with
    | none => s
    | some a =>
      { s with flight := { s.flight with parts := s.flight.parts ++ [⟨a + base % 4096, d, BitVec.ofNat 3 x.slot, s.gen x.slot, none, x.bind.die, x.bind.cell⟩] } }

/-- A scatter-store to device memory: each slot in order sends its slice (posted at issue). -/
def State.scatterDevice (s : State) (x : Issue) (u ix : Operand) (dl : Layout) (g first count : Nat) : State :=
  let e := u.lay.dims
  let s := s.spadRead x.key (indexTouches ix x.seat first count)
  let slots := indexSlots ix x.seat (x.indexCell (s.cell x.key) ix dl g e first) first count
  let sites := scatterSites u.lay g slots
  let act (y : SliceSlot × List Nat × Nat) : Push := s.push x dl g y.1 y.2.1
  let s1 := s.spadRead x.key (sites.flatMap (fun y => match act y with | .store _ => u.touches x.seat y.2.2 | _ => []))
  let s2 := s1.countOobWrite x.slot (sites.countP (fun y => act y == .drop))
  let ps := s2.scatterPuts x u dl g slots (fun j p => x.elementCell (s2.cell x.key) u dl g e first j p)
  let s3 := (s2.scatterAnchors x dl u.lay g slots).digest x.slot x.g x.op.id x.op.dst dl (ps.filterMap (fun y => y.e.map (fun e => (e, y.scale, y.bits))))
  let stores (q : SliceSlot) : Bool := act (q, List.replicate (dl.rank - 1) 0, 0) matches .store _
  let s4 := s3.modCell x.key (fun c => { c with dmaBursts := c.dmaBursts + BitVec.ofNat 64 (slots.countP stores * (dl.sliceBytes g e / 256)) })
  (lastSlots (slots.filter stores)).foldl (fun s q =>
    s.sendSlice x x.op.dst (dl.byteOf (dl.sliceStart g q.index.toNat)).1 (sliceBytesOf ps dl g e q.index.toNat)) s4

def State.scatterRun (s : State) (k : Nat) (x : Issue) : State :=
  let s := s.beganSlice k x
  if x.dropped then s else
  let g := x.param 2 0
  match x.g.lay x.op.dst, x.g.lay x.op.src0 with
  | some dl, some ul =>
    let device := x.rc.engine == 5
    if !dl.sliceOk g ul.dims device then s.refuseIssue x 2 (if device then x.arg 159 157 else 0) (if device then x.arg 156 142 else 0)
    else if device then
      match x.descr with
      | none => s
      | some d =>
        let r := x.scatterSlots (x.dmaFirst (dl.sliceBytes g ul.dims)) (d.length / max 1 (dl.sliceBytes g ul.dims)) (ul.dims.getD g 0)
        match x.operand x.op.src0 d.saddr (ul.posOf (withDim (List.replicate (ul.rank - 1) 0) g r.1)), x.operand x.op.src1 d.dynaddr 0 with
        | some u, some ix => s.scatterDevice x u ix dl g r.1 r.2
        | _, _ => s
    else match x.operand x.op.src0 (x.arg 159 138) 0, x.operand x.op.dst (x.arg 137 116) 0, x.operand x.op.src1 (x.arg 115 94) 0 with
      | some u, some o, some ix =>
        let r := x.scatterSlots (x.arg 93 62) (x.arg 61 42) (ul.dims.getD g 0)
        s.scatterSpad x u o ix g r.1 r.2
      | _, _, _ => s
  | _, _ => s

def execScatterStore (k : Nat) (s : State) : Result :=
  match s.sliceIssue k with
  | none => .next s
  | some x => if x.op.opcode = 0x0311 then .next (s.mirrored x (s.scatterRun k x)) else .next s

/-! ## Scatter-adds (06:R169) -/

/-- A burst of contributions to a region (10:R278): sealed by its CRC. -/
def State.sendContributions (s : State) (x : Issue) (tensor cell format : Nat) (els : List (Nat × Int)) : State :=
  match x.g.lay tensor with
  | none => s
  | some l =>
    let z := fmtBits format / 8
    let data := els.flatMap (fun e => leBytes z e.1)
    let off : Word := BitVec.ofNat 64 (cell * (fmtBits l.format / 8))
    let b : AccBurst := { slot := BitVec.ofNat 3 x.slot, gen := s.gen x.slot, tensor := BitVec.ofNat 32 tensor, offset := off, format := format,
                          data := data, crc := 0, opId := x.op.id, anchors := els.map (·.2), expect := BitVec.ofNat 32 tensor }
    { s with flight := { s.flight with bursts := s.flight.bursts ++ [{ b with crc := crc32c b.covered }] } }

/-- The pieces of a list, `n` at a time; the fuel is the list's length. -/
def chunks {α : Type} (n : Nat) : Nat → List α → List (List α)
  | 0, _ => []
  | fuel + 1, l => if l.isEmpty then [] else l.take (max 1 n) :: chunks n fuel (l.drop (max 1 n))

/-- Runs of consecutive positions in a list in their order; the fuel is the list's length. -/
def runsOf {α : Type} : Nat → List (Nat × α) → List (List (Nat × α))
  | 0, _ => []
  | _, [] => []
  | fuel + 1, a :: t =>
    let run := a :: ((List.zip (List.range t.length) t).takeWhile (fun y => y.2.1 == a.1 + 1 + y.1)).map (·.2)
    run :: runsOf fuel (t.drop (run.length - 1))

/-- The contributions of a slot of a scatter-add: position in the region, element, anchor, those out of bounds left out (06:R165). -/
def State.addendsOf (s : State) (x : Issue) (u : Operand) (dl : Layout) (g : Nat) (v : Nat → Nat → Cell) (q : SliceSlot) : List (Nat × Nat × Int) :=
  sortBy (fun a b => decide (a.1 ≤ b.1)) ((scatterSites u.lay g [q]).filterMap (fun y => match s.pushAdd x dl g q y.2.1 with
    | .store p => some (p, u.bits x.seat (v q.j y.2.2) y.2.2, if isAncFmt u.lay.format then s.anchorOf x.slot x.g x.op.src0 ((u.lay.posIndex y.2.2).getD 0) else 0)
    | _ => none))

/-- A scatter-add sends each slice's elements as contributions, in bursts of up to 256 bytes for consecutive cells. -/
def State.scatterAddRun (s : State) (k : Nat) (x : Issue) : State :=
  let s := s.beganSlice k x
  if x.dropped then s else
  let g := x.param 2 0
  match x.g.lay x.op.dst, x.g.lay x.op.src0, x.descr with
  | some dl, some ul, some d =>
    if !dl.sliceOk g ul.dims true then s.refuseIssue x 2 (x.arg 159 157) (x.arg 156 142) else
    let z := ul.sliceBytes g dl.dims
    let first := x.dmaFirst z
    match x.operand x.op.src0 d.saddr (ul.sliceStart g first), x.operand x.op.src1 d.dynaddr 0 with
    | some u, some ix =>
      let count := d.length / max 1 z
      let s := s.spadRead x.key (indexTouches ix x.seat first count)
      let slots := indexSlots ix x.seat (x.indexCell (s.cell x.key) ix ul g dl.dims first) first count
      let sites := scatterSites ul g slots
      let act (y : SliceSlot × List Nat × Nat) : Push := s.pushAdd x dl g y.1 y.2.1
      let s1 := s.spadRead x.key (sites.flatMap (fun y => match act y with | .store _ => u.touches x.seat y.2.2 | _ => []))
      let s2 := s1.countOobWrite x.slot (sites.countP (fun y => act y == .drop))
      let c := s2.cell x.key
      slots.foldl (fun s q =>
        let els := s.addendsOf x u dl g (fun j p => x.elementCell c u ul g dl.dims first j p) q
        match els with
        | [] => s
        | _ :: _ =>
          let s := ((els.map (fun e => (dl.byteOf e.1).1 / 4096)).eraseDups).foldl (fun s b => s.snag x.key x.slot x.op.dst b (s.ownerNode x.g x.op.dst b) 1) s
          ((runsOf els.length els).flatMap (fun run => chunks (256 / max 1 (fmtBits ul.format / 8)) run.length run)).foldl (fun s es =>
            (s.modCell x.key (fun c => { c with dmaBursts := c.dmaBursts + 1 })).sendContributions x x.op.dst (es.headD (0, 0, 0)).1 ul.format (es.map (·.2))) s) s2
    | _, _ => s
  | _, _, _ => s

def execScatterAdd (k : Nat) (s : State) : Result :=
  match s.turn k 5 with
  | none => .next s
  | some x => if x.op.opcode = 0x0312 then .next (s.scatterAddRun k x) else .next s

end Sys2Proof.Machine
end

