-- ==== Sys2Proof/Machine/Links.lean ====
section
/-! DEFINITION. Operations over the links (chapter 11): sending packets, joins, routes and their homes, link lay-by slots, the budget check. -/

namespace Sys2Proof.Machine

open Sys2Proof

/-! ## Lanes and contacts (11:R288, 16:R429): where a pair lies, as row and column of the contact grid -/

/-- The module lane of lane i of a module port. -/
def portLane (port i : Nat) : Nat := 4 * port + i

/-- The contact of module lane n: the pair it transmits or receives on, its P or N. -/
def linkContact (n : Nat) (receive neg : Bool) : Nat × Nat :=
  let k := n / 24
  let i := n % 24
  let base := if k ≤ 2 then 0 else 48
  (base + 2 * (i / 6) + 1 + (if receive then 8 else 0), 12 * (k % 3) + 2 * (i % 6) + 1 + (if neg then 1 else 0))

/-- The contact of a PCIe lane. -/
def pcieContact (l : Nat) (receive neg : Bool) : Nat × Nat :=
  (2 * (l / 6) + 1 + (if receive then 8 else 0), 37 + 2 * (l % 6) + (if neg then 1 else 0))

/-! ## The forwarding table (11:R294) -/

/-- The neighbours of a node with the links to them. -/
def neighbours (links : List FabricLink) (a : Nat) : List (Nat × FabricLink) :=
  links.filterMap (fun l => if l.a.toNat = a then some (l.b.toNat, l) else if l.b.toNat = a then some (l.a.toNat, l) else none)

/-- Distances to a node, grown ring by ring. -/
def distances (links : List FabricLink) : Nat → Nat → List (Nat × Nat) → List (Nat × Nat)
  | 0, _, known => known
  | fuel + 1, d, known =>
    let front := ((known.filter (fun x => x.2 == d)).flatMap (fun x => (neighbours links x.1).map (·.1))).eraseDups
    let new := front.filter (fun n => !known.any (fun x => x.1 == n))
    distances links fuel (d + 1) (known ++ new.map (fun n => (n, d + 1)))

def distOf (ds : List (Nat × Nat)) (n : Nat) : Option Nat := (ds.find? (fun x => x.1 == n)).map (·.2)

/-- The walk from a node along falling distances, the lowest neighbour first: latency sum in ps, narrowest width. -/
def walk (links : List FabricLink) (ds : List (Nat × Nat)) : Nat → Nat → Nat × Nat
  | 0, _ => (0, 4)
  | fuel + 1, a =>
    let d := (distOf ds a).getD 0
    let ns := (neighbours links a).filter (fun x => decide (distOf ds x.1 = some (d - 1)) && d != 0)
    match sortBy (fun x y => decide (x.1 ≤ y.1)) ns with
    | [] => (0, 4)
    | x :: _ => let r := walk links ds fuel x.1; (x.2.delta + r.1, min x.2.width r.2)

/-- An unassigned node carries no traffic (11:R294). -/
def unassigned : Nat := 0xFFFFF

def State.node (s : State) : Nat := s.lnk.node.toNat

/-- The node of a port's partner, and whether the partner forwards (11:Table 11.6). -/
def Port.partnerNode (p : Port) : Nat := bits p.partner.toNat 19 0
def Port.forwards (p : Port) : Bool := p.partner.getLsbD 42

/-- The ports that are UP. -/
def State.upPorts (s : State) : List Nat := (List.range 36).filter (fun q => (s.port q).state == .up)

/-- The flooded links between other modules. -/
def State.farLinks (s : State) : List FabricLink := s.lnk.links.filter (fun l => l.a.toNat != s.node && l.b.toNat != s.node)

/-- The links of the fabric: the flooded ones, and the module's own as its ports stand. -/
def State.fabric (s : State) : List FabricLink :=
  s.farLinks ++ s.upPorts.map (fun q => ⟨s.lnk.node, (s.port q).partner.extractLsb' 0 20, (s.port q).delta.toNat, 2 ^ (s.port q).width.toNat⟩)

/-- Intermediate modules on the shortest way to node b that leaves by port q. -/
def State.hopsBy (s : State) (ds : List (Nat × Nat)) (b q : Nat) : Option Nat :=
  let p := s.port q
  if p.partnerNode = b then some 0 else if p.forwards then distOf ds p.partnerNode else none

/-- The entry of the forwarding table for a node (11:R294): the UP ports on a path with the fewest intermediate modules, lowest partner node and then lowest port first; latency and narrowest width are those of the first. -/
def State.pathEntry (s : State) (b : Nat) : Option Path :=
  let far := s.farLinks
  let ds := distances far (far.length + 1) 0 [(b, 0)]
  let ways := s.upPorts.filterMap (fun q => (s.hopsBy ds b q).map (fun d => (q, d)))
  match sortBy (fun u v => decide (u.2 < v.2) || (decide (u.2 = v.2) && (decide ((s.port u.1).partnerNode < (s.port v.1).partnerNode) ||
      (decide ((s.port u.1).partnerNode = (s.port v.1).partnerNode) && decide (u.1 ≤ v.1))))) ways with
  | [] => none
  | w :: t =>
    let p := s.port w.1
    let r := walk far ds (far.length + 1) p.partnerNode
    some ⟨BitVec.ofNat 20 b, ((w :: t).filter (fun y => y.2 == w.2)).map (·.1), w.2, p.delta.toNat + r.1, min (2 ^ p.width.toNat) r.2⟩

/-- The forwarding table. -/
def State.buildPaths (s : State) : List Path :=
  (((s.farLinks.flatMap (fun l => [l.a.toNat, l.b.toNat]) ++ s.upPorts.map (fun q => (s.port q).partnerNode)).eraseDups).filter
    (fun n => n != s.node && n != unassigned)).filterMap s.pathEntry

/-- The path between two nodes of the fabric with the fewest intermediate modules; a path that no link gives has no latency. -/
def bestPath (links : List FabricLink) (a b : Nat) : Path :=
  let ds := distances links (links.length + 1) 0 [(b, 0)]
  let w := walk links ds (links.length + 1) a
  ⟨BitVec.ofNat 20 b, [], (distOf ds a).getD 0 - 1, w.1, w.2⟩

/-! ## Sending -/

/-- A packet under a sequence number: the header of a barge holds it (11:Table 11.4). -/
def Packet.numbered (p : Packet) (seq : BitVec 32) : Packet :=
  match p with
  | .barge h _ d t => .barge h seq d t
  | p => p

/-- The send index of a barge, by which barges to one node are spread (11:R294). -/
def Packet.sendIndex (p : Packet) : Nat :=
  match p with
  | .barge h _ _ _ => h.index.toNat
  | .shardBarge _ t => tagBlock t
  | _ => 0

/-- The content of a packet, field by field, after its type (11:Table 11.4). -/
def Packet.fields : Packet → List Nat
  | .barge h q p t => [0, h.collective.toNat, h.number.toNat, q.toNat, h.index.toNat] ++ p.map BitVec.toNat ++ [t.toNat]
  | .ack q r => [1, q.toNat, r.toNat]
  | .sillToken o g st p c => [2, o.toNat, g.toNat, st.toNat, p.toNat, c.toNat]
  | .join p n sl g d => [3, p.toNat, n.toNat, sl.toNat, g.toNat, d.toNat]
  | .lossNotice n p st pd => [4, n.toNat, p.toNat, st.toNat, pd.toNat]
  | .discovery r => [5, r.toNat]
  | .echo a b => [6, a, b]
  | .survey c l => [7, c.toNat] ++ l.map BitVec.toNat
  | .routeRequest r t o b => [8, 0, r.toNat, t.toNat, o, b]
  | .shardRequest r => [8, 1, r.node.toNat, r.tensor.toNat, r.layout.toNat, r.format.toNat, r.first, r.count]
  | .shardRefused r => [8, 2, r.node.toNat, r.tensor.toNat, r.layout.toNat, r.format.toNat, r.first, r.count]
  | .shardBarge p t => [0] ++ p.map BitVec.toNat ++ [t.toNat]
  | .management l => [8, 3] ++ l.map BitVec.toNat

/-- The CRC-32C that ends every packet but a barge's, over its other bytes (11:R290); how the bytes follow from the content is the free `Config.packetBytes` (log entry 191). -/
def Packet.crc (p : Packet) : Option (BitVec 32) :=
  match p with
  | .barge _ _ _ _ => none
  | .shardBarge _ _ => none
  | p => some (crc32c (Config.packetBytes p.fields))

/-- A packet as it leaves on a port. -/
def sentPacket (q : Nat) (p : Packet) : Output := .packet q p p.crc

/-- A packet goes out on a port; at the closed planks of a link die in reset it is dropped (13:R345). -/
def State.portOut (s : State) (q : Nat) (p : Packet) : State := if s.dieState (24 + q / 6) = 0 then s.emit (sentPacket q p) else s.plankDrop 1

/-- A packet leaves on a port under the next sequence number and stays in the replay buffer, which keeps the last 64 (11:R295). `sends` counts this sending. -/
def State.sendPort (s : State) (q node : Nat) (p : Packet) (sends : Nat) : State :=
  let t := s.port q
  let p := p.numbered t.nextSeq
  let r := t.replay ++ [⟨t.nextSeq, node, p, sends⟩]
  (s.setPort q { t with nextSeq := t.nextSeq + 1, replay := r.drop (r.length - 64) }).portOut q p

/-- A packet that is not numbered: an acknowledgement, a discovery record, an echo. -/
def State.sendBare (s : State) (q : Nat) (p : Packet) : State := s.portOut q p

def State.pathTo (s : State) (node : Nat) : Option Path := s.lnk.paths.find? (fun p => p.node.toNat == node)

/-- The ports to a node that are UP. -/
def State.portsTo (s : State) (node : Nat) : List Nat :=
  ((s.pathTo node).elim [] (fun p => p.ports)).filter (fun q => (s.port q).state == .up)

/-- A packet to a node for the n-th time: on the port that its send index gives in round-robin order (11:R294); without a port it waits. -/
def State.sendAgain (s : State) (node : Nat) (p : Packet) (sends : Nat) : State :=
  if s.node = unassigned ∨ node = s.node then s else
  match s.portsTo node with
  | [] => { s with lnk := { s.lnk with waiting := s.lnk.waiting ++ [⟨0, node, p, sends⟩] } }
  | q :: t => s.sendPort ((q :: t).getD (p.sendIndex % (t.length + 1)) q) node p sends

def State.sendNode (s : State) (node : Nat) (p : Packet) : State := s.sendAgain node p 1

/-- The link dies flood the partner lists, own and received, on every UP port where they have changed (11:R294); the spec gives them no packet form (log entry 192). -/
def State.flood (s : State) : State :=
  if s.node = unassigned ∨ s.fabric = s.lnk.flooded then s
  else s.upPorts.foldl (fun t q => t.emit (.partnerLists q s.fabric)) { s with lnk := { s.lnk with flooded := s.fabric } }

/-- The forwarding table is formed anew; packets that waited for a path go out, and changed partner lists are flooded. -/
def State.rebuild (s : State) : State :=
  let w := s.lnk.waiting
  State.flood (w.foldl (fun s r => s.sendAgain r.node r.packet r.sends) { s with lnk := { s.lnk with paths := s.buildPaths, waiting := [] } })

/-! ## Positions and joins (11:R300) -/

/-- The node at a position of the sill group. -/
def Image.nodeAt (g : Image) (pos : Nat) : Nat := g.sill.getD pos unassigned

def State.position (s : State) (n : Nat) : Nat := (s.slot n).place.position

/-- The join held from a position. -/
def Slot.joinOf (sl : Slot) (pos : Nat) : Option Join := sl.joins.find? (fun j => j.position == pos)

/-- The parent of a position in the sill tree (11:Table 11.2, TYPE 4). -/
def Image.parentOf (g : Image) (pos : Nat) : Option Nat :=
  match g.sillTree.find? (fun x => x.1 == pos) with
  | some x => if x.2 = 0xFFFF then none else some x.2
  | none => none

def Image.childrenOf (g : Image) (pos : Nat) : List Nat := (g.sillTree.filter (fun x => x.2 == pos && pos != 0xFFFF)).map (·.1)

/-- The neighbours in the sill tree. -/
def Image.treeNeighbours (g : Image) (pos : Nat) : List Nat := (g.parentOf pos).elim [] (fun p => [p]) ++ g.childrenOf pos

/-! ## Collectives: members and legs (11:R305, R306) -/

def Image.coll (g : Image) (c : Nat) : Option CollRec := g.colls.find? (fun r => r.coll == c)

/-- The operation of a collective. -/
def Image.collOp (g : Image) (c : Nat) : Option OpRec := g.ops.find? (fun o => o.opcode == 0x0400 && Machine.bits o.params.toNat 35 4 == c)

/-- The kind of a collective: 0 all-reduce, 1 reduce-scatter, 2 all-gather, 3 broadcast, 4 the survey maximum. -/
def Image.collKind (g : Image) (r : CollRec) : Nat :=
  if r.op = 3 then 4 else (g.collOp r.coll).elim 0 (fun o => Machine.bits o.params.toNat 3 0)

/-- One collective as a member sees it. -/
structure CollView where
  rec_ : CollRec
  kind : Nat
  /-- The index of this module in the member list. -/
  me : Nat
  m : Nat
  innet : Bool
  /-- Members that are partners of a port and cannot combine in the network: their legs run with INNET 0 (11:R306). -/
  lacking : List Nat
  deriving DecidableEq, Repr

/-- The member that holds the contents of a block at first, for a move: the owner of the block, or the root. -/
def Image.origin (g : Image) (v : CollView) (block : Nat) : Nat :=
  if v.kind = 3 then v.rec_.root
  else match (g.collOp v.rec_.coll).bind (fun o => g.owner o.src0) with
    | some t => (v.rec_.members.findIdx? (fun p => g.nodeAt p == t.ownerOf block)).getD 0
    | none => 0

def CollView.isMove (v : CollView) : Bool := v.kind == 2 || v.kind == 3

/-- Is member r a proper ancestor of member o in the tree of 11:R306? -/
def treeAbove : Nat → Nat → Nat → Bool
  | 0, _, _ => false
  | fuel + 1, r, o => if o = 0 then false else decide ((o - 1) / 2 = r) || treeAbove fuel r ((o - 1) / 2)

/-- The members below member r, itself not counted. -/
def treeBelow (m r : Nat) : Nat := (List.range m).countP (fun o => treeAbove 32 r o)

/-- The members right below member r in the tree. -/
def CollView.children (v : CollView) (r : Nat) : List Nat := (List.range v.m).filter (fun o => decide (0 < o ∧ (o - 1) / 2 = r))

/-- The barges that member o passes up the tree for a block: one combined value, or all contributions below it where it forwards. -/
def CollView.passes (v : CollView) (o : Nat) : Nat :=
  if !v.innet then 1 + treeBelow v.m o else if v.lacking.contains o then 1 + (v.children o).length else 1

/-- How many contributions of others this member takes in for a block before it is done with the upward part. -/
def CollView.expected (v : CollView) (g : Image) (block : Nat) : Nat :=
  let c := block % v.m
  let prev := (v.me + v.m - 1) % v.m
  if v.isMove then
    if v.rec_.tree then (if treeAbove 32 v.me (g.origin v block) then 1 else 0) else 0
  else if v.rec_.tree then ((v.children v.me).map v.passes).sum
  else if v.me = c then 0
  else if v.innet then (if v.lacking.contains prev ∧ prev ≠ c then 2 else 1)
  else (v.me + v.m - c) % v.m

/-- Does this member have a contribution of its own to a block? -/
def CollView.contributes (v : CollView) (g : Image) (block : Nat) : Bool := !v.isMove || g.origin v block == v.me

/-- Where the running value of a block goes next, none where it is complete. -/
def CollView.up (v : CollView) (block : Nat) : Option Nat :=
  let c := block % v.m
  if v.rec_.tree then (if v.me = 0 then none else some ((v.me - 1) / 2))
  else if v.isMove then none
  else if (v.me + 1) % v.m = c then none else some ((v.me + 1) % v.m)

/-- Where a result goes on from this member. -/
def CollView.down (v : CollView) (g : Image) (block : Nat) : List Nat :=
  let c := block % v.m
  let next := (v.me + 1) % v.m
  if v.rec_.tree then v.children v.me
  else if v.isMove then (if next = g.origin v block then [] else [next])
  else if v.kind = 1 then
    -- only the completing member sends a reduced block, to its owner
    (if next = c then
      match (g.collOp v.rec_.coll).bind (fun o => g.owner o.dst) with
      | some t => (match v.rec_.members.findIdx? (fun p => g.nodeAt p == t.ownerOf block) with
        | some o => if o = v.me then [] else [o]
        | none => [])
      | none => []
     else [])
  -- the completed block goes around the ring up to the member before the completing one
  else if (next + 1) % v.m = c then [] else [next]

/-- This module's view of a collective of a slot, if it is a member. -/
def State.collView (s : State) (n : Nat) (g : Image) (c : Nat) : Option CollView :=
  match g.coll c with
  | none => none
  | some r =>
    match r.members.findIdx? (fun p => p == s.position n) with
    | none => none
    | some me =>
      let kind := g.collKind r
      let bit := if kind = 4 then 41 else 40
      let lacks (p : Nat) : Bool := (s.portsTo (g.nodeAt p)).any (fun q => (s.port q).partnerNode == g.nodeAt p && !(s.port q).partner.getLsbD bit)
      some ⟨r, kind, me, max 1 r.members.length, r.innet, (List.range r.members.length).filter (fun i => lacks (r.members.getD i 0))⟩

/-! ## Inbound routes and their homes (11:R297) -/

def Image.route (g : Image) (r : Nat) : Option LinkRoute := g.linkRoutes.find? (fun x => x.number == r)

/-- The slot of a home that the barge of an index takes. -/
def Home.slotOf (h : Home) (i : Nat) : Nat := h.slots.getD (i % max 1 h.slots.length) 0

def Slot.home (sl : Slot) (collective : Bool) (number : Nat) : Option Home :=
  sl.place.homes.find? (fun h => h.collective == collective && h.number == number)

/-- The send of a route: the pound and the tick of its issue and the barges it carries, from the record that names the route (11:R285, R286). -/
def Image.sendOf (g : Image) (r : Nat) : Option (Nat × Nat × Nat) :=
  match g.instrs.find? (fun i => i.engine == 7 && bits i.args.toNat 137 122 == r) with
  | some i => some (i.pound, i.offset, bits i.args.toNat 121 102)
  | none =>
    match g.instrs.find? (fun i => i.engine == 5 && ((g.dmaOf i.cell).bind (fun d => d.descrs[bits i.args.toNat 156 142]?)).any (fun d => d.route == r)) with
    | some i => ((g.dmaOf i.cell).bind (fun d => d.descrs[bits i.args.toNat 156 142]?)).map (fun d => (i.pound, i.offset, ceilDiv d.length 4096))
    | none => none

/-- The barges that a route's release moves. -/
def Image.bargesOf (g : Image) (r : LinkRoute) : Nat := match g.sendOf r.number with
  | some x => x.2.2
  | none => r.barges

/-- The key of a lay-by slot. The maxima of a global survey take no slot; they wait under a number from 4,096 on. -/
def slotKey (die i : Nat) : Nat := die * 2 ^ 40 + i
def slotDie (key : Nat) : Nat := key / 2 ^ 40
def surveySlot (n coll : Nat) : Nat := 4096 + n * 2 ^ 33 + coll

def State.linkSlot (s : State) (key : Nat) : Option LinkSlot := sget none s.lnk.slots key

/-- A barge into a lay-by slot of its home die. -/
def State.fillSlot (s : State) (h : Home) (place : Nat) (v : LinkSlot) : State :=
  let key := slotKey h.die (h.slotOf place)
  { s with lnk := { s.lnk with slots := sset none s.lnk.slots key (some v) } }

/-! ## Barges over a link (11:R267, R282, R285) -/

/-- A barge as it leaves for a position: CTX and GEN are those of the receiving context (10:R267), 0 for a shared base (10:R268). -/
def retag (shared : Bool) (p : Bytes) (t : BitVec 256) (j : Join) : BitVec 256 :=
  if shared then t else if tagOk p t then sealTag p (setTag (setTag t.toNat 42 40 j.slot.toNat) 39 32 j.gen.toNat) else t

/-- Sends one barge of a route or a collective to a position. -/
def State.sendBarge (s : State) (n : Nat) (g : Image) (pos : Nat) (collective : Bool) (number index : Nat) (p : Bytes) (t : BitVec 256) : State :=
  match (s.slot n).joinOf pos with
  | none => s
  | some j => s.sendNode (g.nodeAt pos) (.barge ⟨collective, BitVec.ofNat 32 number, BitVec.ofNat 32 index⟩ 0 p (retag (g.isShared (tagTensor t)) p t j))

/-! ## The budget check (11:R299) -/

/-- Port time of one barge in ps at a width in lanes. -/
def bargePs (width : Nat) : Nat := if width = 1 then 82880 else if width = 2 then 41440 else 20720

/-- The ticks of one leg with n barges over a path: latency in ps and narrowest width. -/
def legTicks (n : Nat) (p : Path) : Nat × Nat :=
  (max (64 * n) (ceilDiv (3 * n * bargePs p.width) 1000), ceilDiv (3 * (p.delta + 96000 * p.hops)) 1000)

def noPath : Path := ⟨0, [], 0, 0, 4⟩

def State.pathOr (s : State) (node : Nat) : Path := (s.pathTo node).getD noPath

/-- The path of a leg between two members. -/
def State.edgePath (s : State) (a b : Nat) : Path := if a = s.node then s.pathOr b else bestPath s.fabric a b

/-- The blocks of a tensor: its element barges and its scale barges (06:R157, R163). -/
def Layout.blocks (l : Layout) : List Nat := List.range l.elemBarges ++ (List.range l.scaleBarges).map (l.scaleBlock0 + ·)

/-- The blocks that a collective moves; a survey counts as one. -/
def CollView.blocks (v : CollView) (g : Image) : List Nat :=
  if v.kind = 4 then [0] else ((g.collOp v.rec_.coll).bind (fun o => g.lay o.src0)).elim [] (fun l => l.blocks)

/-- The members that this one sends a block to: the running value where it has one, and the result. -/
def CollView.targets (v : CollView) (g : Image) (b : Nat) : List Nat :=
  let o := g.origin v b
  (if v.isMove && !(v.me == o || treeAbove 32 v.me o) then [] else (v.up b).toList) ++ v.down g b

/-- The legs of a collective that carry something (11:R300, R306): pairs of positions, from and to. -/
def Image.legs (g : Image) (c : CollRec) : List (Nat × Nat) :=
  (List.range c.members.length).flatMap (fun i =>
    let v : CollView := ⟨c, g.collKind c, i, max 1 c.members.length, c.innet, []⟩
    (((v.blocks g).flatMap (v.targets g)).eraseDups).map (fun r => (c.members.getD i 0, c.members.getD r 0)))

/-- The sequential steps of a collective (11:R306): the barges of a step on one leg, and the legs that run in it. -/
def CollView.steps (v : CollView) (g : Image) : List (Nat × List (Nat × Nat)) :=
  let blocks := v.blocks g
  let from_ (r : Nat) : Nat := blocks.countP (fun b => g.origin v b == r)
  let n := blocks.length
  let m := v.m
  if v.rec_.tree then
    let depth := Nat.log2 m
    let level (d : Nat) : List Nat := (List.range m).filter (fun o => Nat.log2 (o + 1) == d)
    let carries (o : Nat) : Nat :=
      if v.isMove then ((List.range m).filter (fun r => r == o || treeAbove 32 o r)).foldl (fun a r => a + from_ r) 0
      else if v.innet then n else (1 + treeBelow m o) * n
    let up := (List.range depth).map (fun i => (((level (depth - i)).map carries).foldl max 0, (level (depth - i)).map (fun o => (o, (o - 1) / 2))))
    let down := (List.range depth).map (fun i => (n, (level (i + 1)).map (fun o => ((o - 1) / 2, o))))
    (up.filter (fun y => y.1 != 0)) ++ down
  else
    let ring := (List.range m).map (fun r => (r, (r + 1) % m))
    let chunk := ceilDiv n m
    let reduce := (List.range (m - 1)).map (fun t => (if v.innet then chunk else (t + 1) * chunk, ring))
    let gather := List.replicate (m - 1) (chunk, ring)
    match v.kind with
    | 1 =>
      let moved := blocks.filterMap (fun b => (g.collOp v.rec_.coll).bind (fun o => (g.owner o.dst).bind (fun t =>
        (v.rec_.members.findIdx? (fun p => g.nodeAt p == t.ownerOf b)).map (fun o => ((b % m + m - 1) % m, o)))))
      let moved := moved.filter (fun y => y.1 != y.2)
      reduce ++ (if moved.isEmpty then [] else [((moved.eraseDups.map (fun y => moved.count y)).foldl max 0, moved.eraseDups)])
    | 2 => List.replicate (m - 1) (((List.range m).map from_).foldl max 0, ring)
    | 3 => List.replicate (m - 1) (n, ring)
    | _ => reduce ++ gather

/-- The need of one step: the slowest of its legs (11:R299). -/
def State.stepTicks (s : State) (g : Image) (v : CollView) (y : Nat × List (Nat × Nat)) : Nat :=
  (y.2.map (fun e =>
    let l := legTicks y.1 (s.edgePath (g.nodeAt (v.rec_.members.getD e.1 0)) (g.nodeAt (v.rec_.members.getD e.2 0)))
    l.1 + l.2 + 64)).foldl max 0

/-- The phase in which a route is released: that of its cell, or of the cell that sends (07:R195, 11:R285). -/
def Image.routePhase (g : Image) (fold : Nat) (r : LinkRoute) : Nat :=
  ((if r.toScratchpad then some r.cell else (g.routeRec r).map (·.cell)).bind (fun c => g.cells[c]?)).elim 0 (fun c => c.phase fold)

/-- The phase in which the record that sends on a route issues. -/
def Image.sendPhase (g : Image) (fold : Nat) (r : LinkRoute) : Nat :=
  ((g.routeRec r).bind (fun i => g.cells[i.cell]?)).elim 0 (fun c => c.phase fold)

/-- Ticks from one point of the step to another under a fold factor, each given as its pound and the tick of it (07:R195). -/
def Image.spanTicks (g : Image) (fold p0 t0 p1 t1 : Nat) : Int :=
  (((List.range (p1 - p0)).foldl (fun a i => a + g.poundLen (p0 + i)) 0 * fold + t1 : Nat) : Int) - t0

/-- The latency along the sill tree from the root to a member, in ps: the path of each edge and 96 ns; a tree of M members has at most M − 1 edges on a way. -/
def State.treeDepth (s : State) (g : Image) : Nat → Nat → Nat
  | 0, _ => 0
  | fuel + 1, pos =>
    match g.parentOf pos with
    | none => 0
    | some q =>
      let p := s.edgePath (g.nodeAt q) (g.nodeAt pos)
      p.delta + 96000 * p.hops + 96000 + State.treeDepth s g fuel q

/-- The deficits of a context: kind (1 route, 2 collective, 3 sill), number, deficit. -/
def State.deficits (s : State) (n : Nat) (g : Image) : List (Nat × Nat × Int) :=
  let fold := (s.slot n).place.fold
  let routes := (g.linkRoutes.filter (fun r => r.dst == s.position n)).filterMap (fun r =>
    (g.sendOf r.number).map (fun x =>
      let p := s.pathOr (g.nodeAt r.src)
      let l := legTicks r.barges p
      let need := 320 + l.1 + l.2
      (1, r.number, (need : Int) - g.spanTicks fold x.1 (g.sendPhase fold r * g.poundLen x.1 + x.2.1) r.pound (g.routePhase fold r * g.poundLen r.pound + r.tick))))
  let colls := g.colls.filterMap (fun r => (s.collView n g r.coll).map (fun v =>
    let need := (v.steps g).foldl (fun a y => a + s.stepTicks g v y) 320
    (2, r.coll, (need : Int) - g.spanTicks fold r.issuePound ((fold - 1) * g.poundLen r.issuePound + r.issueTick)
      r.releasePound ((fold - 1) * g.poundLen r.releasePound + r.releaseTick))))
  let sill := if g.modules ≤ 1 then [] else
    let d := (List.range g.modules).foldl (fun a p => max a (s.treeDepth g g.modules p)) 0
    let need := 128 + ceilDiv (6 * d) 1000
    [(3, 0, (need : Int) - ((g.pounds.map (·.lead)).foldl min (g.pounds.headD ⟨0, 0⟩).lead : Nat))]
  routes ++ colls ++ sill

/-- LNK_BUDGET: the worst deficit of the contexts at their last checks. -/
def State.budgetWorst (s : State) : State :=
  match sortBy (fun a b => decide (b.2.2 ≤ a.2.2)) ((List.range 8).flatMap (fun n => (s.slot n).short)) with
  | [] => { s with lnk := { s.lnk with budgetId := 0, budgetKind := 0, budgetDeficit := 0 } }
  | d :: _ => { s with lnk := { s.lnk with
      budgetId := BitVec.ofNat 32 d.2.1, budgetKind := BitVec.ofNat 2 d.1, budgetDeficit := BitVec.ofNat 24 (min d.2.2 (2 ^ 24 - 1)) } }

/-- The budget check of a context: an event for each item that becomes short, the worst deficit in LNK_BUDGET. -/
def State.budgetCheck (s : State) (n : Nat) : State :=
  match (s.slot n).image with
  | none => s
  | some g =>
    let ds := (s.deficits n g).filter (fun d => decide (0 < d.2.2))
    let sl := s.slot n
    let fresh := ds.filter (fun d => !sl.short.any (fun y => y.1 == d.1 && y.2.1 == d.2.1))
    let s := fresh.foldl (fun s d =>
      let die := ((sl.home (d.1 == 2) d.2.1).map (·.die)).getD 0
      s.post 0x4001 (srcLink die) (some n) (payload [(0, 4, d.2.2.toNat), (4, 1, d.1), (8, 4, d.2.1)])) s
    (s.modSlot n (fun sl => { sl with short := ds.map (fun d => (d.1, d.2.1, d.2.2.toNat)) })).budgetWorst

/-- Every loaded context that has started checks again: after a change of width or path, or of a latency by more than 10 ns. -/
def State.budgetAll (s : State) : State :=
  (List.range 8).foldl (fun s n => match (s.slot n).state with
    | .idle => if (s.slot n).started then s.budgetCheck n else s
    | .active => s.budgetCheck n
    | _ => s) s

end Sys2Proof.Machine
end

