-- ==== Sys2Proof/Machine/Dma.lean ====
section
/-! DEFINITION. The DMA engine of a cell (10:R271 to R278), its memory-read lay-by (07:R187, 10:R269), in-package sends (07:R185) and link sends (11:R282). -/

namespace Sys2Proof.Machine

open Sys2Proof

/-! ## Channels -/


/-- A cell at work in the current phase, with its logical cell's DMA records. -/
structure DmaSeat where
  slot : Nat
  g : Image
  bind : Binding
  fold : Nat
  dma : DmaCell
  deriving DecidableEq, Repr

def DmaSeat.key (d : DmaSeat) : Nat := cellKey d.bind.die d.bind.cell
def DmaSeat.seat (d : DmaSeat) : Seat := ⟨d.key, d.bind.phase * (spadBytes / d.fold), spadBytes / d.fold⟩

/-- A logical cell at work in a pound, as an issue of its DMA engine: what its accesses meet in the scratchpad. -/
def issueIn (slot : Nat) (g : Image) (b : Binding) (fold pound : Nat) : Issue := ⟨slot, g, ⟨b.logical, pound, 0, 5, 0, 0, 0⟩, noOp, b, fold⟩

def State.dmaSeat (s : State) (die cell : Nat) : Option DmaSeat :=
  match s.execImage with
  | none => none
  | some (n, g) =>
    match (s.slot n).place.bindings.find? (fun b => b.die == die && b.cell == cell && b.phase == s.sch.phase) with
    | none => none
    | some b =>
      match g.dmaOf b.logical with
      | none => none
      | some d =>
        if s.sch.state = .inPound ∧ (s.slot n).state = .active ∧ (s.cell (cellKey die cell)).inReset = false then
          some ⟨n, g, b, (s.slot n).place.fold, d⟩
        else none

/-! ## The scratchpad side (06:R160, 07:Table 7.1) -/

/-- The cell as the DMA engine, or a send, reads words in a tick. -/
def Issue.dmaCell (x : Issue) (c : Cell) (τ : Nat) (mine : List Nat) : Cell :=
  if c.landed.isEmpty && c.ports.isEmpty && [1, 2, 3].all (fun e => (x.mates e).isEmpty) then c
  else c.seen x.g.compat τ (x.aboveDma c false τ) mine

/-- The bytes of words that leave the scratchpad from tick τ on, one word per tick. -/
def Issue.wordsOut (x : Issue) (c : Cell) (τ : Nat) (ws : List Nat) : Bytes :=
  (List.zip (List.range ws.length) ws).flatMap (fun y => (x.dmaCell c (τ + y.1) [y.2]).bytes y.2 64)

/-- Is a word that comes in displaced by a write of higher priority of the cell's engines (06:R160, 07:Table 7.5)? `x` is the cell's work in that phase, if it has any. -/
def lostIn (x : Option Issue) (c : Cell) (τ a : Nat) : Bool :=
  match x with
  | some x => lostTo x.g.compat (x.aboveDma c true) τ a
  | none => false

/-- Words that enter the scratchpad: the tick, the place, the bytes of each. -/
def Cell.wordsAt (c : Cell) (x : Option Issue) (ws : List (Nat × Nat × Bytes)) : Cell :=
  c.land (ws.foldl (fun c y => c.setBytes y.2.1 y.2.2) c) (ws.flatMap (fun y => (List.range 64).map (fun i => (y.1, y.2.1 + i)))) (lostIn x c)

/-- Words that enter the scratchpad from tick τ on, one word per tick. -/
def Cell.wordsIn (c : Cell) (x : Option Issue) (τ : Nat) (ws : List Nat) (d : Bytes) : Cell :=
  let ys := (List.zip (List.range ws.length) ws).flatMap (fun y => (List.range 64).map (fun i => (τ + y.1, y.2 + i)))
  let c' := (List.zip (List.range ws.length) ws).foldl (fun c y => c.setBytes y.2 ((d.drop (64 * y.1)).take 64)) c
  c.land c' ys (lostIn x c)

/-- The work of a cell in the current phase of a context. -/
def State.workOf (s : State) (n key : Nat) : Option Issue :=
  ((s.slot n).image).bind (fun g => ((s.slot n).place.bindings.find? (fun b => cellKey b.die b.cell == key && b.phase == s.sch.phase)).map (fun b =>
    issueIn n g b (s.slot n).place.fold s.sch.pound))

/-- The layout that a descriptor's scratchpad side follows: that of its memory-side tensor, or for contributions that of the tensor that its operation reads (06:R157). -/
def DmaSeat.spadLay (d : DmaSeat) (r : Descr) (opId : Nat) : Option Layout :=
  if r.kind = 3 then (d.g.op opId).bind (fun o => d.g.lay o.src0) else d.g.lay r.mtensor

/-! ## Queues and the issue of a descriptor (10:R274, R276, R277) -/

def execDmaDescriptorWrite (k : Nat) (s : State) : Result :=
  match s.turn k 5 with
  | none => .next s
  | some x =>
    if x.op.opcode = 0x0310 ∨ x.op.opcode = 0x0311 ∨ x.op.opcode = 0x0312 then .next s else
    .next ((s.began k x).enqueue x)

/-- Bytes of a tensor's element barges: the range that a descriptor addresses (10:R272). -/
def Image.tensorBytes (g : Image) (t : Nat) : Nat := (g.lay t).elim 0 (fun l => l.elemBarges * 4096)

/-- Bytes on the memory side of n bytes of a descriptor: a contribution takes a cell of the region's type there (10:R278, 09:R249). -/
def Image.memBytes (g : Image) (d : Descr) (n : Nat) : Nat :=
  if d.kind = 3 then n / max 1 (fmtBits d.format / 8) * max 1 (fmtBits (g.fmt d.mtensor) / 8) else n

/-- The reason for which a descriptor with a displacement is refused at issue (10:R277): 1 misaligned, 2 out of range. -/
def refusal (g : Image) (d : Descr) (space : Nat) (mo sa : Int) : Option Nat :=
  let unit : Int := if d.kind = 2 then 4096 else 256
  if !(d.dynS || d.dynM) then none
  else if mo % unit ≠ 0 ∨ (d.kind ≠ 2 ∧ sa % 64 ≠ 0) then some 1
  else if mo < 0 ∨ (g.tensorBytes d.mtensor : Int) < mo + g.memBytes d d.length ∨ (d.kind ≠ 2 ∧ (sa < 0 ∨ (space : Int) < sa + d.length)) then some 2
  else none

/-- The byte offset on a side of what lies `done` bytes into an issue: linear, or circular from the descriptor's cursor (10:R276). -/
def sideOffset (start : Int) (wrap cursor done : Nat) : Nat :=
  if wrap = 0 then (start + (done : Nat)).toNat else start.toNat + (cursor + done) % 2 ^ wrap

/-- The key of a cursor: the context's descriptor of a logical cell (10:R276), its side. -/
def cursorKey (slot logical descr side : Nat) : Nat := 2 * ((slot * 65536 + logical) * 32768 + descr) + side

/-- The cursors of a context that a cell holds are 0 (10:R276). -/
def Cell.freshCursors (c : Cell) (slot : Nat) : Cell := { c with cursors := c.cursors.filter (fun y => y.1 / 2 / 32768 / 65536 != slot) }

def Cell.cursor (c : Cell) (d : DmaSeat) (descr side : Nat) : Nat := sget 0 c.cursors (cursorKey d.slot d.bind.logical descr side)

/-- The bursts of an issue on the memory side, from byte offset `off` on: linear, or within the 2^wrap bytes from `start` on; by the barges that they lie in, one after the other: the barge, and for each burst its byte in the barge and its byte in the issue. -/
def bargeRuns (start wrap off n : Nat) : List (Nat × List (Nat × Nat)) :=
  (List.range (ceilDiv n 256)).foldr (fun c l =>
    let o := if wrap = 0 then off + 256 * c else start + (off - start + 256 * c) % 2 ^ wrap
    match l with
    | y :: t => if y.1 = o / 4096 then (y.1, (o % 4096, 256 * c) :: y.2) :: t else (o / 4096, [(o % 4096, 256 * c)]) :: l
    | [] => [(o / 4096, [(o % 4096, 256 * c)])]) []

/-- The bursts of a descriptor's issue whose first byte on the memory side lies at `off`. -/
def Descr.runs (d : Descr) (off n : Nat) : List (Nat × List (Nat × Nat)) := bargeRuns (if d.dynM then off else d.moffset) d.mwrap off n

/-- The reader's request for barges that another module owns (11:R286). -/
def State.requestRoute (s : State) (d : DmaSeat) (r : Descr) (mo sa : Int) (descr : Nat) : State :=
  if r.kind = 0 ∧ r.route ≠ 0 then
    let off := sideOffset mo r.mwrap ((s.cell d.key).cursor d descr 0) 0
    let s := s.modCell d.key (fun c => { c with routeAt := sset none c.routeAt r.route (some ⟨sa.toNat, c.cursor d descr 1, off⟩) })
    match d.g.route r.route with
    | none => s
    | some x => s.sendNode (d.g.nodeAt x.src) (.routeRequest (BitVec.ofNat 16 r.route) (BitVec.ofNat 32 r.mtensor) off r.length)
  else s

/-- The head of a channel's queue becomes its current descriptor, at tick τ of the pound. -/
def State.issueDescriptor (s : State) (d : DmaSeat) (ch τ : Nat) : State :=
  let c := s.cell d.key
  match (c.channel ch).current, (c.channel ch).queue with
  | none, q :: rest =>
    match d.dma.descrs[q.descr]? with
    | none => s.modCell d.key (fun c => c.setChannel ch { c.channel ch with queue := rest })
    | some r =>
      let at_ := (List.range 8).map (fun i => d.seat.addr ((r.dynaddr + i : Nat)))
      let s := if r.dynS || r.dynM then s.spadRead d.key at_ else s
      let x := issueIn d.slot d.g d.bind d.fold s.sch.pound
      -- a gather or a scatter has moved its slices as its record issued (log entry 125): here it takes its slots
      if (d.g.op q.opId).any (fun o => isSliceOp o.opcode) then s.modCell d.key (fun c =>
        { (c.setChannel ch { c.channel ch with queue := rest, current := some ⟨q.descr, q.opId, q.part, q.tick, c.issues, r.moffset, r.saddr, 0, true, []⟩ }) with issues := c.issues + 1 }) else
      let disp := if r.dynS || r.dynM then signedOf 64 (leNat (at_.map (fun a => (x.dmaCell (s.cell d.key) τ at_).byte a))) else 0
      let mo : Int := r.moffset + (if r.dynM then disp else 0)
      let sa : Int := r.saddr + (if r.dynS then disp else 0)
      let begin_ (c : Cell) (refused : Bool) : Cell :=
        { (c.setChannel ch { c.channel ch with queue := rest, current := some ⟨q.descr, q.opId, q.part, q.tick, c.issues, mo, sa, 0, refused, []⟩ }) with issues := c.issues + 1 }
      match refusal d.g r d.seat.space mo sa with
      | some why =>
        let s := s.modCell d.key (fun c => { begin_ c true with
          dmaRefused := c.dmaRefused + 1
          dmaLast := ⟨1, BitVec.ofNat 3 ch, BitVec.ofNat 15 q.descr, BitVec.ofNat 4 why, 0⟩ })
        let s := s.post 0x1008 (srcDie d.bind.die) (some d.slot) (payload
          [(0, 4, q.opId), (4, 4, q.part), (8, 1, 3), (9, 1, d.bind.die), (10, 1, d.bind.cell), (11, 1, ch), (12, 2, q.descr)])
        s.faultAtSill d.slot
      | none => (s.modCell d.key (fun c => begin_ c false)).requestRoute d r mo sa q.descr
  | _, _ => s

/-- The tick of the pound at which the head of a channel's queue issues (10:R274): the first burst slot of the channel at or after its write tick + 8, after the slots that the channel has had, and not before the current tick; none if the phase has no such slot. -/
def State.issueTick (s : State) (d : DmaSeat) (ch : Nat) : Option Nat :=
  match ((s.cell d.key).channel ch).current, ((s.cell d.key).channel ch).queue with
  | none, q :: _ =>
    let len := d.g.poundLen s.sch.pound
    let base := d.bind.phase * len
    let from_ := max (max (q.tick + 8) ((s.cell d.key).channel ch).free) s.sch.tickIn - base
    let σ := nthSlot (pattern d.dma.weights) ch 17 ((from_ + 7) / 8) 0
    if (pattern d.dma.weights).getD (σ % 16) 0 = ch ∧ 8 * σ < len - len / 64 then some (base + 8 * σ) else none
  | _, _ => none

/-- The next descriptor of a channel issues, at its tick. -/
def execDescriptorIssue (die : Fin 16) (cell : Fin 68) (channel : Fin 8) (s : State) : Result :=
  match s.dmaSeat die.val cell.val with
  | none => .next s
  | some d =>
    match s.issueTick d channel.val with
    | none => .next s
    | some τ => .next ((s.tickTo τ).issueDescriptor d channel.val τ)

/-! ## Bursts -/


/-- Does one issue of the descriptor take all 16 bursts of a block (10:R264)? -/
def wholeBarge (r : Descr) (start : Int) (cursor block : Nat) : Bool :=
  (List.range (r.length / 256)).countP (fun i => sideOffset start r.mwrap cursor (256 * i) / 4096 == block) == 16

/-- Leaves a burst in the memory-read lay-by; the 65th overwrites the entry 64 places before it (07:R200). -/
def Cell.park (c : Cell) (b : Burst) : Cell :=
  { c with layby := sset none c.layby (c.laybyNext % 64) (some b), laybyNext := (c.laybyNext + 1) % 64 }

/-- A read burst (KIND 0). Barges that another module owns come by their route (11:R286). -/
def State.burstRead (s : State) (d : DmaSeat) (ch : Nat) (cur : Current) (r : Descr) (off sc tick : Nat) (whole : Bool) : State :=
  match s.bargeAddr d.slot d.g r.mtensor (off / 4096) with
  | none => s
  | some a => s.modCell d.key (fun c => c.park
      { slot := BitVec.ofNat 3 d.slot, gen := s.gen d.slot, tensor := r.mtensor, block := off / 4096, device := a + off % 4096,
        places := d.seat.words (d.spadLay r cur.opId) sc 4, release := tick + 900, index := off % 4096 / 256, channel := ch, descr := cur.descr
        issue := cur.issue, whole := whole, data := none, stale := false })

/-- A whole barge taken out of the scratchpad is sealed and leaves for its owner (10:R263): for another module as the barge of that number of its route. -/
def State.sendOut (s : State) (d : DmaSeat) (r : Descr) (block index : Nat) (p : Bytes) : State :=
  let step := (s.slot d.slot).step.toNat
  let z := s.seal d.slot d.g r.mtensor block (sourceCell d.bind.die d.bind.cell) step p
  let node := s.ownerNode d.g r.mtensor block
  match s.bargeAddr d.slot d.g r.mtensor block with
  | some a =>
    let s := s.snag d.key d.slot r.mtensor block node 0
    { s with flight := { s.flight with barges := s.flight.barges ++ [⟨a, z.1, z.2, none⟩] } }
  | none =>
    match d.g.route r.route with
    | none => s
    | some x => (s.snag d.key d.slot r.mtensor block (d.g.nodeAt x.dst) 2).sendBarge d.slot d.g x.dst false r.route index z.1 z.2

/-- The bursts of the whole barges in progress. -/
def State.setParts (s : State) (key ch : Nat) (parts : List (Nat × Bytes)) : State :=
  s.modCell key (fun c => c.setChannel ch { c.channel ch with current := (c.channel ch).current.map (fun u => { u with parts := parts }) })

/-- The number of a barge among those of an issue. -/
def DmaSeat.bargeNumber (d : DmaSeat) (c : Cell) (cur : Current) (r : Descr) (block : Nat) : Nat :=
  ((r.runs (sideOffset cur.moffset r.mwrap (c.cursor d cur.descr 0) 0) r.length).findIdx? (fun y => y.1 == block)).getD 0

/-- A write burst (KIND 1): part of a whole barge, or a write into a barge. -/
def State.burstWrite (s : State) (d : DmaSeat) (ch : Nat) (cur : Current) (r : Descr) (off sc tick : Nat) (whole : Bool) : State :=
  let ws := d.seat.words (d.spadLay r cur.opId) sc 4
  let s := s.spadRead d.key (bytePlaces ws)
  let data := (issueIn d.slot d.g d.bind d.fold s.sch.pound).wordsOut (s.cell d.key) tick ws
  if whole then
    let parts := cur.parts ++ [(off / 256, data)]
    let mine := sortBy (fun a b => decide (a.1 ≤ b.1)) (parts.filter (fun y => y.1 / 16 == off / 4096))
    if mine.length = 16 then
      (s.setParts d.key ch (parts.filter (fun y => y.1 / 16 != off / 4096))).sendOut d r (off / 4096) (d.bargeNumber (s.cell d.key) cur r (off / 4096)) (mine.flatMap (·.2))
    else s.setParts d.key ch parts
  else
    match s.bargeAddr d.slot d.g r.mtensor (off / 4096) with
    | none => s
    | some a => { s with flight := { s.flight with parts := s.flight.parts ++ [⟨a + off % 4096, data, BitVec.ofNat 3 d.slot, s.gen d.slot, none, d.bind.die, d.bind.cell⟩] } }

/-- The survey records of the anchored words of a barge move with them (02:R58), place by place. -/
def State.copyAnchors (s : State) (d : DmaSeat) (r : Descr) (b b2 : Nat) : State :=
  match d.g.lay r.mtensor, d.g.lay r.m2tensor with
  | some l, some l2 => s.moveAnchorsOf d.slot d.g r.mtensor r.m2tensor l2
      ((List.zip (l.bargePositions b) (l2.bargePositions b2)).filterMap (fun y => (l2.posIndex y.2).map (fun e => (e, l.posIndex y.1))))
  | _, _ => s

/-- A memory-to-memory copy (KIND 2): each burst is read in its slot; after the last burst of a barge the source die checks it and the destination die re-seals it with the destination's tag (hop 4). -/
def State.burstCopy (s : State) (d : DmaSeat) (ch : Nat) (cur : Current) (r : Descr) (off dest : Nat) : State :=
  let b := off / 4096
  match s.bargeAddr d.slot d.g r.mtensor b, s.bargeAddr d.slot d.g r.m2tensor (dest / 4096) with
  | some a, some a2 =>
    let rd : Reader := ⟨0, d.bind.die, d.bind.cell, some d.slot⟩
    let x := s.readRange rd (a + off % 4096) 256
    let s := x.1.afterRead rd x.2.2
    let parts := cur.parts ++ [(off / 256, x.2.1)]
    let mine := sortBy (fun a b => decide (a.1 ≤ b.1)) (parts.filter (fun y => y.1 / 16 == b))
    if mine.length < 16 then s.setParts d.key ch parts
    else
      let s := s.setParts d.key ch (parts.filter (fun y => y.1 / 16 != b))
      let p := mine.flatMap (·.2)
      let tag := s.mem.bargeTag a
      if !tagOk p tag || tagTensor tag != r.mtensor || tagBlock tag != b then (s.towFail 4).failedHopTag 4 (srcStack (stackOf a)) tag
      else
        let z := s.seal d.slot d.g r.m2tensor (dest / 4096) (sourceStack (stackOf a2)) (s.slot d.slot).step.toNat p
        ((s.snag d.key d.slot r.m2tensor (dest / 4096) s.node 0).writeBarge a2 z.1 z.2).copyAnchors d r b (dest / 4096)
  | _, _ => s

/-- Where a record writes an anchored tensor into its cell's scratchpad: the address of the tensor's first byte. -/
def Issue.standsAt (x : Issue) (t : Nat) : Option Int :=
  let at_ (addr : Nat) (p : Layout → Nat) : Option Int := (x.g.lay t).bind (fun l => (x.operand t addr (p l)).map (·.vbase))
  match x.rc.engine with
  | 1 => if x.op.dst = t ∧ x.arg 71 70 % 2 = 1 then (x.tilePlan (fun _ => false)).bind (fun w => at_ (x.arg 93 72) (fun l => l.posOf [w.row0, w.col0])) else none
  | 4 => if x.op.dst ≠ t then none else if x.op.opcode = 0x0310 then at_ (x.arg 137 116) (fun l => l.sliceStart (x.param 2 0) (x.arg 93 62)) else at_ (x.arg 137 116) (fun _ => x.arg 93 62)
  | 5 => x.descr.bind (fun d => if d.kind = 0 ∧ d.mtensor = t then some ((d.saddr : Int) - (d.moffset : Nat)) else none)
  | _ => none

/-- Where the last record before a point of the schedule has written a tensor in a logical cell. -/
def Image.standsAt (g : Image) (cell t pound tick : Nat) : Option Int :=
  ((g.instrs.filter (fun r => r.cell == cell && decide (r.pound < pound ∨ (r.pound = pound ∧ r.offset < tick)))).filterMap (fun r =>
    (g.op r.opId).bind (fun o => Issue.standsAt ⟨0, g, r, o, ⟨cell, 0, 0, 0, false⟩, 1⟩ t))).getLast?

/-- The anchors of the elements that a burst of contributions carries (02:R61): those of the tensor that the operation contributes, by the elements' own places. `sc` is their scratchpad address; where no record of the cell has written the tensor, it stands as the region does (log entry 185). -/
def State.burstAnchors (s : State) (d : DmaSeat) (opId format sc tick first n : Nat) : List Int :=
  if isAncFmt format then
    match d.g.op opId with
    | none => []
    | some o =>
      let t := if d.g.fmt o.src0 = format then o.src0 else o.dst
      match d.g.lay t with
      | none => []
      | some l =>
        let z : Int := max 1 (fmtBits format / 8)
        let p0 := match d.g.standsAt d.bind.logical t s.sch.pound tick with
          | some base => (((sc : Nat) - base) / z).toNat
          | none => first
        (List.range n).map (fun j => s.anchorOf d.slot d.g t ((l.posIndex (p0 + j)).getD 0))
  else []

/-- A burst of contributions (KIND 3). -/
def State.burstAdd (s : State) (d : DmaSeat) (cur : Current) (r : Descr) (off sc tick : Nat) : State :=
  let ws := d.seat.words (d.spadLay r cur.opId) sc 4
  let s := s.spadRead d.key (bytePlaces ws)
  let data := (issueIn d.slot d.g d.bind d.fold s.sch.pound).wordsOut (s.cell d.key) tick ws
  let z := max 1 (fmtBits r.format / 8)
  let cb := max 1 (fmtBits (d.g.fmt r.mtensor) / 8)
  let b : AccBurst := { slot := BitVec.ofNat 3 d.slot, gen := s.gen d.slot, tensor := BitVec.ofNat 32 r.mtensor, offset := BitVec.ofNat 64 (off / cb * cb)
                        format := r.format, data := data, crc := 0, opId := cur.opId, anchors := s.burstAnchors d cur.opId r.format sc (tick - d.bind.phase * d.g.poundLen s.sch.pound) (off / cb) (256 / z)
                        expect := BitVec.ofNat 32 r.mtensor }
  let s := s.snag d.key d.slot r.mtensor (cur.moffset.toNat / 4096) (s.ownerNode d.g r.mtensor (cur.moffset.toNat / 4096)) 1
  { s with flight := { s.flight with bursts := s.flight.bursts ++ [{ b with crc := crc32c b.covered }] } }

/-- The channel moves on: the next burst, or after the last one the cursors (10:R276), which a refused issue leaves as they are (log entry 186). -/
def Cell.advance (c : Cell) (d : DmaSeat) (ch : Nat) (cur : Current) (r : Descr) : Cell :=
  let parts := ((c.channel ch).current.elim [] (fun u => u.parts))
  if cur.burst + 1 < r.length / 256 then
    c.setChannel ch { c.channel ch with current := some { cur with burst := cur.burst + 1, parts := parts } }
  else
    let step (c : Cell) (side wrap n : Nat) : Cell :=
      if wrap = 0 ∨ cur.refused then c
      else { c with cursors := sset 0 c.cursors (cursorKey d.slot d.bind.logical cur.descr side) ((c.cursor d cur.descr side + n) % 2 ^ wrap) }
    step (step (c.setChannel ch { c.channel ch with current := none }) 0 r.mwrap (d.g.memBytes r r.length)) 1 r.swrap r.length

/-- The next burst of a channel's current descriptor in a slot at a tick of the phase. -/
def State.burst (s : State) (d : DmaSeat) (ch tick : Nat) : State :=
  match ((s.cell d.key).channel ch).current with
  | none => s
  | some cur =>
    match d.dma.descrs[cur.descr]? with
    | none => s
    | some r =>
      let pt := d.bind.phase * d.g.poundLen s.sch.pound + tick
      if pt < cur.tick + 8 then s
      else if cur.refused then s.modCell d.key (fun c => c.advance d ch cur r)
      else
        let c := s.cell d.key
        let off := sideOffset cur.moffset r.mwrap (c.cursor d cur.descr 0) (d.g.memBytes r (256 * cur.burst))
        let sc := sideOffset cur.saddr r.swrap (c.cursor d cur.descr 1) (256 * cur.burst)
        let whole := wholeBarge r cur.moffset (c.cursor d cur.descr 0) (off / 4096)
        let s := s.modCell d.key (fun c => { c with dmaBursts := c.dmaBursts + 1 })
        let s := match r.kind with
          | 0 => s.burstRead d ch cur r off sc pt whole
          | 1 => s.burstWrite d ch cur r off sc pt whole
          | 2 => s.burstCopy d ch cur r off (r.m2offset + 256 * cur.burst)
          | _ => s.burstAdd d cur r off sc pt
        s.modCell d.key (fun c => c.advance d ch cur r)

/-- A burst slot that a channel has had is not had again. -/
def State.takeSlot (s : State) (d : DmaSeat) (ch pt : Nat) : State :=
  s.modCell d.key (fun c => c.setChannel ch { c.channel ch with free := pt + 1 })

/-- What a channel does in its burst slot: the head of its queue issues if this is its slot, and the current descriptor's next burst goes out (10:R274). -/
def State.slotWork (s : State) (d : DmaSeat) (ch tick : Nat) : State :=
  let pt := d.bind.phase * d.g.poundLen s.sch.pound + tick
  if pt < ((s.cell d.key).channel ch).free then s else
  let s := if s.issueTick d ch = some pt then s.issueDescriptor d ch pt else s
  (s.burst d ch tick).takeSlot d ch pt

/-- A burst slot of a cell: tick t of the phase with t mod 8 = 0 before the maintenance reserve, for channel pat[(t/8) mod 16] (10:R275). -/
def execBurstSlot (die : Fin 16) (cell : Fin 68) (tick : Nat) (s : State) : Result :=
  match s.dmaSeat die.val cell.val with
  | none => .next s
  | some d =>
    let len := d.g.poundLen s.sch.pound
    if tick % 8 = 0 ∧ tick < len - len / 64 then
      .next ((s.tickTo (d.bind.phase * len + tick)).slotWork d ((pattern d.dma.weights).getD (tick / 8 % 16) 0) tick)
    else .next s

/-! ## Returns and releases -/

/-- Does a burst belong to a barge that one issue reads? -/
def Arrival.is (a : Arrival) (b : Burst) : Bool := a.issue == b.issue && a.tensor == b.tensor && a.block == b.block

/-- All 16 bursts of a whole barge have arrived: the cell checks it. -/
def State.checkBarge (s : State) (key : Nat) (b : Burst) (p : Bytes) : State :=
  match (s.slot b.slot.toNat).image with
  | none => s
  | some g => s.checkRead key b.slot.toNat g b.tensor b.block b.channel b.descr (b.device / 4096 * 4096) p

/-- The bursts of a barge that have arrived, with one more. -/
def addArrival (l : List Arrival) (b : Burst) (d : Bytes) : List Arrival :=
  if l.any (Arrival.is · b) then l.map (fun a => if a.is b then { a with got := a.got ++ [(b.index, d)] } else a)
  else l ++ [⟨b.issue, b.tensor, b.block, [(b.index, d)]⟩]

/-- A burst's data returns into its lay-by entry (07:R189), or is dropped as late (10:R266). -/
def State.readReturn (s : State) (key entry : Nat) : State :=
  match sget none (s.cell key).layby entry with
  | none => s
  | some b =>
    if (s.cell key).inReset then (s.plankDrop 1).modCell key (fun c => { c with layby := sset none c.layby entry none })
    else if b.stale then s.modCell key (fun c => { c with layby := sset none c.layby entry none, towStale := c.towStale + 1 })
    else if b.data.isSome then s
    else if !s.baseRuns (stackOf b.device) then s.plankDrop 1
    else
      let rd : Reader := ⟨0, key / 68, key % 68, some b.slot.toNat⟩
      let x := s.readRange rd b.device 256
      let s := (x.1.afterRead rd x.2.2).modCell key (fun c => { c with layby := sset none c.layby entry (some { b with data := some x.2.1 }) })
      if b.whole then
        let l := addArrival (s.cell key).arrivals b x.2.1
        match l.find? (Arrival.is · b) with
        | none => s
        | some a =>
          if 16 ≤ a.got.length then
            let s := s.modCell key (fun c => { c with arrivals := l.filter (fun y => decide (y ≠ a)) })
            s.checkBarge key b ((sortBy (fun u v => decide (u.1 ≤ v.1)) a.got).flatMap (·.2))
          else s.modCell key (fun c => { c with arrivals := l })
      else s

def execMemoryReadReturn (die : Fin 16) (cell : Fin 68) (entry : Fin 64) (s : State) : Result :=
  .next (s.readReturn (cellKey die.val cell.val) entry.val)

/-- A present entry is released into the scratchpad and its slot is freed (07:R188). -/
def State.releaseMem (s : State) (key entry : Nat) : State :=
  match sget none (s.cell key).layby entry with
  | none => s
  | some b =>
    match b.data with
    | none => s
    | some d => s.modCell key (fun c => { (c.wordsIn (s.workOf b.slot.toNat key) b.release b.places d) with layby := sset none c.layby entry none })

/-! ## In-package sends (07:R185, R186) -/

/-- The layout of what a send of an operation carries: that of its destination, but row order for the partials of a matrix product whose destination is not anchored (log entries 19 and 22). -/
def Image.sentLay (g : Image) (o : OpRec) : Option Layout :=
  (g.lay o.dst).bind (fun l => if o.opcode = 0x0100 ∧ isAncFmt l.format = false then none else some l)

def Issue.sentLay (x : Issue) : Option Layout := x.g.sentLay x.op

/-- Bytes leave the source cell's scratchpad for another logical cell, one word per tick. -/
def State.packageSend (s : State) (k : Nat) (x : Issue) : State :=
  let s := s.began k x
  let ws := x.seat.words x.sentLay (x.arg 159 138) (x.arg 83 64)
  let s := s.spadRead x.key (bytePlaces ws)
  match (s.slot x.slot).place.bindings.find? (fun b => b.logical == x.arg 115 84) with
  | none => s
  | some b =>
    let dest : Seat := ⟨cellKey b.die b.cell, b.phase * (spadBytes / x.fold), spadBytes / x.fold⟩
    let t : PkgTransfer := { slot := ⟨x.slot % 8, Nat.mod_lt _ (by decide)⟩, srcDie := x.bind.die, dstDie := b.die, dstCell := b.cell
                             places := dest.words x.sentLay (x.arg 137 116) (x.arg 83 64), data := x.wordsOut (s.cell x.key) x.start ws, due := x.start + 192 }
    { s with flight := { s.flight with transfers := s.flight.transfers ++ [t] } }

def execInPackageSend (k : Nat) (s : State) : Result :=
  match s.turn k 6 with
  | none => .next s
  | some x => .next (s.packageSend k x)

/-- A transfer that does not reach its destination: the event, and the fault at the next sill (07:R186). -/
def State.transferLost (s : State) (t : PkgTransfer) : State :=
  (s.post 0x5008 srcFault (some t.slot.val) (payload [(0, 1, t.srcDie), (1, 1, t.dstDie)])).faultAtSill t.slot.val

/-- A transfer takes its place in the destination's scratchpad; a stop plank drops one for a cell in reset, which is then lost (13:R345). -/
def State.packageLand (s : State) (t : PkgTransfer) : State :=
  let key := cellKey t.dstDie t.dstCell
  if (s.cell key).inReset then (s.plankDrop 1).transferLost t
  else s.modCell key (fun c => c.wordsIn (s.workOf t.slot.val key) t.due t.places t.data)

/-- Is the package fabric's tick counter of a transfer frozen by a hold (07:R178)? -/
def State.frozen (s : State) (t : PkgTransfer) : Bool := s.sch.exec == some t.slot && s.sch.state == .holding

def execInPackageDelivery (i : Nat) (s : State) : Result :=
  match s.flight.transfers[i]? with
  | none => .next s
  | some t =>
    if s.frozen t then .next s else
    let s := { s with flight := { s.flight with transfers := s.flight.transfers.eraseIdx i } }
    let s := if s.sch.exec = some t.slot ∧ s.sch.state = .inPound then s.tickTo t.due else s
    .next (s.packageLand t)

/-- A transfer that has not arrived at its 192nd tick (07:R186). -/
def execFabricTransferLate (i : Nat) (s : State) : Result :=
  match s.flight.transfers[i]? with
  | none => .next s
  | some t =>
    if s.frozen t then .next s else
    let s := { s with flight := { s.flight with transfers := s.flight.transfers.eraseIdx i } }
    .next (s.transferLost t)

/-! ## Link sends (11:R282) -/

/-- Barge i of a link send: read in ticks issue + 64i on, sealed by the cell, passed to a link die (log entry 22: the tensor is the operation's destination). Its snag entry names the node at the end of the route (13:Table 13.2). -/
def State.linkBarge (s : State) (x : Issue) (r : LinkRoute) (first i : Nat) : State :=
  let ws := x.seat.words x.sentLay ((x.arg 159 138 + 4096 * i : Nat)) 64
  let s := s.spadRead x.key (bytePlaces ws)
  let p := x.wordsOut (s.cell x.key) (x.start + 64 * i) ws
  let b := first + i
  let z := s.seal x.slot x.g x.op.dst b (sourceCell x.bind.die x.bind.cell) (s.slot x.slot).step.toNat p
  let s := s.snag x.key x.slot x.op.dst b (x.g.nodeAt r.dst) 2
  s.sendBarge x.slot x.g r.dst false r.number i z.1 z.2

def execLinkSend (k : Nat) (s : State) : Result :=
  match s.turn k 7 with
  | none => .next s
  | some x =>
    let s := s.began k x
    match x.g.route (x.arg 137 122) with
    | none => .next s
    | some r =>
      let first := partStart x (fun i => bits i.args.toNat 121 102)
      .next ((List.range (x.arg 121 102)).foldl (fun s i => s.linkBarge x r first i) s)

end Sys2Proof.Machine
end

