-- ==== Sys2Proof/Machine/Digests.lean ====
section
/-! DEFINITION. What a digest point digests beside the results that this module's own operations write: a tensor as the module holds it at the point, and what routes bring (01:R31 to R35). -/

namespace Sys2Proof.Machine

open Sys2Proof

/-! ## The moment of a point (log entry 15) -/

/-- The pounds in which the writes of a point's tensor up to its OP_ID come about: those of the records of these operations, of the routes that bring their results, and of the close of a region. -/
def Image.pointPounds (g : Image) (d : DigestRec) : List Nat :=
  let closes (op : Nat) : Bool := (g.region d.tensor).any (fun q => q.opId == op && decide (op ≤ d.opId))
  (g.instrs.filter (fun r => r.engine != 0 && ((g.pointOps d).contains r.opId || closes r.opId))).map (·.pound) ++
  (g.linkRoutes.filter (fun r => (g.routeRec r).any (fun i => (g.pointOps d).contains i.opId))).map (·.pound)

/-- The pound at whose end a point stands, none where it stands before the first: no operation up to its OP_ID writes the tensor. -/
def Image.pointPound (g : Image) (d : DigestRec) : Option Nat := (g.pointPounds d).max?

/-! ## Held elements -/

/-- The bytes of a barge in device memory with the writes that are on their way to it (07:R181: they land in the pound). -/
def State.landingOn (s : State) (a : Nat) (p : Bytes) : Bytes :=
  let p := (s.flight.barges.filter (fun v => v.device == a)).foldl (fun _ v => v.payload) p
  (s.flight.parts.filter (fun v => decide (a ≤ v.device ∧ v.device < a + 4096))).foldl (fun p v => patch p (v.device - a) v.data) p

/-- Barges of a tensor that the module holds, as read from device memory: the module's own image read (09:R241 to R243). -/
def State.heldBarges (s : State) (n : Nat) (g : Image) (tensor : Nat) (bs : List Nat) : State × List (Nat × Bytes) :=
  bs.foldl (fun a b => match a.1.bargeAddr n g tensor b with
    | none => a
    | some d =>
      let x := a.1.readWords (controlReader (some n)) (d / 64) 64
      (x.1.afterRead (controlReader (some n)) x.2.2, a.2 ++ [(b, x.1.landingOn d x.2.1)])) (s, [])

/-- The element barge of a logical index, and the barge of its scale. -/
def Layout.bargesOfElem (l : Layout) (i : Nat) : List Nat :=
  let p := l.pos i
  (l.byteOf p).1 / 4096 :: (if l.separate then [l.scaleBlock0 + p / 32 / 4096] else [])

/-- An element out of barges: its scale byte and its bits. -/
def Layout.elementOf (l : Layout) (bs : List (Nat × Bytes)) (i : Nat) : Option (Nat × Nat × Nat) :=
  let p := l.pos i
  let y := l.byteOf p
  let at_ (b k : Nat) : Nat := ((bs.find? (fun z => z.1 == b)).elim 0 (fun z => (z.2.getD k 0).toNat))
  (bs.find? (fun z => z.1 == y.1 / 4096)).map (fun z =>
    (i, (if !isBlockFmt l.format then 0 else if l.interleaved then at_ (l.interScale p / 4096) (l.interScale p % 4096)
         else at_ (l.scaleBlock0 + p / 32 / 4096) (p / 32 % 4096)),
      leNat ((z.2.drop (y.1 % 4096)).take l.elemBytes) / 2 ^ y.2 % 2 ^ fmtBits l.format))

/-- The elements of a point's tensor that this module digests and has not digested yet. -/
def State.undigested (s : State) (n : Nat) (g : Image) (d : DigestRec) (l : Layout) : List Nat :=
  let a := accOf (s.slot n).digests d.point
  (List.range l.count).filter (fun i => s.digestsHere g d l i && (sget none a.elems i).isNone)

/-- The points that stand at this moment: what the module holds of their tensors in device memory and no operation of its own has digested in passing (01:R34, R35). -/
def State.digestHeld (s : State) (n : Nat) (g : Image) (pound : Option Nat) : State :=
  (g.digests.filter (fun d => g.pointPound d == pound)).foldl (fun s d => match g.lay d.tensor with
    | none => s
    | some l =>
      let is := s.undigested n g d l
      let x := s.heldBarges n g d.tensor ((is.flatMap l.bargesOfElem).eraseDups)
      x.1.addElems n g d l pound.isSome (is.filterMap (l.elementOf x.2))) s

/-! ## Landings of routes -/

/-- A barge that a route brings into device memory takes the place of what was digested of it: it is read when the point stands. -/
def State.digestAgain (s : State) (n : Nat) (g : Image) (r : LinkRoute) (tensor b : Nat) : State :=
  match g.lay tensor with
  | none => s
  | some l => (g.digests.filter (fun d => d.tensor == tensor && g.routeAtPoint d r)).foldl (fun s d =>
      s.modSlot n (fun sl => { sl with digests := sl.digests.map (fun a =>
        if a.point = d.point then { a with elems := a.elems.filter (fun e => !(l.bargesOfElem e.1).contains b) } else a) })) s

/-- A barge that a route brings into a scratchpad, of a tensor that has no place in device memory: its elements are digested as they stand there (01:R34, R35). -/
def State.digestLanding (s : State) (n : Nat) (g : Image) (r : LinkRoute) (seat : Seat) (tag : BitVec 256) (start : Nat) : State :=
  let t := tagTensor tag
  match g.tensor t, g.lay t with
  | some tr, some l =>
    let ps := l.bargePositions (tagBlock tag)
    match ps with
    | [] => s
    | p0 :: _ =>
      let o := operandAt tr l start p0
      let c := s.cell seat.key
      let es := ps.filterMap (fun p => (l.posIndex p).map (fun i => (i, o.scale seat c p, o.bits seat c p)))
      if (g.memRec t).isSome then s else
      (g.digests.filter (fun d => d.tensor == t && g.routeAtPoint d r)).foldl (fun s d => s.addElems n g d l true es) s
  | _, _ => s

end Sys2Proof.Machine
end

