-- ==== Sys2Proof/Machine/Fabric.lean ====
section
/-! DEFINITION. The link dies (chapter 11): port states, measurement, retry, lane loss, barge packets, joins, loss of members, remote reads, collectives and global surveys. -/

namespace Sys2Proof.Machine

open Sys2Proof

/-! ## Port states (11:R291, R292) -/

/-- A port changes its state; departures from UP and entries to FAILED count (11:Table 11.8). -/
def Port.to (p : Port) (st : PortState) : Port :=
  let n := (if p.state = .up ∧ st ≠ .up then 1 else 0) + (if st = .failed ∧ p.state ≠ .failed then 1 else 0)
  { p with state := st, downs := p.downs + BitVec.ofNat 64 n, lanesUp := if st = .up then p.lanesUp else 0 }

/-- The width code that trained lanes support (11:R292). -/
def laneWidth (lanes : BitVec 4) : BitVec 2 :=
  if lanes = 0xF then 2
  else if (lanes.getLsbD 0 && lanes.getLsbD 1) || (lanes.getLsbD 2 && lanes.getLsbD 3) then 1 else 0

def capWidth (m : BitVec 2) : Nat := if m = 3 then 2 else m.toNat

/-- The lanes in use at a width. -/
def lanesInUse (lanes : BitVec 4) (width : Nat) : BitVec 4 :=
  if width = 2 then 0xF
  else if width = 1 then (if lanes.getLsbD 0 && lanes.getLsbD 1 then 0x3 else 0xC)
  else match (List.range 4).find? (fun i => lanes.getLsbD i) with
    | some i => BitVec.ofNat 4 (2 ^ i)
    | none => 0

/-- The width that this end of a port supports now. -/
def Port.ownWidth (p : Port) : Nat := min (laneWidth p.lanesOk).toNat (capWidth p.maxWidth)

/-- The module's discovery record for a port (11:Table 11.6). The turnaround is a free value. -/
def State.discoveryRecord (s : State) (q : Nat) : State × BitVec 256 :=
  let x := s.draw
  let p := s.port q
  (x.1, BitVec.ofNat 256 (fld x.2.toNat 32 128 + fld s.fuses.uid.toNat 64 64 + fld p.lanesOk.toNat 4 60 + fld p.ownWidth 2 58 +
    fld (q / 6) 3 55 + fld (q % 6) 3 52 + fld 1 8 44 + fld 1 1 42 + fld 1 1 41 + fld 1 1 40 + fld s.fuses.grade.toNat 4 36 + fld s.lnk.node.toNat 20 0))

/-- 16 echoes, whose stamps are free values (11:R292). -/
def State.echoes (s : State) (q : Nat) : State :=
  (List.range 16).foldl (fun s _ => let y := s.draw; y.1.sendBare q (.echo y.2.toNat 0)) (s.modPort q (fun p => { p with deltaRef := p.delta }))

/-- Sends a discovery record and 16 echoes (11:R292, R293). -/
def State.announce (s : State) (q : Nat) : State :=
  let x := s.discoveryRecord q
  let s := x.1.sendBare q (.discovery x.2)
  s.echoes q

/-- The forwarding table and the budgets follow a change of a port. -/
def State.replan (s : State) : State := s.rebuild.budgetAll

/-- δ, the cable length and the loss from the round trips (11:R292): a fabric cycle is 2/3 ns. -/
def Port.measure (p : Port) (trips : List Nat) (loss : BitVec 16) : Port :=
  let t := trips.drop (trips.length - 16)
  let d := t.foldl max 0 * 1000 / 3
  { p with trips := t, delta := BitVec.ofNat 32 d, cable := BitVec.ofNat 16 (if d < 120000 then 0 else (d - 120000) / 500), loss := loss }

def portOffset (q : Nat) : Nat := 0x200000 + q / 6 * 0x10000 + 0x100 + q % 6 * 0x40

/-- A write of LNK_PORT_CTRL (11:Table 11.13); MAX_WIDTH of a port that is UP takes effect with its next discovery record or change of lanes (log entry 187). -/
def State.portWrite (s : State) (q : Nat) (v : Word) : State :=
  let off := s.dieState (24 + q / 6) != 0
  let was := (s.port q).state
  let s := s.modPort q (fun p =>
    let p := { p with ctlEnable := v.getLsbD 0, maxWidth := v.extractLsb' 2 2 }
    if off then p
    else if !v.getLsbD 0 then p.to .disabled
    else if p.state = .disabled ∨ v.getLsbD 1 then (if p.held then p else p.to .detect) else p)
  if was = .up ∧ (s.port q).state ≠ .up then s.replan else s

def execPortEnable (m : Master) (port : Fin 36) (value : Word) (s : State) : Result :=
  .next (s.command m (portOffset port.val) (fun s => s.portWrite port.val (value ||| 1)))

def execPortDisable (m : Master) (port : Fin 36) (value : Word) (s : State) : Result :=
  .next (s.command m (portOffset port.val) (fun s => s.portWrite port.val (value &&& ~~~1)))

def execRetrain (m : Master) (port : Fin 36) (value : Word) (s : State) : Result :=
  .next (s.command m (portOffset port.val) (fun s => s.portWrite port.val (value ||| 2)))

/-- Are the ports out of electrical idle: A0 and A1 (16:Table 16.1)? -/
def State.portsAwake (s : State) : Bool := s.ao.railsOn && (s.pwr.state == .a0 || s.pwr.state == .a1)

/-- A lane's partner is detected (11:Table 11.5). -/
def execLaneDetected (port : Fin 36) (_lane : Fin 4) (s : State) : Result :=
  if s.portsAwake ∧ (s.port port.val).state = .detect then .next (s.modPort port.val (fun p => p.to .train)) else .next s

/-- Adaptation ends: DISCOVER with at least one lane trained, FAILED with none. -/
def execTrainingDone (port : Fin 36) (lanes : BitVec 4) (loss : BitVec 16) (s : State) : Result :=
  if (s.port port.val).state = .train then
    let s := s.modPort port.val (fun p => { (p.to (if lanes = 0 then .failed else .discover)) with lanesOk := lanes, loss := loss })
    .next (if lanes = 0 then s else s.announce port.val)
  else .next s

/-- A port that comes UP numbers its packets from 1 on; what was not acknowledged goes out again, at most 8 times in all. -/
def State.restartPort (s : State) (q : Nat) : State :=
  let l := (s.port q).replay.filter (fun r => decide (r.sends < 8))
  let s := s.modPort q (fun p => { p with
    nextSeq := 1, lastSeq := 0, early := [], fails := [], replay := [], retry := p.retry + BitVec.ofNat 64 l.length })
  l.foldl (fun s r => s.sendAgain r.node r.packet (r.sends + 1)) s

/-- The partner's record: the smaller of the two widths, and UP (11:R292, R293). A change of width in UP brings the record and 16 echoes again. -/
def State.discovered (s : State) (q : Nat) (r : BitVec 256) (trips : List Nat) : State :=
  let p0 := s.port q
  let s := s.modPort q (fun p =>
    let w := min p.ownWidth (capWidth (r.extractLsb' 58 2))
    let u := (p.to .up).measure (p.trips ++ trips) p.loss
    { u with partner := r.extractLsb' 0 64, width := BitVec.ofNat 2 w, lanesUp := lanesInUse p.lanesOk w })
  if p0.state = .up then (if (s.port q).width = p0.width then s else s.announce q).replan
  else (s.restartPort q).replan

/-- A discovery packet; without one the partner is no Holorwyn port. One whose CRC fails says nothing (11:R290, log entry 144). -/
def execDiscovery (port : Fin 36) (packet : Option DiscoveryPacket) (roundTrips : List Nat) (s : State) : Result :=
  let st := (s.port port.val).state
  match packet with
  | none => if st = .discover then .next (s.modPort port.val (fun p => p.to .failed)) else .next s
  | some r => if r.crcOk ∧ (st = .discover ∨ st = .up) then .next (s.discovered port.val r.record roundTrips) else .next s

/-- An own echo returns: its round trip, and the budget check when the measurement has moved δ by more than 10 ns (11:R292, R299). -/
def State.echoBack (s : State) (q stamp turnaround receive : Nat) (loss : BitVec 16) : State :=
  let d0 := (s.port q).deltaRef.toNat
  let s := s.modPort q (fun p => p.measure (p.trips ++ [receive - stamp - turnaround]) loss)
  let d1 := (s.port q).delta.toNat
  if d0 + 10000 < d1 ∨ d1 + 10000 < d0 then (s.modPort q (fun p => { p with deltaRef := p.delta })).replan else s

/-- An echo of the partner goes back with this module's turnaround, a free value. -/
def State.echoReturn (s : State) (q stamp : Nat) : State :=
  let x := s.draw
  x.1.sendBare q (.echo stamp x.2.toNat)

/-- An echo packet (11:R292): one of this module's own, with the receive count and the adaptation's estimate of loss; or one of the partner's, which holds no turnaround yet. One whose CRC fails is not used (11:R290). -/
def execEcho (port : Fin 36) (packet : EchoPacket) (turnaround : Option Nat) (receive : Nat) (loss : BitVec 16) (s : State) : Result :=
  if packet.crcOk ∧ ((s.port port.val).state = .up ∨ (s.port port.val).state = .discover) then
    match turnaround with
    | some t => .next (s.echoBack port.val packet.stamp t receive loss)
    | none => .next (s.echoReturn port.val packet.stamp)
  else .next s

/-- 16 new echoes (11:R292). -/
def execRemeasure (port : Fin 36) (s : State) : Result :=
  if (s.port port.val).state = .up then
    .next (s.echoes port.val)
  else .next s

def execSignalLoss (port : Fin 36) (s : State) : Result :=
  if (s.port port.val).state = .disabled ∨ (s.port port.val).held then .next s
  else .next (s.modPort port.val (fun p => p.to .detect)).replan

def execPortRetry (port : Fin 36) (s : State) : Result :=
  if (s.port port.val).state = .failed ∧ (s.port port.val).held = false then .next (s.modPort port.val (fun p => p.to .detect)) else .next s

/-! ## Retry, lane loss and width (11:R295, R296) -/

/-- Resends every packet of the replay buffer that may be sent again; each counts. -/
def State.resendAll (s : State) (q : Nat) : State :=
  let l := (s.port q).replay.filter (fun r => decide (r.sends < 8))
  let s := s.modPort q (fun p => { p with
    replay := p.replay.map (fun r => if r.sends < 8 then { r with sends := r.sends + 1 } else r)
    retry := p.retry + BitVec.ofNat 64 l.length })
  l.foldl (fun s r => s.portOut q r.packet) s

/-- The port takes the width that its lanes support, resends what was in flight and measures again. -/
def State.changeLanes (s : State) (q : Nat) (lanes : BitVec 4) (resend : Bool) : State :=
  if lanes = 0 then (s.modPort q (fun p => { p.to .detect with lanesOk := 0 })).replan
  else
    let s := s.modPort q (fun p =>
      let p := { p with lanesOk := lanes }
      let w := min p.ownWidth (capWidth (p.partner.extractLsb' 58 2))
      { p with width := BitVec.ofNat 2 w, lanesUp := lanesInUse lanes w })
    let s := if resend then s.resendAll q else s
    (s.announce q).replan

def execLaneLoss (port : Fin 36) (lane : Fin 4) (s : State) : Result :=
  let p := s.port port.val
  if p.state = .up ∧ p.lanesOk.getLsbD lane.val then
    .next (s.changeLanes port.val (p.lanesOk &&& ~~~(BitVec.ofNat 4 (2 ^ lane.val))) true)
  else .next s

def execPortWidening (port : Fin 36) (lanes : BitVec 4) (s : State) : Result :=
  let p := s.port port.val
  if p.state = .up then .next (s.changeLanes port.val (p.lanesOk ||| lanes) false) else .next s

/-- No acknowledgement for 20 ms: DETECT, and the packets take other paths to their nodes, at most 8 sendings in all. -/
def State.linkTimeout (s : State) (q : Nat) : State :=
  let l := (s.port q).replay.filter (fun r => decide (r.sends < 8))
  let s := s.modPort q (fun p => { (if p.state = .up then p.to .detect else p) with replay := [], retry := p.retry + BitVec.ofNat 64 l.length })
  (l.foldl (fun s r => s.sendAgain r.node r.packet (r.sends + 1)) s.rebuild).budgetAll

/-- A port that has packets unacknowledged for 20 ms, UP or not. -/
def execLinkTimeout (port : Fin 36) (s : State) : Result :=
  if (s.port port.val).state = .up ∨ (s.port port.val).replay ≠ [] then .next (s.linkTimeout port.val) else .next s

/-- An acknowledgement releases what it covers; a request sends one packet again, at most 8 times in all. One whose CRC fails is not used (11:R290). -/
def execAcknowledge (port : Fin 36) (seq : BitVec 32) (packet : AckPacket) (s : State) : Result :=
  if packet.crcOk = false then .next s
  else if packet.resend then
    match (s.port port.val).replay.find? (fun r => r.seq == seq) with
    | none => .next s
    | some r =>
      if r.sends < 8 then
        let s := s.modPort port.val (fun p => { p with
          replay := p.replay.map (fun y => if y.seq = seq then { y with sends := y.sends + 1 } else y), retry := p.retry + 1 })
        .next (s.portOut port.val r.packet)
      else .next s
  else .next (s.modPort port.val (fun p => { p with replay := p.replay.filter (fun r => decide (2 ^ 31 ≤ (seq - r.seq).toNat)) }))

def execForwardingTableUpdate (links : List FabricLink) (s : State) : Result :=
  .next (State.replan { s with lnk := { s.lnk with links := links } })

def lnkBase : Nat := 0x200000

def State.allEmpty (s : State) : Bool := (List.range 8).all (fun n => (s.slot n).state == .empty)

/-- LNK_NODE changes only while every slot is EMPTY (11:R294). -/
def State.nodeWrite (s : State) (v : Word) : State :=
  if s.allEmpty then State.rebuild { s with lnk := { s.lnk with node := v.extractLsb' 0 20 } }
  else s.post 0x4004 (srcLink 0) none (payload [(0, 4, v.toNat)])

def execLnkNodeWrite (m : Master) (value : Word) (s : State) : Result := .next (s.command m lnkBase (fun s => s.nodeWrite value))

/-! ## Collectives (11:R304 to R307) -/

def State.part (s : State) (n c b : Nat) : CollPart :=
  (s.lnk.parts.find? (fun p => p.slot.val == n && p.coll == c && p.block == b)).getD
    ⟨⟨n % 8, Nat.mod_lt _ (by decide)⟩, c, b, 0, false, false, [], 0⟩

def State.setPart (s : State) (p : CollPart) : State :=
  let rest := s.lnk.parts.filter (fun q => !(q.slot == p.slot && q.coll == p.coll && q.block == p.block))
  { s with lnk := { s.lnk with parts := rest ++ [p] } }

/-- Two barges of anchored words combined under 02:R52, and how many combinations were invalid. -/
def combineBarges (win : Nat) (a b : Bytes) : Bytes × Nat :=
  let z := ancBits win / 8
  let ws := (List.range (4096 / z)).map (fun i =>
    combineAnc win (patternAcc win (leNat ((a.drop (i * z)).take z))) (patternAcc win (leNat ((b.drop (i * z)).take z))))
  (ws.flatMap (fun w => leBytes z (w.1.pattern win)), ws.countP (fun w => w.2))

/-- A contribution is combined into a block at the home link die; an invalid word posts 0x500A. The combined barge is a re-seal: nothing changes where one of the two check values does not hold (10:R263). -/
def State.combine (s : State) (n : Nat) (g : Image) (v : CollView) (b : Nat) (p : Bytes) (t : BitVec 256) (own : Bool) : State :=
  let q := s.part n v.rec_.coll b
  let home := ((s.slot n).home true v.rec_.coll).elim 0 (fun h => h.die)
  let q' := if own then { q with own := true } else { q with got := q.got + 1 }
  let fmt := ((g.collOp v.rec_.coll).bind (fun o => g.lay o.src0)).elim 0 (fun l => l.format)
  if q.payload.isEmpty ∨ v.isMove then s.setPart { q' with payload := p, tag := t }
  else if !tagOk p t || !tagOk q.payload q.tag then s.setPart q'
  else
    let x := combineBarges fmt q.payload p
    let s := s.setPart { q' with payload := x.1, tag := sealTag x.1 t.toNat }
    let s := { s with lnk := { s.lnk with innetWords := sset 0 s.lnk.innetWords home (sget 0 s.lnk.innetWords home + BitVec.ofNat 64 (4096 / (ancBits fmt / 8))) } }
    s.postTimes x.2 0x500A (srcLink home) (some n) (payload [(0, 1, 24 + home), (1, 1, 0xFF), (4, 4, (g.collOp v.rec_.coll).elim 0 (fun o => o.dst))])

/-- The node of a list member. -/
def CollView.pos (v : CollView) (i : Nat) : Nat := v.rec_.members.getD i 0

/-- A block whose exchange is over at this member is forgotten. -/
def State.dropPart (s : State) (n c b : Nat) : State :=
  { s with lnk := { s.lnk with parts := s.lnk.parts.filter (fun q => !(q.slot.val == n && q.coll == c && q.block == b)) } }

/-- A result waits for its release in its lay-by slot, where this member holds the block, and goes on to others. -/
def State.collResult (s : State) (n : Nat) (g : Image) (v : CollView) (b : Nat) (p : Bytes) (t : BitVec 256) : State :=
  let c := v.rec_.coll
  let s := s.setPart { s.part n c b with result := true, payload := p, tag := t }
  let dst := (g.collOp c).elim 0 (fun o => o.dst)
  let s := match (s.slot n).home true c, s.localBlock n g dst b with
    | some h, some i => s.fillSlot h i ⟨⟨n % 8, Nat.mod_lt _ (by decide)⟩, true, c, b, p, t, true⟩
    | _, _ => s.dropPart n c b
  (v.down g b).foldl (fun s r => s.sendBarge n g (v.pos r) true c b p t) s

/-- Does the result of a block come back to this member? A block that a reduce-scatter completes goes to its owner alone in the ring. -/
def State.getsResult (s : State) (n : Nat) (g : Image) (v : CollView) (b : Nat) : Bool :=
  v.rec_.tree || v.kind != 1 || (s.bargeAddr n g ((g.collOp v.rec_.coll).elim 0 (fun o => o.dst)) b).isSome

/-- Has this member all it passes on for a block? -/
def State.collDone (s : State) (n : Nat) (g : Image) (v : CollView) (b : Nat) : Bool :=
  let q := s.part n v.rec_.coll b
  decide (q.got = v.expected g b) && (q.own || !v.contributes g b)

/-- The upward part of a block has gone out: the block is forgotten where no result comes back. -/
def State.collSent (s : State) (n : Nat) (g : Image) (v : CollView) (b : Nat) : State :=
  if s.collDone n g v b && !s.getsResult n g v b then s.dropPart n v.rec_.coll b else s

/-- A block whose upward part is complete goes up, or is the result. -/
def State.collStep (s : State) (n : Nat) (g : Image) (v : CollView) (b : Nat) : State :=
  let q := s.part n v.rec_.coll b
  if s.collDone n g v b = true ∧ q.payload ≠ [] then
    match v.up b with
    | some r => (s.sendBarge n g (v.pos r) true v.rec_.coll b q.payload q.tag).collSent n g v b
    | none => s.collResult n g v b q.payload q.tag
  else s

/-- Does this member combine what it takes in, or forward it unchanged (11:R306)? -/
def CollView.combines (v : CollView) (b : Nat) : Bool := v.innet || v.isMove || (v.up b).isNone

/-- A barge of a collective arrives: a contribution on its way up, or a result. -/
def State.collReceive (s : State) (n : Nat) (g : Image) (v : CollView) (b : Nat) (p : Bytes) (t : BitVec 256) : State :=
  let q := s.part n v.rec_.coll b
  if q.got < v.expected g b then
    if v.combines b then (s.combine n g v b p t false).collStep n g v b
    else
      let s := s.setPart { q with got := q.got + 1 }
      match v.up b with
      | some r => (s.sendBarge n g (v.pos r) true v.rec_.coll b p t).collSent n g v b
      | none => s
  else s.collResult n g v b p t

/-- The own contribution to a block, read from device memory by the home link die. -/
def State.collOwn (s : State) (n : Nat) (g : Image) (v : CollView) (src b : Nat) : State :=
  match s.bargeAddr n g src b with
  | none => s
  | some a =>
    let home := ((s.slot n).home true v.rec_.coll).elim 0 (fun h => h.die)
    let rd : Reader := ⟨0, 24 + home, 0xFF, some n⟩
    let x := s.readWords rd (a / 64) 64
    let s := x.1.afterRead rd x.2.2
    let t := s.mem.bargeTag a
    let s := if tagOk x.2.1 t then s else (s.towFail 4).failedHopTag 4 (srcLink home) t
    if v.combines b then (s.combine n g v b x.2.1 t true).collStep n g v b
    else
      let s := s.setPart { s.part n v.rec_.coll b with own := true }
      match v.up b with
      | some r => (s.sendBarge n g (v.pos r) true v.rec_.coll b x.2.1 t).collSent n g v b
      | none => s

/-! Global surveys -/

/-- The records of an operation on the cells of this module. -/
def State.issuesOf (s : State) (n : Nat) (g : Image) (op : Nat) : List Issue :=
  g.instrs.filterMap (fun rc =>
    if rc.opId = op ∧ rc.engine ≠ 0 then
      ((s.slot n).place.bindings.find? (fun b => b.logical == rc.cell)).map (fun b => ⟨n, g, rc, (g.op op).getD noOp, b, (s.slot n).place.fold⟩)
    else none)

/-- Byte lists combined by maximum (02:R43). -/
def maxBytes (a b : Bytes) : Bytes :=
  (List.range (max a.length b.length)).map (fun i => if (a.getD i 0).toNat < (b.getD i 0).toNat then b.getD i 0 else a.getD i 0)

/-- The survey maxima that one record's cell has formed: one byte for each row, then for each column, of the whole operation. -/
def State.surveyOf (s : State) (x : Issue) : Bytes :=
  let c := s.cell x.key
  if x.rc.engine = 1 then
    match x.tilePlan (s.skipOf x) with
    | none => []
    | some p =>
      let nib := x.nibbles p (fun _ => c)
      let line (d : Side) (i : Nat) : Nat := surveyMax (p.ks.filterMap (fun kk => (d.at x.seat c nib i kk).map (·.byte)))
      let rows := (List.range p.a.lines).map (fun i => if p.row0 ≤ i ∧ i < p.row0 + p.rows then line p.a i else 0)
      let cols := (List.range p.b.lines).map (fun i => if p.col0 ≤ i ∧ i < p.col0 + p.cols then line p.b i else 0)
      (rows ++ cols).map (BitVec.ofNat 8)
  else if x.rc.engine = 3 then
    match x.operand x.op.src0 (x.arg 159 138) x.redFirst with
    | none => []
    | some o =>
      let ts := x.redTerms c o
      let n := ts.foldl (fun a t => max a (t.out + 1)) 0
      (List.range n).map (fun i => BitVec.ofNat 8 (surveyMax ((ts.filter (fun t => t.out == i)).map (·.byte))))
  else []

def State.localSurvey (s : State) (n : Nat) (g : Image) (op : Nat) : Bytes :=
  (s.issuesOf n g op).foldl (fun a x => maxBytes a (s.surveyOf x)) []

def State.survey (s : State) (n c : Nat) : SurveyPart :=
  (s.lnk.surveys.find? (fun p => p.slot.val == n && p.coll == c)).getD ⟨⟨n % 8, Nat.mod_lt _ (by decide)⟩, c, 0, false, false, []⟩

def State.setSurvey (s : State) (p : SurveyPart) : State :=
  let rest := s.lnk.surveys.filter (fun q => !(q.slot == p.slot && q.coll == p.coll))
  { s with lnk := { s.lnk with surveys := rest ++ [p] } }

def State.sendSurvey (s : State) (g : Image) (v : CollView) (r : Nat) (b : Bytes) : State :=
  s.sendNode (g.nodeAt (v.pos r)) (.survey (BitVec.ofNat 32 v.rec_.coll) b)

/-- The global maxima are known: they wait for the release and go on to others. -/
def State.surveyResult (s : State) (n : Nat) (g : Image) (v : CollView) (b : Bytes) : State :=
  let c := v.rec_.coll
  let s := s.setSurvey { s.survey n c with result := true, bytes := b }
  let s := match (s.slot n).home true c with
    | some h =>
      let v : LinkSlot := ⟨⟨n % 8, Nat.mod_lt _ (by decide)⟩, true, c, 0, b, 0, true⟩
      { s with lnk := { s.lnk with slots := sset none s.lnk.slots (slotKey h.die (surveySlot n c)) (some v) } }
    | none => s
  (v.down g 0).foldl (fun s r => s.sendSurvey g v r b) s

def State.surveyStep (s : State) (n : Nat) (g : Image) (v : CollView) : State :=
  let q := s.survey n v.rec_.coll
  if q.got = v.expected g 0 ∧ q.own then
    match v.up 0 with
    | some r => s.sendSurvey g v r q.bytes
    | none => s.surveyResult n g v q.bytes
  else s

/-- Survey bytes taken in: combined by maximum, or forwarded (11:R307). -/
def State.surveyTake (s : State) (n : Nat) (g : Image) (v : CollView) (b : Bytes) (own : Bool) : State :=
  let q := s.survey n v.rec_.coll
  let q' := if own then { q with own := true } else { q with got := q.got + 1 }
  if own ∨ q.got < v.expected g 0 then
    if v.combines 0 then (s.setSurvey { q' with bytes := maxBytes q.bytes b }).surveyStep n g v
    else
      let s := s.setSurvey q'
      match v.up 0 with
      | some r => s.sendSurvey g v r b
      | none => s
  else s.surveyResult n g v b

/-- The issue point of a collective of the executing context. -/
def State.collective (s : State) (c : Nat) : State :=
  match s.execImage with
  | none => s
  | some (n, g) =>
    match s.collView n g c with
    | none => s
    | some v =>
      if s.sch.pound = v.rec_.issuePound ∧ s.sch.state = .inPound then
        let s := s.tickTo (s.sch.phase * g.poundLen s.sch.pound + v.rec_.issueTick)
        if v.kind = 4 then
          match g.surveyBindings.find? (fun x => x.2 == c) with
          | none => s
          | some x => s.surveyTake n g v (s.localSurvey n g x.1) true
        else
          match g.collOp c with
          | none => s
          | some o =>
            ((g.lay o.src0).elim [] (fun l => l.blocks)).foldl (fun s b => if v.contributes g b then s.collOwn n g v o.src0 b else s) s
      else s

def execCollective (coll : BitVec 32) (s : State) : Result := .next (s.collective coll.toNat)

/-- The slot whose image has a collective: the executing one first. -/
def State.slotOfColl (s : State) (c : Nat) : Option (Nat × Image) :=
  match s.execImage with
  | some (n, g) => if (g.coll c).isSome then some (n, g) else none
  | none => (List.range 8).findSome? (fun n => match (s.slot n).image with
    | some g => if (g.coll c).isSome && (s.slot n).state != .draining then some (n, g) else none
    | none => none)

/-! ## Numbered packets (11:R294, R295) -/

/-- Is the fabric quiet after a warm reset (13:R348)? -/
def State.linksQuiet (s : State) : Bool := decide (s.now < s.lnk.quietUntil)

/-- Codewords corrected and uncorrectable count (11:Table 11.8). -/
def Port.countCodewords (p : Port) (v : Carriage) : Port :=
  { p with fecCorr := p.fecCorr + BitVec.ofNat 64 v.corrected, fecUncorr := p.fecUncorr + BitVec.ofNat 64 v.uncorrectable }

/-- Has a port taken the packet of a number already? -/
def Port.has (p : Port) (seq : BitVec 32) : Bool := decide ((p.lastSeq - seq).toNat < 2 ^ 31) || p.early.contains seq

/-- The last number received in order, once the early ones that follow it are counted in. -/
def takeRun : Nat → BitVec 32 → List (BitVec 32) → BitVec 32 × List (BitVec 32)
  | 0, l, e => (l, e)
  | n + 1, l, e => if e.contains (l + 1) then takeRun n (l + 1) (e.filter (fun x => x != l + 1)) else (l, e)

/-- A port takes a number. -/
def Port.took (p : Port) (seq : BitVec 32) : Port :=
  let r := takeRun (p.early.length + 1) p.lastSeq (p.early ++ [seq])
  { p with lastSeq := r.1, early := r.2, fails := sset 0 p.fails seq.toNat 0 }

/-- A port takes a packet and acknowledges the numbers received in order (11:R295). -/
def State.taken (s : State) (v : Carriage) : State :=
  let s := s.modPort v.port.val (fun u => u.took v.seq)
  s.sendBare v.port.val (.ack (s.port v.port.val).lastSeq false)

/-- A packet comes in: a sound one is acknowledged and used here or forwarded to its node; a broken one is asked for again, at the eighth failure it is given up. -/
def State.packetIn (s : State) (v : Carriage) (sound : Bool) (p : Packet) (use broken : State → State) : State :=
  let q := v.port.val
  let pt := s.port q
  if pt.state ≠ .up ∨ s.linksQuiet ∨ s.node = unassigned then s
  else if s.dieState (24 + q / 6) ≠ 0 then s.plankDrop 1 else
  let s := s.modPort q (fun u => u.countCodewords v)
  if sound then
    if pt.has v.seq then s.sendBare q (.ack pt.lastSeq false)
    else
      let s := s.taken v
      if v.node.toNat = s.node then use s else s.sendNode v.node.toNat p
  else
    let k := sget 0 pt.fails v.seq.toNat + 1
    if k < 8 then (s.modPort q (fun u => { u with fails := sset 0 u.fails v.seq.toNat k })).sendBare q (.ack v.seq true)
    else broken (s.modPort q (fun u => u.took v.seq))

/-- A packet whose soundness is that of its codewords and its CRC. -/
def State.packetOf (s : State) (v : Carriage) (p : Packet) (use : State → State) : State :=
  s.packetIn v (v.uncorrectable == 0 && v.crcOk) p use id

def State.surveyArrives (s : State) (c : Nat) (bytes : Bytes) : State :=
  match s.slotOfColl c with
  | none => s
  | some (n, g) =>
    match s.collView n g c with
    | none => s
    | some v => if v.kind = 4 then s.surveyTake n g v bytes false else s

def execSurveyPacket (via : Carriage) (head : SurveyHead) (bytes : Bytes) (s : State) : Result :=
  .next (s.packetOf via (.survey head.coll bytes) (fun s => s.surveyArrives head.coll.toNat bytes))

/-! ## Barge packets (11:R295, 10:R264 hop 5) -/

/-- The owner that a barge of a tensor names, where an owner table gives one. -/
def expectedOwner (g : Image) (tensor block : Nat) : Option Nat := (g.owner tensor).map (fun o => o.ownerOf block)

/-- A barge takes its place: a route's lay-by slot, or a collective. -/
def State.placeBarge (s : State) (n : Nat) (g : Image) (h : PacketHead) (p : Bytes) (t : BitVec 256) : State :=
  if h.collective then
    match s.collView n g h.number.toNat with
    | none => s
    | some v => s.collReceive n g v (tagBlock t) p t
  else match (s.slot n).home false h.number.toNat with
    | none => s
    | some hm => s.fillSlot hm h.index.toNat ⟨⟨n % 8, Nat.mod_lt _ (by decide)⟩, false, h.number.toNat, h.index.toNat, p, t, true⟩

/-- Does a context's image take in barges of a route or a collective? -/
def State.takesIn (s : State) (n : Nat) (h : PacketHead) : Bool :=
  match (s.slot n).image with
  | none => false
  | some g => if h.collective then (s.collView n g h.number.toNat).isSome else (g.route h.number.toNat).any (fun r => r.dst == s.position n)

/-- The context that a barge of a shared base is for: its tag names none (10:R268). The executing one comes first. -/
def State.baseReader (s : State) (h : PacketHead) (t : BitVec 256) : Option Nat :=
  (((s.sch.exec.map (fun n => [n.val])).getD [] ++ List.range 8)).find? (fun n =>
    s.takesIn n h && (s.slot n).state != .draining && ((s.slot n).image).any (fun g => g.isShared (tagTensor t)))

/-- The context that a received barge is for, none where the barge is late (10:R266). -/
def State.bargeSlot (s : State) (h : PacketHead) (t : BitVec 256) : Option (Nat × Image) :=
  let n := if tagCtx t = 0 ∧ tagGen t = 0 ∧ (s.baseReader h t).isSome then s.baseReader h t
    else if s.isLate (tagCtx t) (tagGen t) then none else some (tagCtx t)
  n.bind (fun n => (s.slot n).image.map (fun g => (n, g)))

/-- Hop 5 (10:Table 10.3, R268): OWNER, and for a shared base whether the context refers to it. -/
def State.hop5 (s : State) (n : Nat) (g : Image) (t : BitVec 256) : Bool :=
  (expectedOwner g (tagTensor t) (tagBlock t)).all (fun o => o == tagOwner t) &&
    (!g.isShared (tagTensor t) || s.refersToBase n (tagTensor t))

def State.hop5Fail (s : State) (q : Nat) (t : BitVec 256) : State := (s.towFail 5).failedHopTag 5 (srcLink (q / 6)) t

/-- Does a barge pass hop 5 here? CHECK holds, and on the module that it is for the fields of the context's image; traffic that is late is dropped, not asked for again (10:R264 to R266). -/
def State.bargeSound (s : State) (v : Carriage) (h : PacketHead) (p : Bytes) (t : BitVec 256) : Bool :=
  tagOk p t && (v.node.toNat != s.node || (s.bargeSlot h t).all (fun x => s.hop5 x.1 x.2 t))

/-- A barge that is received whole and sound; late traffic is dropped. -/
def State.acceptBarge (s : State) (h : PacketHead) (p : Bytes) (t : BitVec 256) : State :=
  match s.bargeSlot h t with
  | none => { s with flt := { s.flt with staleLink := s.flt.staleLink + 1 } }
  | some (n, g) => s.placeBarge n g h p t

/-- The context whose lay-by entry a given-up barge is: that of its tag, unless the route or collective of its header is none of it; then the one that takes the route in, the executing one first (11:R295, log entry 190). -/
def State.entrySlot (s : State) (h : PacketHead) (t : BitVec 256) : Option (Nat × Image) :=
  (((s.bargeSlot h t).elim [] (fun x => [x.1]) ++ (s.sch.exec.map (fun n => [n.val])).getD [] ++ List.range 8).find? (fun n =>
    s.takesIn n h && (s.slot n).state != .draining)).bind (fun n => (s.slot n).image.map (fun g => (n, g)))

/-- A barge that has failed eight times: the hop counts as failed, the bytes last received take the place, and the context that waits for them faults at its next sill (11:R295). -/
def State.giveUpBarge (s : State) (v : Carriage) (h : PacketHead) (p : Bytes) (t : BitVec 256) : State :=
  let s := s.hop5Fail v.port.val t
  if v.node.toNat ≠ s.node then s.sendNode v.node.toNat (.barge h 0 p t)
  else match s.entrySlot h t with
    | none => s
    | some (n, g) => (s.placeBarge n g h p t).faultAtSill n

/-- How a barge packet comes in. It has no CRC of its own. -/
def carriageOf (h : BargeHead) (port : Fin 36) (c : Codewords) : Carriage := ⟨port, h.seq, h.node, c.corrected, c.uncorrectable, true⟩

def execBargePacket (port : Fin 36) (head : BargeHead) (payload : Bytes) (tag : BitVec 256) (codewords : Codewords) (s : State) : Result :=
  let via := carriageOf head port codewords
  .next (s.packetIn via (codewords.uncorrectable == 0 && s.bargeSound via head.place payload tag) (.barge head.place 0 payload tag)
    (fun s => s.acceptBarge head.place payload tag) (fun s => s.giveUpBarge via head.place payload tag))

/-! ## Release of link lay-by slots (11:R298) -/

/-- A whole barge from a link die into device memory: hop 1 follows (10:R264). -/
def State.toMemory (s : State) (n : Nat) (g : Image) (r : LinkRoute) (v : LinkSlot) : State :=
  match s.bargeAddr n g (tagTensor v.tag) (tagBlock v.tag) with
  | none => s
  | some a => State.digestAgain { s with flight := { s.flight with barges := s.flight.barges ++ [⟨a, v.payload, v.tag, none⟩] } }
      n g r (tagTensor v.tag) (tagBlock v.tag)

/-- The survey records of a collective's SRC0 are those of its DST (02:R57, R58, 11:R304): both hold words of the same logical sum. -/
def State.collAnchors (s : State) (n : Nat) (g : Image) (o : OpRec) (l : Layout) (b : Nat) : State :=
  if isAncFmt l.format then
    s.modSlot n (fun sl => { sl with anchors := ((l.bargePositions b).filterMap l.posIndex).foldl (fun m i =>
      sset none m (o.dst * 2 ^ 64 + i) (some (s.anchorOf n g o.src0 i))) sl.anchors })
  else s

/-- The result of a collective into DST: sealed by the memory base die of its stack (log entry 23). A barge whose check value does not hold is not sealed anew (10:R263): it leaves as it is and fails at hop 1. -/
def State.collWrite (s : State) (n : Nat) (g : Image) (v : LinkSlot) : State :=
  match g.collOp v.number with
  | none => s
  | some o =>
    match s.bargeAddr n g o.dst v.index with
    | none => s
    | some a =>
      let z := if tagOk v.payload v.tag then s.seal n g o.dst v.index (sourceStack (stackOf a)) (s.slot n).step.toNat v.payload else (v.payload, v.tag)
      let s := match g.lay o.dst with
        | none => s
        | some l => (s.collAnchors n g o l v.index).digest n g o.id o.dst l ((l.bargePositions v.index).filterMap (fun p => (l.posIndex p).map (fun i =>
            (i, (l.elementIn (v.index * 4096) z.1 p)))))
      { s with flight := { s.flight with barges := s.flight.barges ++ [⟨a, z.1, z.2, none⟩] } }

/-- The anchors of a bound operation from the global maxima (02:R57): every module computes the same, for all elements. -/
def State.surveyAnchors (s : State) (y : Issue) (rows : Nat) (v : Bytes) : State :=
  match y.g.lay y.op.dst, y.g.lay y.op.src0 with
  | some l, some l0 =>
    if isAncFmt l.format then
      let es : List (Nat × Int) :=
        if y.rc.engine = 1 then
          (List.range rows).flatMap (fun i => (List.range (v.length - rows)).map (fun j =>
            (indexOf l.dims [i, j], siteAnchor l0.format (y.op.km1 + 1) (v.getD i 0).toNat (v.getD (rows + j) 0).toNat)))
        else (List.range v.length).map (fun i => (i, y.redAnchor l0.format (v.getD i 0).toNat))
      s.modSlot y.slot (fun sl => { sl with anchors := es.foldl (fun m e => sset none m (y.op.dst * 2 ^ 64 + e.1) (some e.2)) sl.anchors })
    else s
  | _, _ => s

/-- The global maxima reach the survey inputs of the cells that hold terms of the bound operation. -/
def State.surveyDeliver (s : State) (n : Nat) (g : Image) (v : LinkSlot) : State :=
  match g.surveyBindings.find? (fun x => x.2 == v.number) with
  | none => s
  | some x => (s.issuesOf n g x.1).foldl (fun s y =>
      let rows := match y.tilePlan (s.skipOf y) with
        | some p => if y.rc.engine = 1 then p.a.lines else v.payload.length
        | none => v.payload.length
      (s.surveyAnchors y rows v.payload).modCell y.key (fun c => { c with inOp := x.1, inRows := v.payload.take rows, inCols := v.payload.drop rows })) s

def State.dropSurvey (s : State) (n c : Nat) : State :=
  { s with lnk := { s.lnk with surveys := s.lnk.surveys.filter (fun q => !(q.slot.val == n && q.coll == c)) } }

/-- The layout of what a route brings: that of the barge's tensor, or what the sending record carries. -/
def Image.routeLay (g : Image) (r : LinkRoute) (t : BitVec 256) : Option Layout :=
  match g.instrs.find? (fun i => i.engine == 7 && bits i.args.toNat 137 122 == r.number) with
  | some i => (g.op i.opId).bind g.sentLay
  | none => g.lay (tagTensor t)

/-- The descriptor of a routed read. -/
def Image.routeDescr (g : Image) (r : LinkRoute) : Option Descr := (g.dmaOf r.cell).bind (fun d => d.descrs.find? (fun x => x.kind == 0 && x.route == r.number))

/-- A barge into the scratchpad of the route's cell, in 64 ticks from τ on: at the reader's address as its descriptor resolved it for a remote read (11:R286), else at the route's. -/
def State.toScratchpad (s : State) (n : Nat) (g : Image) (r : LinkRoute) (v : LinkSlot) (τ : Nat) : State :=
  match (s.slot n).place.bindings.find? (fun b => b.logical == r.cell) with
  | none => s
  | some b =>
    let f := (s.slot n).place.fold
    let seat : Seat := ⟨cellKey b.die b.cell, b.phase * (spadBytes / f), spadBytes / f⟩
    match g.routeDescr r with
    | none =>
      let ws := (List.range 64).flatMap (fun i => seat.words (g.routeLay r v.tag) (r.addr + 4096 * v.index + 64 * i : Nat) 1)
      (s.modCell seat.key (fun c => c.wordsIn (s.workOf n seat.key) τ ws v.payload)).digestLanding n g r seat v.tag (r.addr + 4096 * v.index)
    | some d =>
      -- the bursts of a routed read that lie in this barge, each at its own byte of the issue
      let y := (sget none (s.cell seat.key).routeAt r.number).getD ⟨d.saddr, 0, d.moffset⟩
      let ws := (((d.runs y.offset d.length)[v.index]?).elim [] (·.2)).flatMap (fun u => (List.range 4).flatMap (fun j =>
        (seat.words (g.routeLay r v.tag) (sideOffset y.start d.swrap y.cursor (u.2 + 64 * j)) 1).map (fun a => (τ + u.1 / 64 + j, a, (v.payload.drop (u.1 + 64 * j)).take 64))))
      s.modCell seat.key (fun c => c.wordsAt (s.workOf n seat.key) ws)

/-- The release of a slot at tick τ of the pound. -/
def State.releaseLink (s : State) (die i τ : Nat) : State :=
  let key := slotKey die i
  match s.linkSlot key with
  | none => s
  | some v =>
    let n := v.slot.val
    let s := { s with lnk := { s.lnk with slots := sset none s.lnk.slots key none } }
    match (s.slot n).image with
    | none => s
    | some g =>
      if v.collective then
        match g.coll v.number with
        | none => s
        | some r => if r.op = 3 then (s.surveyDeliver n g v).dropSurvey n v.number else (s.collWrite n g v).dropPart n v.number v.index
      else match g.route v.number with
        | none => s
        | some r => if r.toScratchpad then s.toScratchpad n g r v τ else s.toMemory n g r v

/-! ## Joins, loss of members, remote reads (11:R286, R300, R302) -/

/-- A join is recorded by a context with the same structure digest; one that none has is ignored with an event. -/
def State.joinArrives (s : State) (position : BitVec 16) (node : BitVec 20) (slot : BitVec 3) (gen : BitVec 8) (digest : Word) : State :=
  let fits (n : Nat) : Bool := match (s.slot n).image with
    | some g => decide (1 < g.modules) && (s.slot n).state != .draining && (s.slot n).structDigest.extractLsb' 0 64 == digest && g.nodeAt position.toNat == node.toNat
    | none => false
  let cands := (List.range 8).filter fits
  match (cands.find? (fun n => ((s.slot n).joinOf position.toNat).isNone)).orElse (fun _ => cands.head?) with
  | none => s.post 0x4003 (srcLink 0) none (payload [(0, 4, node.toNat), (4, 2, position.toNat), (8, 8, digest.toNat)])
  | some n => s.modSlot n (fun sl => { sl with joins := sl.joins.filter (fun j => j.position != position.toNat) ++ [⟨position.toNat, slot, gen⟩] })

def execJoin (via : Carriage) (position : BitVec 16) (node : BitVec 20) (ctx : ContextName) (digest : Word) (s : State) : Result :=
  .next (s.packetOf via (.join position node ctx.slot ctx.gen digest) (fun s => s.joinArrives position node ctx.slot ctx.gen digest))

/-- The positions that a context exchanges routes or collectives with. -/
def Image.partners (g : Image) (pos : Nat) : List Nat :=
  ((g.linkRoutes.filterMap (fun r => if r.src = pos then some r.dst else if r.dst = pos then some r.src else none)) ++
   (g.colls.flatMap (fun c => if c.members.contains pos then c.members else []))).eraseDups.filter (fun p => p != pos)

/-- Loss notices over the sill tree and to the partners, once. -/
def State.sendLoss (s : State) (n : Nat) (g : Image) (node position : Nat) : State :=
  if (s.slot n).lossForwarded then s else
  let pos := s.position n
  let dest := (g.treeNeighbours pos ++ g.partners pos).eraseDups.filter (fun p => p != position)
  let step := (s.slot n).step
  let s := s.modSlot n (fun sl => { sl with lossForwarded := true })
  dest.foldl (fun s p => s.sendNode (g.nodeAt p) (.lossNotice (BitVec.ofNat 20 node) (BitVec.ofNat 16 position) step (BitVec.ofNat 20 s.sch.pound))) s

/-- A loss notice for a context of this group: forwarded once, and the context faults. -/
def State.lossArrives (s : State) (node : BitVec 20) (position : BitVec 16) : State :=
  (List.range 8).foldl (fun s n =>
    match (s.slot n).image with
    | none => s
    | some g =>
      if 1 < g.modules ∧ g.nodeAt position.toNat = node.toNat ∧ ((s.slot n).state = .idle ∨ (s.slot n).state = .active) then
        (s.sendLoss n g node.toNat position.toNat).faultSlot n
      else s) s

def execLossNotice (via : Carriage) (node : BitVec 20) (position : BitVec 16) (at_ : Moment) (s : State) : Result :=
  .next (s.packetOf via (.lossNotice node position at_.step at_.pound) (fun s => s.lossArrives node position))

/-- No path has reached a member for 20 ms while a pound executes or holds. -/
def execMemberLost (position : BitVec 16) (s : State) : Result :=
  match s.execImage with
  | none => .next s
  | some (n, g) =>
    if (s.sch.state = .inPound ∨ s.sch.state = .holding) ∧ position.toNat < g.modules ∧ position.toNat ≠ s.position n then
      let node := g.nodeAt position.toNat
      let s := s.post 0x4002 (srcLink 0) (some n) (payload [(0, 4, node), (4, 2, position.toNat)])
      let s := { s with lnk := { s.lnk with lostValid := true, lostPosition := position, lostNode := BitVec.ofNat 20 node } }
      .next ((s.sendLoss n g node position.toNat).faultSlot n)
    else .next s

/-- The barges that a reader's request is for, in the order in which they are sent. -/
def Image.askedBarges (g : Image) (r : LinkRoute) (offset bytes : Nat) : List Nat :=
  ((g.routeDescr r).elim (bargeRuns offset 0 offset bytes) (fun d => d.runs offset bytes)).map (fun y => y.1)

/-- The owner's link die reads the barges that a reader asks for and sends them (11:R286). -/
def State.answerAsk (s : State) (q : RemoteAsk) : State :=
  match (s.slot q.slot).image with
  | none => s
  | some g =>
    match g.route q.route with
    | none => s
    | some r =>
      if r.src ≠ s.position q.slot then s else
      let bs := g.askedBarges r q.offset q.bytes
      (List.zip (List.range bs.length) bs).foldl (fun s y =>
        match s.bargeAddr q.slot g q.tensor y.2 with
        | none => s
        | some a =>
          let rd : Reader := ⟨0, 24, 0xFF, some q.slot⟩
          let x := s.readWords rd (a / 64) 64
          (x.1.afterRead rd x.2.2).sendBarge q.slot g r.dst false r.number y.1 x.2.1 (x.1.mem.bargeTag a)) s

/-- Is a tensor a region of a context that has not closed in this step? -/
def State.regionOpen (s : State) (n tensor : Nat) : Bool :=
  (s.slot n).image.any (fun g => (g.region tensor).isSome) && (s.slot n).state == .active && !(s.slot n).closed.contains tensor

/-- A peer's request: for a region it returns only once the region has closed and its cells are converted (09:R252). -/
def State.remoteRead (s : State) (slot route tensor offset bytes : Nat) : State :=
  let q : RemoteAsk := ⟨slot, route, tensor, offset, bytes⟩
  if s.regionOpen slot tensor then { s with lnk := { s.lnk with asked := s.lnk.asked ++ [q] } } else s.answerAsk q

/-- The requests that waited for a region that has closed are answered. -/
def State.answerAsked (s : State) : State :=
  (s.lnk.asked.filter (fun q => !s.regionOpen q.slot q.tensor)).foldl (fun s q => s.answerAsk q)
    { s with lnk := { s.lnk with asked := s.lnk.asked.filter (fun q => s.regionOpen q.slot q.tensor) } }

def execRegionClose (region : Nat) (s : State) : Result :=
  match s.execImage with
  | none => .next s
  | some (n, g) => if (g.regions[region]?).any (s.regionDue n g) then .next (s.closeRegion region).answerAsked else .next s

def execRemoteReadRequest (via : Carriage) (slot : Fin 8) (route : BitVec 16) (tensor : BitVec 32) (range : ByteRange) (s : State) : Result :=
  .next (s.packetOf via (.routeRequest route tensor range.offset range.bytes) (fun s => s.remoteRead slot.val route.toNat tensor.toNat range.offset range.bytes))

end Sys2Proof.Machine
end

