-- ==== Sys2Proof/Machine/Image.lean ====
section
/-! DEFINITION. The container and the records of an Edtotar image (08:R205 to R216; 06:R151, R173; 09:R237; 10:R271; 11:R284, R303): from the bytes of an image to the raw records and to the image as the module holds it. -/

namespace Sys2Proof.Machine

open Sys2Proof

/-! ## Bytes into records -/

/-- The records of `n` bytes each of a byte string, as numbers under R7. -/
def chunksFrom (n : Nat) : Nat → Bytes → List Nat
  | 0, _ => []
  | fuel + 1, b => if b.isEmpty then [] else leNat (b.take n) :: chunksFrom n fuel (b.drop n)

def recordsOf (n : Nat) (b : Bytes) : List Nat := chunksFrom n (b.length / max 1 n + 1) b

/-- An owner table as stored: its header and its entries. -/
structure RawOwner where
  head : Nat
  entries : List Nat
  deriving DecidableEq, Repr

/-- The DMA records of one logical cell as stored. -/
structure RawDma where
  head : Nat
  descrs : List Nat
  deriving DecidableEq, Repr

/-- OWNERS: a header of 32 bytes and its entries of 8 bytes, one table after the other. -/
def splitOwners : Nat → Bytes → Option (List RawOwner)
  | 0, b => if b.isEmpty then some [] else none
  | fuel + 1, b =>
    if b.isEmpty then some [] else
    let h := leNat (b.take 32)
    let n := bits h 181 166
    if b.length < 32 + 8 * n then none
    else (splitOwners fuel (b.drop (32 + 8 * n))).map (fun t => ⟨h, recordsOf 8 ((b.drop 32).take (8 * n))⟩ :: t)

/-- DMA: a header of 16 bytes and its descriptors of 64 bytes, one logical cell after the other. -/
def splitDma : Nat → Bytes → Option (List RawDma)
  | 0, b => if b.isEmpty then some [] else none
  | fuel + 1, b =>
    if b.isEmpty then some [] else
    let h := leNat (b.take 16)
    let n := bits h 47 32
    if b.length < 16 + 64 * n then none
    else (splitDma fuel (b.drop (16 + 64 * n))).map (fun t => ⟨h, recordsOf 64 ((b.drop 16).take (64 * n))⟩ :: t)

/-- GROUPS: the header, the collective records, the member list with its padding (11:R303). -/
structure RawGroups where
  head : Nat
  recs : List Nat
  members : List Nat
  pad : List Nat
  deriving DecidableEq, Repr

def splitGroups (b : Bytes) : Option RawGroups :=
  if b.isEmpty then some ⟨0, [], [], []⟩ else
  let h := leNat (b.take 8)
  let n := bits h 31 0
  let m := bits h 63 32
  if b.length = 8 + 32 * n + ceilDiv (2 * m) 8 * 8 then
    let l := b.drop (8 + 32 * n)
    some ⟨h, recordsOf 32 ((b.drop 8).take (32 * n)), recordsOf 2 (l.take (2 * m)), recordsOf 2 (l.drop (2 * m))⟩
  else none

/-! ## The container (08:R205 to R208) -/

/-- Bytes of a record of a section type, 0 where the section has a structure of its own, none for a type that Table 8.3 does not list. -/
def sectionRecord (t : Nat) : Option Nat :=
  match t with
  | 0x0001 => some 32
  | 0x0002 => some 128
  | 0x0003 => some 64
  | 0x0004 => some 8
  | 0x0005 => some 16
  | 0x0006 => some 16
  | 0x0010 => some 8
  | 0x0011 => some 4
  | 0x0012 => some 8
  | 0x0013 => some 32
  | 0x0014 => some 32
  | 0x0015 => some 16
  | 0x0016 => some 0
  | 0x0017 => some 0
  | 0x0018 => some 0
  | _ => none

def requiredSections : List Nat := [0x0001, 0x0002, 0x0003, 0x0010, 0x0011, 0x0012, 0x0013, 0x0015]
def logicalSections : List Nat := [0x0001, 0x0002, 0x0003, 0x0004, 0x0005, 0x0006]

/-- A section table entry (08:Table 8.2). -/
structure SectionEntry where
  type : Nat
  offset : Nat
  length : Nat
  rsvd : Nat
  deriving DecidableEq, Repr

def sectionEntry (x : Nat) : SectionEntry := ⟨bits x 15 0, bits x 127 80, bits x 79 32, bits x 31 16⟩

/-- The bytes of an image with its header and its section table. -/
structure Raw where
  bytes : Bytes
  head : Nat
  table : List SectionEntry
  deriving DecidableEq, Repr

def rawOf (b : Bytes) : Raw :=
  let h := leNat (b.take 128)
  ⟨b, h, (recordsOf 16 ((b.drop 128).take (16 * bits h 399 384))).map sectionEntry⟩

def Raw.has (r : Raw) (t : Nat) : Bool := r.table.any (fun e => e.type == t)

def Raw.body (r : Raw) (t : Nat) : Bytes :=
  match r.table.find? (fun e => e.type == t) with
  | some e => (r.bytes.drop e.offset).take e.length
  | none => []

/-- The records of a section with records of one size. -/
def Raw.recs (r : Raw) (t : Nat) : List Nat := recordsOf ((sectionRecord t).getD 1) (r.body t)

def Raw.cells (r : Raw) : List Nat := recordsOf 8 ((r.body 0x0010).drop 8)
def Raw.cellsHead (r : Raw) : Nat := leNat ((r.body 0x0010).take 8)
def Raw.owners (r : Raw) : List RawOwner := (splitOwners ((r.body 0x0016).length + 1) (r.body 0x0016)).getD []
def Raw.groups (r : Raw) : RawGroups := (splitGroups (r.body 0x0017)).getD ⟨0, [], [], []⟩
def Raw.dma (r : Raw) : List RawDma := (splitDma ((r.body 0x0018).length + 1) (r.body 0x0018)).getD []

/-- Is a section's LENGTH a whole number of its records? -/
def Raw.whole (r : Raw) (e : SectionEntry) : Bool :=
  match e.type with
  | 0x0016 => (splitOwners (e.length + 1) (r.body e.type)).isSome
  | 0x0017 => (splitGroups (r.body e.type)).isSome
  | 0x0018 => (splitDma (e.length + 1) (r.body e.type)).isSome
  | 0x0010 => decide (8 ≤ e.length) && e.length % 8 == 0
  | t => e.length % max 1 ((sectionRecord t).getD 1) == 0

/-- Does the container keep R205 to R207, for `len` bytes read? -/
def Raw.formatOk (r : Raw) (len : Nat) : Bool :=
  let h := r.head
  let n := bits h 399 384
  decide (128 ≤ len) && r.bytes.length == len && bits h 31 0 == 0x31544445 && bits h 383 368 == 1 && bits h 351 32 == 0 &&
  bits h 359 355 == 0 && bits h 511 448 == len && decide (128 + 16 * n ≤ len) &&
  r.table.all (fun e => (sectionRecord e.type).isSome && e.rsvd == 0 && e.offset % 64 == 0 && decide (128 + 16 * n ≤ e.offset) &&
    decide (e.offset + e.length ≤ len) && r.whole e) &&
  (List.range (n - 1)).all (fun i => match r.table[i]?, r.table[i + 1]? with
    | some a, some b => decide (a.type < b.type)
    | _, _ => true) &&
  requiredSections.all r.has &&
  r.table.all (fun a => r.table.all (fun b => a.type == b.type || a.length == 0 || b.length == 0 ||
    decide (a.offset + a.length ≤ b.offset) || decide (b.offset + b.length ≤ a.offset)))

/-! ## The digests (08:R209) -/

/-- The byte string of the program digest. -/
def Raw.programBytes (r : Raw) : Bytes :=
  [BitVec.ofNat 8 (bits r.head 367 360), BitVec.ofNat 8 (bits r.head 352 352)] ++
  (r.table.filter (fun e => logicalSections.contains e.type)).flatMap (fun e => leBytes 2 e.type ++ leBytes 8 e.length ++ r.body e.type)

def Raw.programDigest (r : Raw) : BitVec 512 := shake512 r.programBytes
def Raw.structureDigest (r : Raw) : BitVec 512 := shake512 r.bytes

/-! ## Records -/

def layoutOf (x : Nat) : Layout :=
  let r := bits x 39 37
  { id := bits x 63 48, format := bits x 47 40, rank := r, blockAxis := bits x 36 34, interleaved := bits x 33 33 == 1
    fill := BitVec.ofNat 32 x, scaleBlock0 := bits x 599 560
    dims := (List.range r).map (fun k => bits x (159 + 32 * k) (128 + 32 * k))
    tstride := (List.range r).map (fun k => bits x (359 + 40 * k) (320 + 40 * k))
    tileLog2 := (List.range r).map (fun k => bits x (81 + 4 * k) (78 + 4 * k))
    order := (List.range r).map (fun p => bits x (112 + 3 * p) (110 + 3 * p))
    swzShift := bits x 109 105, swzBits := bits x 104 102 }

def tensorOf (x : Nat) : TensorRec :=
  ⟨bits x 255 224, bits x 223 208, bits x 207 206, bits x 205 205 == 1, bits x 204 204 == 1, bits x 203 203 == 1, bits x 191 160⟩

def opOf (x : Nat) : OpRec :=
  ⟨bits x 511 480, bits x 479 464, bits x 463 456, bits x 455 440, bits x 439 408, bits x 407 376, bits x 375 344, bits x 343 312,
    bits x 311 280, bits x 279 272, BitVec.ofNat 256 x⟩

def digestOf (x : Nat) : DigestRec := ⟨bits x 15 0, bits x 23 16 == 1, bits x 63 32, bits x 95 64⟩
def regionOf (x : Nat) : RegionRec := ⟨bits x 31 0, bits x 39 32, signedOf 16 (bits x 63 48), bits x 95 64⟩
def cellOf (x : Nat) : CellRec := ⟨bits x 63 48, bits x 47 44, bits x 43 43 == 1, bits x 42 42, bits x 41 40⟩
def poundOf (x : Nat) : PoundRec := ⟨bits x 63 38, bits x 24 0⟩

/-- The records of INSTRUCTIONS with their logical cell and pound (08:R214): `n` markers have gone before. -/
def placeInstrs (pounds : Nat) : Nat → List Nat → List IRec
  | _, [] => []
  | n, x :: t =>
    let e := bits x 231 228
    let n' := if e = 0 then n + 1 else n
    ⟨(n' - 1) / max 1 pounds, (n' - 1) % max 1 pounds, bits x 255 232, e, bits x 223 192, bits x 191 160, BitVec.ofNat 160 x⟩ :: placeInstrs pounds n' t

def routeOf (x : Nat) : LinkRoute :=
  ⟨bits x 31 16, bits x 15 8 == 1, bits x 47 32, bits x 63 48, bits x 95 64, bits x 117 96, bits x 159 128, bits x 191 160, bits x 223 192⟩

def memRecOf (x : Nat) : MemRec := ⟨bits x 31 0, bits x 41 40, bits x 49 48, bits x 127 64⟩

def ownerOfRaw (o : RawOwner) : OwnerTable :=
  ⟨bits o.head 255 224, bits o.head 223 184, bits o.head 183 182, bits o.head 165 126, o.entries.map (fun e => (bits e 63 44, bits e 39 0))⟩

def collOfRaw (members : List Nat) (x : Nat) : CollRec :=
  { coll := bits x 31 0, op := bits x 39 32, tree := bits x 47 40 == 1, innet := bits x 55 48 == 1, root := bits x 95 80
    issuePound := bits x 159 128, issueTick := bits x 191 160, releasePound := bits x 223 192, releaseTick := bits x 255 224
    members := (members.drop (bits x 127 96)).take (bits x 79 64) }

def descrOf (x : Nat) : Descr :=
  { route := bits x 511 496, m2offset := bits x 495 456, m2tensor := bits x 455 424, moffset := bits x 423 384, mtensor := bits x 383 352
    saddr := bits x 351 330, dynaddr := bits x 329 308, dynS := bits x 307 307 == 1, dynM := bits x 306 306 == 1, mwrap := bits x 305 301
    swrap := bits x 300 296, format := bits x 295 288, kind := bits x 287 284, length := bits x 255 224 }

def dmaOfRaw (d : RawDma) : DmaCell :=
  ⟨bits d.head 31 0, (List.range 8).map (fun i => bits d.head (71 + 8 * i) (64 + 8 * i)), d.descrs.map descrOf⟩

/-- ROUTES records of a TYPE. -/
def Raw.routesOf (r : Raw) (t : Nat) : List Nat := (r.recs 0x0014).filter (fun x => bits x 7 0 == t)

/-- The image as the module holds it. -/
def Raw.image (r : Raw) : Image :=
  { minLevel := bits r.head 367 360, compat := bits r.head 352 352 == 1, fold2 := bits r.head 353 353 == 1, fold4 := bits r.head 354 354 == 1
    modules := bits r.head 415 400, logicalCells := bits r.head 447 416, bytes := bits r.head 511 448
    tensors := (r.recs 0x0001).map tensorOf, layouts := (r.recs 0x0002).map layoutOf, ops := (r.recs 0x0003).map opOf
    streams := (r.recs 0x0004).map (fun x => bits x 15 0), digests := (r.recs 0x0005).map digestOf, regions := (r.recs 0x0006).map regionOf
    dieMask := BitVec.ofNat 16 (bits r.cellsHead 63 48), cells := r.cells.map cellOf, sill := (r.recs 0x0011).map (fun x => bits x 19 0)
    pounds := (r.recs 0x0012).map poundOf, instrs := placeInstrs (r.recs 0x0012).length 0 (r.recs 0x0013)
    linkRoutes := (r.routesOf 1).map routeOf, connections := (r.routesOf 2).map (fun x => (bits x 63 32, bits x 95 64))
    surveyBindings := (r.routesOf 3).map (fun x => (bits x 63 32, bits x 95 64)), sillTree := (r.routesOf 4).map (fun x => (bits x 31 16, bits x 47 32))
    memory := (r.recs 0x0015).map memRecOf, owners := r.owners.map ownerOfRaw, colls := r.groups.recs.map (collOfRaw r.groups.members)
    dma := r.dma.map dmaOfRaw }

end Sys2Proof.Machine
end

