-- ==== Sys2Proof/Machine/ImageRules.lean ====
section
/-! DEFINITION. The rules that a load enforces on the records of an image (08:R222, REASON RULE): one list of breaches for each section, in ascending record order. -/

namespace Sys2Proof.Machine

open Sys2Proof

/-- RECORD of a breach of a section as a whole (08:R222). -/
def wholeSection : Nat := 0xFFFFFFFF

/-- The breaches of a section's records: `bad` says whether record i breaks a rule. -/
def breaches {α : Type} (sec : Nat) (l : List α) (bad : Nat → α → Bool) : List (Nat × Nat) :=
  (List.zip (List.range l.length) l).filterMap (fun y => if bad y.1 y.2 then some (sec, y.1) else none)

def breachIf (c : Bool) (sec : Nat) : List (Nat × Nat) := if c then [(sec, wholeSection)] else []

/-! ## TENSORS and LAYOUTS -/

/-- The formats that a kind permits (03:Table 3.3). -/
def kindPermits (kind f : Nat) : Bool :=
  match kind with
  | 1 => isFormat f
  | 3 => f == 0x11 || f == 0x12 || f == 0x13 || isAncFmt f
  | _ => isBlockFmt f || f == 0x10 || f == 0x11 || isAncFmt f

def Image.kind (g : Image) (t : Nat) : Nat := (g.tensor t).elim 0 (fun r => r.kind)
def Image.declared (g : Image) (t : Nat) : Bool := (g.tensor t).isSome
def Image.isRegion (g : Image) (t : Nat) : Bool := (g.region t).isSome
def Image.isSkim (g : Image) (t : Nat) : Bool := (g.tensor t).any (fun r => r.companion != 0)

/-- A skim and its body (08:R210, 05:R146). -/
def Image.skimOk (g : Image) (i : Nat) (t : TensorRec) : Bool :=
  t.companion == 0 ||
  (match g.tensor t.companion, g.lay t.companion, g.lay t.id with
   | some b, some lb, some lt => b.companion == 0 && lb.format == 0x10 && lt.format == 0x10 && t.kind == 0 && b.kind == 0 && sameShape lb lt &&
      !(g.tensors.take i).any (fun o => o.companion == t.companion)
   | _, _, _ => false)

/-- A tensor record (08:R210, 03:R73, 02:R58). -/
def Image.tensorBad (g : Image) (i x : Nat) : Bool :=
  let t := tensorOf x
  t.id == 0 || decide (2 ^ 20 ≤ i) || (g.tensors.take i).any (fun o => o.id == t.id) || bits x 202 192 != 0 || bits x 159 0 != 0 ||
  (match g.layout t.layoutId with
   | none => true
   | some l => !kindPermits t.kind l.format || (isAncFmt l.format && t.persist && !g.isRegion t.id)) ||
  !g.skimOk i t

/-- Is a list the permutation of 0 to n − 1? -/
def isPerm (l : List Nat) (n : Nat) : Bool := l.length == n && (List.range n).all l.contains

/-- The tile grid is dense (06:R152 item 4). -/
def Layout.dense (l : Layout) : Bool :=
  let ks := sortBy (fun a b => decide (l.tstride.getD a 0 ≤ l.tstride.getD b 0)) (List.range l.rank)
  let r := ks.foldl (fun (a : Bool × Nat) k => (a.1 && l.tstride.getD k 0 == a.2, a.2 * l.grid k)) (true, 1)
  r.1 && (List.range l.rank).all (fun a => (List.range l.rank).all (fun b => a == b || l.tstride.getD a 0 != l.tstride.getD b 0))

/-- A layout descriptor (06:R151, R152, R201). -/
def Image.layoutBad (g : Image) (i x : Nat) : Bool :=
  let l := layoutOf x
  let high := (List.range 6).filter (fun k => decide (l.rank ≤ k))
  let block := isBlockFmt l.format
  decide (4096 ≤ i) || (g.layouts.take i).any (fun o => o.id == l.id) ||
  decide (l.rank < 1 ∨ 6 < l.rank) || l.dims.contains 0 ||
  high.any (fun k => bits x (159 + 32 * k) (128 + 32 * k) != 0 || bits x (359 + 40 * k) (320 + 40 * k) != 0 || bits x (81 + 4 * k) (78 + 4 * k) != 0) ||
  !isPerm l.order l.rank || bits x 127 110 / 2 ^ (3 * l.rank) != 0 ||
  l.tileLog2.any (fun n => decide (15 < n)) || decide (2 ^ 20 < l.tileElems) || !l.dense ||
  bits x 1023 600 != 0 || bits x 77 64 != 0 || bits x 32 32 != 0 || !isFormat l.format || decide (2 ^ 40 < l.elemBarges) ||
  (if block then
    l.order.getD 0 0 != l.blockAxis || decide (l.tileLog2.getD l.blockAxis 0 < 5) ||
    (if l.interleaved then l.scaleBlock0 != 0
     else decide (l.scaleBlock0 < l.elemBarges) || decide (2 ^ 40 < l.scaleBlock0 + l.scaleBarges))
   else l.blockAxis != 0 || l.interleaved || l.scaleBlock0 != 0) ||
  decide (5 < l.swzBits) || (l.swzBits != 0 && (decide (l.swzShift < 11) || decide (22 < l.swzShift + l.swzBits))) ||
  (g.compat && l.swzBits != 0)

/-! ## OPERATIONS -/

/-- The opcodes with an anchored sum of their own (08:R211). -/
def hasSum (opcode : Nat) : Bool := opcode == 0x0100 || opcode == 0x0110 || opcode == 0x0230 || decide (0x0210 ≤ opcode ∧ opcode ≤ 0x0213)

/-- The PARAMS bits that Table 8.6 names, none for another opcode (08:R212). -/
def paramsMask (opcode : Nat) : Option Nat :=
  match opcode with
  | 0x0100 => some (2 ^ 32 - 1)
  | 0x0110 => some 15
  | 0x0200 => some (2 ^ 128 - 1)
  | 0x0210 => some 0
  | 0x0211 => some (2 ^ 32 - 1)
  | 0x0212 => some (2 ^ 32 - 1)
  | 0x0213 => some (2 ^ 64 - 1)
  | 0x0220 => some (2 ^ 65 - 1)
  | 0x0221 => some (2 ^ 64 - 1)
  | 0x0230 => some (2 ^ 32 - 1)
  | 0x0231 => some (2 ^ 128 - 1)
  | 0x0240 => some (2 ^ 128 - 1)
  | 0x0300 => some (2 ^ 256 - 2 ^ 64 + (2 ^ 19 - 1))
  | 0x0310 => some 7
  | 0x0311 => some 7
  | 0x0312 => some 7
  | 0x0400 => some (2 ^ 36 - 1)
  | 0x0500 => some 0
  | _ => none

def OpRec.par (o : OpRec) (h l : Nat) : Nat := bits o.params.toNat h l

/-- The tensors that an operation reads and those that it writes. -/
def OpRec.reads (o : OpRec) : List Nat :=
  [o.src0, o.src1, o.src2].filter (fun t => t != 0) ++ (if o.opcode = 0x0100 ∧ o.par 31 0 ≠ 0 then [o.par 31 0] else []) ++
  (if o.opcode = 0x0240 then [o.dst] else [])

def OpRec.writes (o : OpRec) : List Nat :=
  o.dst :: ((if o.opcode = 0x0213 then [o.par 63 32] else []) ++ (if o.opcode = 0x0231 then [o.par 31 0] else []))

/-- The source origins that a copy record fixes (06:R162). -/
def OpRec.origin (o : OpRec) (k : Nat) : Int := signedOf 32 (o.par (32 * k + 95) (32 * k + 64))

/-- A copy whose window, fixed in the image, lies wholly outside its source (08:R211). -/
def Image.onlyFill (g : Image) (o : OpRec) : Bool :=
  o.opcode == 0x0300 && o.par 18 18 == 0 &&
  (match g.lay o.src0, g.lay o.dst with
   | some a, some b => (List.range b.rank).any (fun k =>
      let d := permOf o.params.toNat k
      decide (a.dims.getD d 0 ≤ o.origin d ∨ o.origin d + (b.dims.getD k 0 : Nat) ≤ 0))
   | _, _ => false)

/-- An operation reads a tensor that only a later one of the step writes (08:R211). -/
def Image.readsAhead (g : Image) (i : Nat) (o : OpRec) : Bool :=
  o.reads.any (fun t =>
    (g.ops.drop (i + 1)).any (fun p => p.writes.contains t) && !(g.ops.take i).any (fun p => p.writes.contains t) &&
    !(g.tensor t).any (fun r => r.persist) && !(t == o.src0 && g.onlyFill o))

/-- Formats that hold every value of a format (03:Table 3.1). -/
def holdsAll (src dst : Nat) : Bool :=
  match dst with
  | 0x11 => src == 0x11 || src == 0x10 || isBlockFmt src
  | 0x10 => src == 0x10 || src == 0x01 || src == 0x02 || src == 0x03 || src == 0x06
  | 0x13 => src == 0x12 || src == 0x13
  -- rescaling an INT8 block that holds −2, or an E5M2 block that holds an infinity, rounds its other elements (03:R74)
  | _ => src == dst && dst != 0x05 && dst != 0x06

/-- Does an operation draw random words (04:R105, R109, R110, R115; 03:R83, R85; 05:R148)? -/
def Image.drawsWords (g : Image) (o : OpRec) : Bool :=
  let graded (exact : Nat → Bool) : Bool := o.writes.any (fun t => g.kind t == 2 && !isAncFmt (g.fmt t) && !exact (g.fmt t))
  match o.opcode with
  | 0x0220 => o.par 64 64 == 0 && (o.par 31 0 != 0 || graded (fun f => f == 0x11))
  | 0x0221 => true
  | 0x0230 => true
  | 0x0240 => (g.kind o.dst == 0 && g.fmt o.dst != 0x11) || graded (fun f => f == 0x11)
  | 0x0310 => false
  | 0x0311 => false
  | 0x0312 => false
  | 0x0400 => false
  | 0x0300 => g.fmt o.src0 != g.fmt o.dst && graded (holdsAll (g.fmt o.src0))
  | 0x0500 => graded (holdsAll (g.fmt o.src0))
  | 0x0100 => graded (fun _ => false)
  | 0x0110 => graded (fun _ => false)
  | _ => graded (fun f => f == 0x11)

/-- A chain (08:R213). -/
def chainBad (params : Nat) : Bool :=
  let codes := (List.range 8).map (fun n => bits params (8 * n + 7) (8 * n))
  let m := (codes.takeWhile (fun c => c != 0)).length
  m == 0 || (codes.drop m).any (fun c => c != 0) ||
  (codes.take m).any (fun c => !(decide (1 ≤ c ∧ c ≤ 0x0D) || decide (0x10 ≤ c ∧ c ≤ 0x16))) || bits params 127 (96 + 4 * m) != 0

/-- A matrix operand's layout (06:R158, but for the region base; 06:R201 for a compatibility image). -/
def Image.operandCapable (g : Image) (l : Layout) (kDim : Nat) : Bool :=
  (g.compat || (l.swzShift == 11 && l.swzBits == 5)) && l.tile (1 - kDim) == 128 && l.tile kDim % 32 == 0 &&
  (!isBlockFmt l.format || (!l.interleaved && l.blockAxis == kDim))

/-- A matrix product (05:R123, R124, R126 to R130; 06:R158). -/
def Image.matrixBad (g : Image) (o : OpRec) : Bool :=
  match g.lay o.src0, g.lay o.src1, g.lay o.dst with
  | some a, some b, some d =>
    let tr0 := bits o.flags 0 0
    let tr1 := bits o.flags 1 1
    let sp0 := bits o.flags 2 2
    let sp1 := bits o.flags 3 3
    let k := o.km1 + 1
    let stored (sp : Nat) : Nat := if sp = 1 then 2 * ceilDiv k 4 else k
    let m := a.dims.getD tr0 0
    let n := b.dims.getD (1 - tr1) 0
    let blocks := ceilDiv k 32
    a.format != b.format || a.rank != 2 || b.rank != 2 || d.rank != 2 ||
    (d.format != 0x11 && !isAncFmt d.format) ||
    (sp0 + sp1 != 0 && (!isBlockFmt a.format || sp0 + sp1 == 2)) || ((sp0 + sp1 == 0) != (o.src2 == 0)) ||
    a.dims.getD (1 - tr0) 0 != stored sp0 || b.dims.getD tr1 0 != stored sp1 || d.dims != [m, n] ||
    !g.operandCapable a (1 - tr0) || !g.operandCapable b tr1 ||
    (o.src2 != 0 && (g.fmt o.src2 != 0x12 || g.kind o.src2 != 1 || (g.lay o.src2).any (fun l => l.dims != [if sp0 = 1 then m else n, blocks]))) ||
    (o.par 31 0 != 0 && (g.fmt (o.par 31 0) != 0x12 || g.kind (o.par 31 0) != 1 || (g.lay (o.par 31 0)).any (fun l => l.dims != [ceilDiv blocks 32])))
  | _, _, _ => true

/-- The composites (05:R136): row length, shapes of g and b. -/
def Image.compositeBad (g : Image) (o : OpRec) : Bool :=
  match g.lay o.src0 with
  | none => true
  | some l =>
    let vec (t : Nat) : Bool := match g.lay t with
      | some v => v.dims == [l.rowLen] || v.dims == l.dims
      | none => false
    decide (2 ^ 24 < l.rowLen) || o.km1 + 1 != l.rowLen || (o.opcode == 0x0213 && decide (2 ^ 32 < l.count / l.rowLen)) ||
    (o.opcode == 0x0211 && !vec o.src1) || (o.opcode == 0x0212 && (!vec o.src1 || !vec o.src2)) ||
    (o.opcode == 0x0213 && g.fmt o.src1 != 0x12)

/-- A sampling operation (04:R111; the refusals beyond it: log entry 135). -/
def Image.samplingBad (g : Image) (o : OpRec) : Bool :=
  match g.lay o.src0, g.lay o.src1, g.lay o.dst with
  | some l, some p, some d =>
    let n := l.dims.getD 0 0
    o.window != 0x21 || l.rank != 2 || (l.format != 0x10 && l.format != 0x11) || decide (2 ^ 24 < l.rowLen) ||
    p.format != 0x12 || g.kind o.src1 != 1 || p.dims != [n, 3] || d.format != 0x12 || d.count != n
  | _, _, _ => true

/-- A layout copy (06:R161, R162, R436). -/
def Image.copyBad (g : Image) (o : OpRec) : Bool :=
  match g.lay o.src0, g.lay o.dst with
  | some a, some b =>
    let p := o.par 17 0
    let perm := (List.range b.rank).map (permOf o.params.toNat)
    let dyn := o.par 18 18 == 1
    a.rank != b.rank || (p != 0 && (!isPerm perm b.rank || p / 2 ^ (3 * b.rank) != 0)) ||
    (dyn && (o.par 255 64 != 0 || g.fmt o.src1 != 0x12 || g.kind o.src1 != 1 || (g.lay o.src1).any (fun l => decide (l.count < a.rank)))) ||
    (!dyn && decide (a.rank < 6) && o.par 255 (64 + 32 * a.rank) != 0) ||
    (isBlockFmt a.format && a.format == b.format &&
      (perm.getD b.blockAxis 0 != a.blockAxis || (!dyn && decide (o.origin a.blockAxis % 32 ≠ 0))))
  | _, _ => true

/-- Gathers and scatters (06:R167, R168). The indexed tensor stands where the operation's records
reach it; without a record, in device memory when it is declared there and in the scratchpad else. -/
def Image.sliceBad (g : Image) (o : OpRec) : Bool :=
  let dim := o.par 2 0
  let t := if o.opcode = 0x0310 then o.src0 else o.dst
  let engines := (g.instrs.filter (fun r => r.opId == o.id && r.engine != 0)).map (·.engine)
  match g.lay t, g.lay o.src0, g.lay o.dst with
  | some l, some a, some b =>
    g.fmt o.src1 != 0x12 || g.kind o.src1 != 1 || (o.opcode != 0x0312 && (a.format != b.format || (isBlockFmt a.format && a.blockAxis != b.blockAxis))) ||
    -- the extent in the other dimensions is that of the operation's other tensor
    (let e := if o.opcode = 0x0310 then b.dims else a.dims
     a.rank != b.rank ||
     (engines.contains 4 && !l.sliceOk dim e false) || (engines.contains 5 && !l.sliceOk dim e true) ||
     (!engines.contains 4 && !engines.contains 5 && !l.sliceOk dim e (g.memory.any (fun m => m.tensor == t && m.use == 0))))
  | _, _, _ => true

/-- Contribution formats of a cell type (09:Table 9.3). -/
def contributes (cellType f : Nat) : Bool :=
  if cellType = 0x21 then f == 0x10 || f == 0x11 || isAncFmt f else f == cellType

/-- Anchored operands and destinations (02:R59, 03:Table 3.4, 05:R126). -/
def Image.anchoredBad (g : Image) (o : OpRec) : Bool :=
  let may := o.opcode == 0x0300 || o.opcode == 0x0310 || o.opcode == 0x0311 || o.opcode == 0x0312 || o.opcode == 0x0400 || o.opcode == 0x0500
  let df := g.fmt o.dst
  (!may && o.reads.any (fun t => isAncFmt (g.fmt t))) || (o.writes.drop 1).any (fun t => isAncFmt (g.fmt t)) ||
  (isAncFmt df && o.opcode != 0x0312 &&
    !(if o.opcode = 0x0100 ∨ o.opcode = 0x0110 then df == o.window else may && g.fmt o.src0 == df))

/-- A collective operation (11:R304, 02:R45, R57). -/
def Image.collectiveBad (g : Image) (o : OpRec) : Bool :=
  match g.coll (o.par 35 4) with
  | none => true
  | some r =>
    let a := g.fmt o.src0
    let b := g.fmt o.dst
    -- the survey of a bound operation whose partial is the source
    let early := g.surveyBindings.any (fun y => (g.op y.1).any (fun p => p.dst == o.src0) && isAncFmt a &&
      (g.coll y.2).any (fun v => decide (r.issuePound < v.releasePound ∨ (r.issuePound = v.releasePound ∧ r.issueTick < v.releaseTick))))
    -- what an anchored sum combines is one logical sum, whose survey record the destination takes over (02:R58)
    let sameSum := (g.lay o.src0).map (·.dims) == (g.lay o.dst).map (·.dims) && g.ops.all (fun p => !(hasSum p.opcode && p.dst == o.dst) || p.dst == o.src0)
    -- a region is read after its close (02:R63)
    (g.region o.src0).any (fun q => decide (r.issuePound ≤ g.lastPound q.opId)) ||
    r.op == 3 || decide (3 < o.par 3 0) || a == 0x22 || b == 0x22 ||
    (r.op == 1 && !(a == b && (a == 0x20 || a == 0x21) && sameSum)) || (r.op == 0 && a != b) || early

/-- An operation record (08:R211 to R213 and the rules of the operation's chapter). -/
def Image.opBad (g : Image) (i : Nat) (o : OpRec) : Bool :=
  let x := o.params.toNat
  o.id != i || bits o.flags 7 4 != 0 ||
  (match paramsMask o.opcode with
   | none => true
   | some m => Nat.lor x m != m) ||
  (o.reads ++ o.writes).any (fun t => !g.declared t) || g.readsAhead i o ||
  o.reads.any (fun t => (g.region t).any (fun r => decide (i ≤ r.opId))) ||
  (hasSum o.opcode != (o.window != 0)) || !([0, 0x20, 0x21, 0x22, 0x60].contains o.window) || (o.window == 0x60 && !g.compat) ||
  (!hasSum o.opcode && o.km1 != 0) || g.anchoredBad o ||
  (g.drawsWords o && !g.streams.contains o.stream) ||
  (o.opcode != 0x0240 && (o.reads ++ o.writes).any g.isSkim) ||
  o.writes.any (fun t => (g.tensor t).any (fun r => r.shared)) ||
  o.writes.any (fun t => g.isRegion t != (o.opcode == 0x0312)) ||
  (match o.opcode with
   | 0x0100 => g.matrixBad o
   | 0x0200 => chainBad x
   | 0x0240 => chainBad x
   | 0x0210 => g.compositeBad o
   | 0x0211 => g.compositeBad o
   | 0x0212 => g.compositeBad o
   | 0x0213 => g.compositeBad o
   | 0x0230 => g.samplingBad o
   | 0x0300 => g.copyBad o
   | 0x0310 => g.sliceBad o
   | 0x0311 => g.sliceBad o
   | 0x0312 => g.sliceBad o || !(g.region o.dst).any (fun r => contributes r.cellType (g.fmt o.src0))
   | 0x0400 => g.collectiveBad o
   | _ => false)

/-! ## STREAMS, DIGESTS, REGIONS -/

def Image.streamBad (g : Image) (i x : Nat) : Bool := bits x 63 16 != 0 || (g.streams.take i).contains (bits x 15 0)

def Image.digestBad (g : Image) (i x : Nat) : Bool :=
  let d := digestOf x
  decide (1 < bits x 23 16) || bits x 31 24 != 0 || bits x 127 96 != 0 || (g.digests.take i).any (fun e => e.point == d.point) ||
  decide (g.ops.length ≤ d.opId) ||
  (match g.lay d.tensor with
   | none => true
   | some l => l.format == 0x22 || decide (2 ^ 48 ≤ l.count))

def Image.regionBad (g : Image) (i x : Nat) : Bool :=
  let r := regionOf x
  !(r.cellType == 0x21 || r.cellType == 0x12 || r.cellType == 0x13) || g.fmt r.tensor != r.cellType || bits x 47 40 != 0 || bits x 127 96 != 0 ||
  (r.cellType != 0x21 && bits x 63 48 != 0) || decide (g.ops.length ≤ r.opId) || (g.regions.take i).any (fun e => e.tensor == r.tensor)

/-! ## CELLS, SILL, POUNDS -/

/-- The physical dies of an image in order of the logical dies (08:R216). -/
def Image.dies (g : Image) : List Nat := (List.range 16).filter (fun d => g.dieMask.getLsbD d)

/-- The fold groups that the image's audit limit applies to (08:R216): factor and group of a cell. -/
def Image.auditKeys (g : Image) (c : CellRec) : List (Nat × Nat) :=
  if g.fold2 || g.fold4 then (if g.fold2 then [(2, c.g2)] else []) ++ (if g.fold4 then [(4, c.g4)] else []) else [(1, 0)]

/-- A cell record (08:R216); its POSITION lies below M (log entry 178). -/
def Image.cellBad (g : Image) (i x : Nat) : Bool :=
  let c := cellOf x
  let before := (g.cells.take i).filter (fun e => e.position == c.position)
  bits x 39 0 != 0 || decide (g.dies.length ≤ c.ldie) || decide (g.modules ≤ c.position) || decide (4096 ≤ before.length) ||
  (c.g2 != 0 && !g.fold2) || (c.g4 != 0 && !g.fold4) ||
  (c.audit && (g.auditKeys c).any (fun k =>
    decide (2 ≤ before.countP (fun e => e.audit && e.ldie == c.ldie && (g.auditKeys e).contains k))))

def Image.sillBad (g : Image) (i x : Nat) : Bool := bits x 31 20 != 0 || (g.sill.take i).contains (bits x 19 0)

/-- The largest fold factor that the image declares (07:R194). -/
def Image.maxFold (g : Image) : Nat := if g.fold4 then 4 else if g.fold2 then 2 else 1

/-- Does a pound's sill lead fit a fold factor (07:R184)? -/
def PoundRec.leadOk (p : PoundRec) (f : Nat) : Bool := decide (p.lead ≤ f * p.length - p.length / 64)

/-- A pound (07:R179, R183, R184): the sill lead is held against the largest factor; placement passes over the factors that it does not fit. -/
def Image.poundBad (g : Image) (i x : Nat) : Bool :=
  let p := poundOf x
  decide (2 ^ 20 ≤ i) || bits x 37 25 != 0 || p.length % 256 != 0 || decide (p.length < 4096 ∨ 2 ^ 24 < p.length) ||
  (decide (1 < g.modules) && (p.lead % 256 != 0 || decide (p.lead < 256) || !p.leadOk g.maxFold))

/-! ## INSTRUCTIONS -/

/-- ARGS bits below this one have no name (08:Table 8.9). -/
def argsLow (engine : Nat) : Nat :=
  match engine with
  | 0 => 160
  | 1 => 18
  | 2 => 44
  | 3 => 86
  | 4 => 42
  | 5 => 142
  | 6 => 64
  | _ => 102

/-- A record as an issue of logical cell `rc.cell` on an unfolded scratchpad. -/
def Image.staticIssue (g : Image) (rc : IRec) : Option Issue := (g.op rc.opId).map (fun o => ⟨0, g, rc, o, ⟨rc.cell, 0, 0, 0, false⟩, 1⟩)

/-- Bytes that a record reads or writes in a scratchpad (07:R197): the tensor and half-open runs of addresses. -/
structure Use where
  tensor : Nat
  write : Bool
  runs : List (Int × Int)
  /-- The anchored sums whose partials the bytes may be, as `Image.sumsOf` numbers them; none where they are no partials. -/
  sums : List Nat := []
  /-- Where byte 0 of the tensor lies. -/
  base : Int := 0
  deriving DecidableEq, Repr

/-- A byte range from an address on. -/
def useRange (tensor : Nat) (write : Bool) (a n : Nat) : Use := ⟨tensor, write, [((a : Int), ((a + n : Nat) : Int))], [], a⟩

/-- Neighbours that touch are joined. -/
def joinRuns (l : List (Int × Int)) : List (Int × Int) :=
  l.foldr (fun y r => match r with
    | z :: t => if z.1 ≤ y.2 ∧ y.1 ≤ z.2 then (min y.1 z.1, max y.2 z.2) :: t else y :: r
    | [] => [y]) []

/-- The runs of a set of bytes in ascending order. -/
def sortRuns (l : List (Int × Int)) : List (Int × Int) := joinRuns (mergeSorted (fun a b => decide (a.1 ≤ b.1)) (joinRuns l))

/-- What two sets of runs share, and what the first has beyond the second. -/
def cutRuns (a b : List (Int × Int)) : List (Int × Int) :=
  a.flatMap (fun x => b.filterMap (fun y => if max x.1 y.1 < min x.2 y.2 then some (max x.1 y.1, min x.2 y.2) else none))

def lessRuns (a b : List (Int × Int)) : List (Int × Int) :=
  b.foldl (fun l y => l.flatMap (fun x => [(x.1, min x.2 y.1), (max x.1 y.2, x.2)].filter (fun z => decide (z.1 < z.2)))) a

/-- The end of the highest run. -/
def Use.hi (u : Use) : Int := u.runs.foldl (fun a y => max a y.2) 0

/-- Do two uses share a byte? -/
def Use.meets (a b : Use) : Bool := !(cutRuns a.runs b.runs).isEmpty

/-- The bytes of positions of an operand, scale bytes included. -/
def Operand.reach (o : Operand) (write : Bool) (ps : List Nat) : List Use :=
  if ps.isEmpty then [] else
  let at_ (base : Int) (a n : Nat) : Int × Int := (base + (a : Int), base + (a + n : Nat))
  [⟨o.tensor, write, sortRuns (ps.map (fun p => at_ o.vbase (o.lay.byteOf p).1 (o.lay.spanBytes p)) ++
    (if isBlockFmt o.lay.format then ps.map (fun p => if o.lay.interleaved then at_ o.vbase (o.lay.interScale p) 1 else at_ o.sbase (p / 32) 1) else [])), [], o.vbase⟩]

def reachOf (o : Option Operand) (write : Bool) (ps : Layout → List Nat) : List Use :=
  match o with
  | none => []
  | some o => o.reach write (ps o.lay)

/-- What a matrix record touches. A skipped block is not known before the step, so K runs on from the first position. -/
def Issue.matrixUses (x : Issue) : List Use :=
  match x.tilePlan (fun _ => false) with
  | none => []
  | some p =>
    let side (d : Side) (first n : Nat) : List Use := d.o.reach false ((List.range n).flatMap (fun i => p.ks.filterMap (fun kk =>
      d.pos (first + i) (if d.sparse then kk / 2 else kk))))
    let line0 := if p.a.sparse then p.row0 else p.col0
    let blocks := match x.g.lay x.op.src2 with
      | none => []
      | some l => reachOf (x.operand x.op.src2 (x.arg 115 94) (l.posOf [line0, x.arg 69 38 / 32])) false (fun l =>
          (List.range (if p.a.sparse then p.rows else p.cols)).flatMap (fun i => p.ks.map (fun kk => l.posOf [line0 + i, kk / 32])))
    let z := ancBits p.win / 8
    let part (write : Bool) : List Use := (match x.g.lay x.op.dst with
      | none => []
      | some l => if isAncFmt l.format then
          reachOf (x.operand x.op.dst (x.arg 93 72) (l.posOf [p.row0, p.col0])) write (fun l => p.sites.map (fun (y : Nat × Nat) => l.posOf [p.row0 + y.1, p.col0 + y.2]))
        else [useRange x.op.dst write (x.arg 93 72) (16384 * z)]).map (fun (u : Use) => { u with sums := [x.op.id + 1] })
    side p.a p.row0 p.rows ++ side p.b p.col0 p.cols ++ blocks ++ (if 2 ≤ p.mode then part false else []) ++ (if p.mode % 2 = 1 then part true else [])

/-- The elements of a source that a list of positions of the stream takes. -/
def Src.reach (r : Src) (l : Layout) (ps : List Nat) : List Use :=
  let qs := ps.filterMap (fun p => (l.posIndex p).bind (fun e => r.place l p e))
  match r with
  | .spad o => o.reach false (qs.map (·.2))
  | .row o => o.reach false (qs.map (·.2))
  | .column o => o.reach false (qs.map (·.2))
  | _ => []

/-- What a vector record touches. -/
def Issue.vectorUses (x : Issue) : List Use :=
  let spad := x.arg 65 64 != 1
  let plain (stream dst addr : Nat) (whole : Bool) : List Use := match x.vecWork stream dst addr, x.g.lay stream with
    | some w, some l =>
      let ps := if whole then rowPositions l (Issue.rows l w.ps) else w.ps
      w.s0.reach l ps ++ w.s1.reach l ps ++ w.s2.reach l ps ++ (if spad then w.dst.reach true ps else [])
    | _, _ => []
  match x.op.opcode with
  | 0x0100 => match x.vecWork x.op.dst x.op.dst (x.arg 93 72) with
    | some w => if spad then w.dst.reach true w.ps else []
    | none => []
  | 0x0210 => plain x.op.dst x.op.dst (x.arg 93 72) true
  | 0x0211 => plain x.op.dst x.op.dst (x.arg 93 72) true
  | 0x0212 => plain x.op.dst x.op.dst (x.arg 93 72) true
  | 0x0213 => match x.vecWork x.op.src0 (x.param 63 32) (x.arg 115 94), x.g.lay x.op.src0, x.g.lay x.op.src1 with
    | some w, some l, some tl =>
      let rows := Issue.rows l w.ps
      w.s0.reach l (rowPositions l rows) ++ w.dst.reach true (rowPositions l rows) ++
      reachOf (x.operand x.op.src1 (x.arg 137 116) (tl.pos (rows.headD 0))) false (fun l => rows.map l.pos) ++
      reachOf (x.operand x.op.dst (x.arg 93 72) 0) true (fun _ => [0])
    | _, _, _ => []
  | 0x0230 => match x.g.lay x.op.src0, x.g.lay x.op.src1, x.g.lay x.op.dst with
    | some l, some pl, some dl =>
      let seqs := Issue.rows l (x.positions l)
      (x.src l 0 x.op.src0 (x.arg 159 138) x.vecFirst).reach l (rowPositions l seqs) ++
      reachOf (x.operand x.op.src1 (x.arg 137 116) (pl.pos (3 * seqs.headD 0))) false (fun l => seqs.flatMap (fun r => (List.range 3).map (fun i => l.pos (3 * r + i)))) ++
      reachOf (x.operand x.op.dst (x.arg 93 72) (dl.pos (seqs.headD 0))) true (fun l => seqs.map l.pos)
    | _, _, _ => []
  | 0x0231 => match x.g.lay x.op.src0, x.g.lay x.op.dst with
    | some l, some cl =>
      let here := Issue.rows l (x.positions l)
      let cr := x.param 95 64
      (x.src l 0 x.op.src0 (x.arg 159 138) x.vecFirst).reach l (List.range l.positions) ++
      reachOf (x.operand x.op.dst (x.arg 93 72) (cl.pos (here.headD 0 * cr))) true (fun l => here.flatMap (fun t => (List.range cr).map (fun j => l.pos (t * cr + j)))) ++
      reachOf (x.operand (x.param 31 0) (x.arg 137 116) 0) true (fun l => List.range l.positions)
    | _, _ => []
  | 0x0240 => plain x.op.dst x.op.dst (x.arg 93 72) false ++ (match x.vecWork x.op.dst x.op.dst (x.arg 93 72) with
    | some w => w.dst.reach false w.ps
    | none => [])
  | _ => plain x.op.dst x.op.dst (x.arg 93 72) false

/-- What a reduction record touches. -/
def Issue.reductionUses (x : Issue) : List Use :=
  match x.operand x.op.src0 (x.arg 159 138) x.redFirst with
  | none => []
  | some o =>
    let ps := (List.range (128 * redGroups x.rc)).filterMap (fun i => if x.redFirst + i < o.lay.positions then some (x.redFirst + i) else none)
    let outs := (ps.filterMap (fun p => (o.lay.posIndex p).map (fun _ => indexOf (dropDim o.lay.dims (x.param 2 0)) (dropDim (o.lay.posCoords p) (x.param 2 0)))))
    o.reach false ps ++ (if x.arg 106 106 = 1 then
      match x.g.lay x.op.dst with
      | none => []
      | some dl => reachOf (x.operand x.op.dst (x.arg 137 116) (dl.pos (outs.foldl min (outs.headD 0)))) true (fun l => outs.map l.pos)
     else [])

/-- What a record of a copy, a gather or a scatter in the scratchpad touches at addresses fixed in the image. -/
def Issue.sliceUses (x : Issue) : List Use :=
  let g := x.param 2 0
  let zero (l : Layout) : List Nat := List.replicate (l.rank - 1) 0
  let slots (l : Layout) (first n : Nat) : List Nat := (List.range n).filterMap (fun i => if first + i < l.count then some (l.pos (first + i)) else none)
  -- the positions of slices j on
  let slices (l : Layout) (e : List Nat) (first n : Nat) : List Nat :=
    (List.range n).flatMap (fun j => (List.range (l.slicePositions g e)).map (fun i => l.posOf (withDim (zero l) g (first + j)) + i))
  -- an indexed tensor in the scratchpad is reached at every index
  let whole (l : Layout) : List Nat := List.range l.positions
  let dma := x.rc.engine == 5
  let d := x.descr.getD ⟨0, 0, 0, 0, 0, 0, 0, false, false, 0, 0, 0, 0, 0⟩
  match x.g.lay x.op.src0, x.g.lay x.op.dst with
  | some sl, some dl =>
    let n (l : Layout) (e : List Nat) : Nat := if dma then d.length / max 1 (l.sliceBytes g e) else x.arg 61 42
    let first (l : Layout) (e : List Nat) : Nat := if dma then x.dmaFirst (l.sliceBytes g e) else x.arg 93 62
    let ix (f c : Nat) : List Use := reachOf (x.operand x.op.src1 (if dma then d.dynaddr else x.arg 115 94) 0) false (fun i => slots i f c)
    match x.op.opcode with
    | 0x0310 =>
      let f := first sl dl.dims
      let c := n sl dl.dims
      ix f c ++ (if dma then [] else reachOf (x.operand x.op.src0 (x.arg 159 138) 0) false whole) ++
      reachOf (x.operand x.op.dst (if dma then d.saddr else x.arg 137 116) (dl.sliceStart g f)) true (fun l => slices l sl.dims f c)
    | 0x0312 =>
      let f := first sl dl.dims
      let c := n sl dl.dims
      ix f c ++ reachOf (x.operand x.op.src0 d.saddr (sl.sliceStart g f)) false (fun l => slices l dl.dims f c)
    | _ =>
      let r := x.scatterSlots (first dl sl.dims) (n dl sl.dims) (sl.dims.getD g 0)
      ix r.1 r.2 ++ (if dma then [] else reachOf (x.operand x.op.dst (x.arg 137 116) 0) true whole) ++
      reachOf (x.operand x.op.src0 (if dma then d.saddr else x.arg 159 138) (if dma then sl.sliceStart g r.1 else 0)) false (fun l => slices l dl.dims r.1 r.2)
  | _, _ => []

/-- What a copy touches. The origins of a dynamic one are known at issue, where what they reach is checked; `live` asks for what they may reach. -/
def Issue.copyUses (x : Issue) (live : Bool) : List Use :=
  match x.copyPlan .reset with
  | none => []
  | some c =>
    let pm := x.op.params.toNat
    let from_ := if c.dyn then
        (if live then c.so.reach false (List.range c.so.lay.positions) else [useRange x.op.src0 false (x.arg 159 138) 1]) ++
        (match x.operand x.op.src1 (x.arg 115 94) 0 with | some o => o.reach false ((List.range c.so.lay.rank).map o.lay.pos) | none => [])
      else c.so.reach false (c.positions.filterMap (fun p => (insideShape c.so.lay.dims (c.source pm (c.dst.lay.posCoords p))).map c.so.lay.posOf))
    from_ ++ c.dst.reach true c.positions

/-- The scratchpad range of a descriptor, and the displacement's 8 bytes. -/
def Descr.uses (d : Descr) : List Use :=
  (if d.kind = 2 then [] else [{ useRange d.mtensor (d.kind == 0) d.saddr (if d.swrap = 0 then d.length else 2 ^ d.swrap) with base := (d.saddr : Int) - (d.moffset : Nat) }]) ++
  (if d.dynS || d.dynM then [useRange 0 false d.dynaddr 8] else [])

def Issue.isSlice (x : Issue) : Bool := isSliceOp x.op.opcode

/-- The operations that move the words of a tensor unchanged into another (03:R83), or combine partials of one sum (11:R304). -/
def movesWords (opcode : Nat) : Bool := opcode == 0x0300 || opcode == 0x0310 || opcode == 0x0311 || opcode == 0x0400 || opcode == 0x0500

/-- The anchored sums whose partials an anchored tensor may hold: an operation's number + 1; 2^32 + its own ID for the contents of a region and for a tensor that nothing in the image writes. The fuel bounds a chain of moves. -/
def Image.sumsOf (g : Image) : Nat → Nat → List Nat
  | 0, _ => []
  | fuel + 1, t =>
    if !isAncFmt (g.fmt t) then []
    else if g.isRegion t then [2 ^ 32 + t]
    else match g.ops.filter (fun o => o.writes.contains t && (hasSum o.opcode || movesWords o.opcode)) with
      | [] => [2 ^ 32 + t]
      | l => (l.flatMap (fun o => if hasSum o.opcode then [o.id + 1] else g.sumsOf fuel o.src0)).eraseDups

/-- The sums of a tensor that the image declares. -/
def Image.sums (g : Image) (t : Nat) : List Nat := g.sumsOf (g.ops.length + 1) t

/-- What a record touches in its own logical cell's space; with `live`, all that a dynamic copy may read. -/
def Issue.uses (x : Issue) (live : Bool) : List Use :=
  let anc (u : Use) : Use := if u.sums = [] then { u with sums := x.g.sums u.tensor } else u
  match x.rc.engine with
  | 1 => x.matrixUses
  | 2 => x.vectorUses
  | 3 => x.reductionUses.map anc
  | 4 => (if x.isSlice then x.sliceUses else x.copyUses live).map (fun u => if u.write then { u with sums := x.g.sums x.op.src0 } else anc u)
  | 5 => (if x.isSlice then x.sliceUses else x.descr.elim [] Descr.uses).map anc
  | 6 => [anc (useRange x.op.dst false (x.arg 159 138) (x.arg 83 64 * 64))]
  | 7 => [anc (useRange x.op.dst false (x.arg 159 138) (x.arg 121 102 * 4096))]
  | _ => []

/-- The bytes that an in-package send writes in the destination's space (11:R282). -/
def Issue.sendTarget (x : Issue) : List Use := if x.rc.engine = 6 then [useRange x.op.dst true (x.arg 137 116) (x.arg 83 64 * 64)] else []

/-! ## What stands in a scratchpad, in the order of the schedule -/

/-- An access of a record to a logical cell's scratchpad, at the pound and the tick at which it begins to land or to read. -/
structure Access where
  record : Nat
  pound : Nat
  tick : Nat
  cell : Nat
  what : Use
  deriving DecidableEq, Repr

/-- The link route of a record, with its sender's share in the accesses of the destination cell (11:R286). -/
def Image.recordRoute (g : Image) (x : Issue) : Option LinkRoute :=
  let n := if x.rc.engine = 7 then x.arg 137 122 else if x.rc.engine = 5 then x.descr.elim 0 (fun d => d.route) else 0
  if n = 0 then none else g.linkRoutes.find? (fun r => r.number == n)

/-- The accesses of a record: those to its own logical cell, those of its sends, and what its route releases. -/
def Image.accesses (g : Image) (i : Nat) (x : Issue) : List Access :=
  let t := x.rc.offset
  (x.uses true).map (fun u => ⟨i, x.rc.pound, if x.rc.engine = 5 ∧ u.write = true then t + 908 else t, x.rc.cell, u⟩) ++
  x.sendTarget.map (fun u => ⟨i, x.rc.pound, t + 192, x.arg 115 84, { u with sums := g.sums u.tensor }⟩) ++
  (match g.recordRoute x with
   | some r => if r.toScratchpad then
      let d := if x.rc.engine = 7 then x.op.dst else x.descr.elim 0 (fun d => d.mtensor)
      [⟨i, r.pound, r.tick, r.cell, { useRange d true r.addr (4096 * r.barges) with sums := g.sums d }⟩] else []
   | none => [])

def Access.le (a b : Access) : Bool :=
  decide (a.pound < b.pound ∨ (a.pound = b.pound ∧ (a.tick < b.tick ∨ (a.tick = b.tick ∧ a.record ≤ b.record))))

/-- The accesses of all records in order. -/
def Image.allUses (g : Image) : List Access :=
  mergeSorted Access.le ((List.zip (List.range g.instrs.length) g.instrs).flatMap (fun y => (g.staticIssue y.2).elim [] (g.accesses y.1)))

/-- The writes that stand between a read of a tensor and what was written for it (06:R157), the latest first: a write of another tensor to bytes of the read that no later write of the read's own tensor covers, where the tensor had been written before. `rs` are the bytes still to be looked at. -/
def clobbersOf (tensor : Nat) : List (Int × Int) → List Access → List Nat
  | _, [] => []
  | rs, z :: t =>
    if !z.what.write then clobbersOf tensor rs t
    else if z.what.tensor = tensor then clobbersOf tensor (lessRuns rs z.what.runs) t
    else
      let v := cutRuns rs z.what.runs
      (if v.isEmpty then [] else if t.any (fun w => w.what.write && w.what.tensor == tensor && !(cutRuns v w.what.runs).isEmpty) then [z.record] else []) ++ clobbersOf tensor rs t

/-- A fold over accesses in order: each read with the accesses before it, the latest first. -/
def overReads (f : List Access → Access → List Nat) : List Access → List Access → List Nat
  | _, [] => []
  | before, y :: t => (if y.what.write then [] else f before y) ++ overReads f (y :: before) t

/-- Records that overwrite a live region of another tensor (06:R157). -/
def Image.clobberRecords (g : Image) : List Nat :=
  let us := g.allUses
  (List.range g.cells.length).flatMap (fun c => overReads (fun before y => if y.what.tensor = 0 then [] else clobbersOf y.what.tensor y.what.runs before) []
    (us.filter (fun y => y.cell == c)))

/-- Is a partial of an operation sent before its bound survey is released (02:R57)? -/
def Image.tooEarly (g : Image) (op pound tick : Nat) : Bool :=
  g.surveyBindings.any (fun y => y.1 == op && (g.coll y.2).any (fun v => decide (pound < v.releasePound ∨ (pound = v.releasePound ∧ tick < v.releaseTick))))

/-- May a record not do what it does with partials of a sum (02:R45, R57, R64)? A link takes no ANC128 and no compatibility integer, nor a partial before its survey is released; device memory takes no compatibility integer. -/
def Image.partialMisplaced (g : Image) (rc : IRec) (sum : Nat) : Bool :=
  let d := (g.dmaOf rc.cell).bind (fun d => d.descrs[bits rc.args.toNat 156 142]?)
  let link := rc.engine == 7 || (rc.engine == 5 && d.any (fun r => r.route != 0))
  let stored := link || (rc.engine == 5 && d.any (fun r => r.kind == 1))
  let w := (g.op (sum - 1)).elim 0 (fun o => o.window)
  (link && (w == 0x22 || g.tooEarly (sum - 1) rc.pound rc.offset)) || (stored && w == 0x60)

/-- Bytes of a logical cell's scratchpad that hold partials, by the records before. -/
structure Held where
  cell : Nat
  runs : List (Int × Int)
  sums : List Nat
  deriving DecidableEq, Repr

/-- The partials that stand after a write: its own, and what the same record has read, if it only moves bytes. -/
def heldAfter (g : Image) (held : List Held) (carried : List (Nat × List Nat)) (y : Access) : List Held :=
  let moved := if ((g.instrs[y.record]?).elim 0 (fun r => r.engine)) < 4 then [] else (carried.filter (fun z => z.1 == y.record)).flatMap (·.2)
  let sums := (y.what.sums ++ moved).eraseDups
  let rest := held.filterMap (fun h => if h.cell = y.cell then
    (let r := lessRuns h.runs y.what.runs
     if r.isEmpty then none else some { h with runs := r }) else some h)
  if sums = [] then rest else ⟨y.cell, y.what.runs, sums⟩ :: rest

/-- Records that combine partials of different sums, or that store or send partials against the rules (02:R45, R52, R57, R64), over the accesses in order. `carried` are the sums that a record has read. -/
def Image.partialFold (g : Image) : List Held → List (Nat × List Nat) → List Access → List Nat
  | _, _, [] => []
  | held, carried, y :: t =>
    let rc := g.instrs[y.record]?
    if y.what.write then
      -- what a routed read of device memory brings over a link are the partials of its tensor
      (if rc.any (fun r => y.what.sums.any (g.partialMisplaced r)) then [y.record] else []) ++ g.partialFold (heldAfter g held carried y) carried t
    else
      let found := (held.filter (fun h => h.cell == y.cell && !(cutRuns h.runs y.what.runs).isEmpty)).map (·.sums)
      let all := (y.what.sums ++ found.flatten).eraseDups
      (if rc.any (fun r => all.any (g.partialMisplaced r) || (r.engine == 1 && y.what.sums != [] && found.any (fun h => !h.any y.what.sums.contains))) then [y.record] else []) ++
      g.partialFold held ((y.record, all) :: carried) t

def Image.partialRecords (g : Image) : List Nat := g.partialFold [] [] g.allUses

/-- The positions whose results a vector record writes: whole rows of a composite, the choices and the whole slot table of a routing record. -/
def Issue.vecOutputs (x : Issue) : List Nat :=
  match x.g.lay x.vecStream with
  | none => []
  | some l =>
    let ps := x.positions l
    let rows := Issue.rows l ps
    let at_ (t : Nat) (ps : Layout → List Nat) : List Nat := (x.g.lay t).elim [] ps
    match x.op.opcode with
    | 0x0213 => at_ (x.param 63 32) (fun d => rowPositions d rows)
    | 0x0230 => at_ x.op.dst (fun d => rows.map d.pos)
    | 0x0231 => at_ x.op.dst (fun d => rows.flatMap (fun t => (List.range (x.param 95 64)).map (fun j => d.pos (t * x.param 95 64 + j)))) ++
        at_ (x.param 31 0) (fun d => (List.range (x.param 63 32 * x.param 127 96)).map d.pos)
    | _ => if x.wholeRows then rowPositions l rows else ps

/-- The last tick of its pound in which a record keeps its engine busy or a write of it lands (05:R140, 06:R164, 07:R185, 11:R282). -/
def Image.endTick (g : Image) (x : Issue) : Nat :=
  let t := x.rc.offset
  match x.rc.engine with
  | 1 => x.tileStop + (if x.arg 71 70 % 2 = 0 then 128 else partialTicks x.op.window) - 1
  | 2 => x.vecOutputs.foldl (fun a p => max a (x.vecWrite p)) (x.vecWrite (x.vecFirst + 128 * (vecGroups x.rc - 1)))
  | 3 => t + redGroups x.rc - 1 + 4 + (if x.arg 106 106 = 1 then 8 else 0)
  | 4 =>
    match g.lay x.op.src0, g.lay x.op.dst with
    | some a, some b => if x.isSlice then t + 40 + x.arg 61 42 * (if x.op.opcode = 0x0310 then a.slotTicks (x.param 2 0) b.dims else b.slotTicks (x.param 2 0) a.dims) - 1
      else t + copyLead a b + copyTicks a b (x.arg 61 42) - 1
    | _, _ => t
  | 6 => t + (x.arg 83 64 - 1) + 192
  | 7 => t + 64 * x.arg 121 102 - 1
  | _ => t

/-- The maintenance reserve begins here (07:R182). -/
def PoundRec.reserve (p : PoundRec) : Nat := p.length - p.length / 64

/-- The ticks from a descriptor's last burst until its last byte has landed (07:Table 7.1); what goes by link has its own release. -/
def Descr.tail (d : Descr) : Nat := if d.route != 0 then 1 else if d.kind = 0 then 904 else 900

/-- The descriptors of one channel in one pound against its burst slots (10:R274, R275): the records that do not complete before the reserve. Each entry is the record, its tick, its bursts, its tail. -/
def lateBursts (reserve : Nat) : List Nat → List (Nat × Nat × Nat × Nat) → List Nat
  | _, [] => []
  | slots, (i, tick, n, tail) :: t =>
    let s := slots.dropWhile (fun q => decide (q < tick + 8))
    (if s.length < n || decide (reserve < s.getD (n - 1) reserve + tail) then [i] else []) ++ lateBursts reserve (s.drop n) t

/-- DMA records whose bursts do not end, or whose bytes do not land, before the reserve of their pound (07:R181). -/
def Image.lateDma (g : Image) : List Nat :=
  let rs := (List.zip (List.range g.instrs.length) g.instrs).filter (fun y => y.2.engine == 5)
  g.dma.flatMap (fun d =>
    let pat := pattern d.weights
    (List.range g.pounds.length).flatMap (fun p =>
      let reserve := (g.pounds.getD p ⟨0, 0⟩).reserve
      let here := rs.filter (fun y => y.2.cell == d.cell && y.2.pound == p)
      (List.range 8).flatMap (fun ch =>
        let mine := here.filter (fun y => bits y.2.args.toNat 159 157 == ch)
        if mine.isEmpty then [] else
        let slots := ((List.range (reserve / 8 + 1)).map (fun i => 8 * i)).filter (fun t => decide (t < reserve) && pat.getD (t / 8 % 16) 0 == ch)
        lateBursts reserve slots (mine.filterMap (fun y => (d.descrs[bits y.2.args.toNat 156 142]?).map (fun r =>
          (y.1, y.2.offset, r.length / 256, r.tail)))))))

/-! ## The forerunner's ports (07:R201, R203) -/

/-- Forerunner words of the elements of n groups of 128 in the scratchpad, with their interleaved scales or the words of a separate scale array. -/
def Image.foreWords (g : Image) (t n : Nat) : Nat :=
  (g.lay t).elim 0 (fun l => n * ceilDiv (fieldBytes l.format * 4 + (if l.interleaved then 4 else 0)) 128 + (if l.separate then ceilDiv n 32 else 0))

/-- Forerunner words of a number of bytes. -/
def foreBytes (n : Nat) : Nat := ceilDiv n 128

/-- The forerunner words of both operands of a matrix record, scales and metadata included (05:Table 5.2). -/
def Issue.operandWords (x : Issue) : Nat :=
  let k := x.arg 37 18 * 32
  let side (t sp : Nat) : Nat := (x.g.lay t).elim 0 (fun l =>
    let n := if sp = 1 then k / 2 else k
    foreBytes (n * 4 * fieldBytes l.format) + (if isBlockFmt l.format then foreBytes (n * 4) else 0))
  side x.op.src0 (bits x.op.flags 2 2) + side x.op.src1 (bits x.op.flags 3 3) + (if bits x.op.flags 3 2 = 0 then 0 else foreBytes (k * 16))

/-- The forerunner words that a record's engine reads and the ticks over which it does, and the same of what it writes (log entry 123). -/
def Issue.portLoads (x : Issue) : List (Bool × Nat × Nat) :=
  let vec (k t n : Nat) : Nat :=
    if t = 0 ∨ x.arg (69 + k) (69 + k) = 1 then 0
    -- a broadcast takes the word of its row with every group
    else if x.arg (66 + k) (66 + k) = 1 then n else x.g.foreWords t n
  match x.rc.engine with
  | 1 =>
    let z := 16384 * (ancBits x.op.window / 8) / 128
    [(false, x.operandWords, x.kTicks (x.arg 37 18 * 32))] ++ (if 2 ≤ x.arg 71 70 then [(false, z, partialTicks x.op.window)] else []) ++
    (if x.arg 71 70 % 2 = 1 then [(true, z, partialTicks x.op.window)] else [])
  | 2 =>
    let n := vecGroups x.rc
    let skim := if (x.g.tensors.any (fun t => t.companion == x.op.dst)) then 2 * n else 0
    [(false, (if x.op.opcode = 0x0100 then 0 else vec 0 x.op.src0 n + vec 1 x.op.src1 n + vec 2 x.op.src2 n) +
        (if x.op.opcode = 0x0240 then x.g.foreWords x.op.dst n + skim else 0), n * x.vecInterval),
     (true, if x.arg 65 64 = 1 then 0 else x.g.foreWords x.vecDest.1 n + (if x.op.opcode = 0x0240 then skim else 0), n * x.vecInterval)]
  | 3 =>
    let n := redGroups x.rc
    if (x.mates 2).any (fun y => y.op.dst == x.op.src0 && y.arg 65 64 != 0) then [] else [(false, x.g.foreWords x.op.src0 n, n)]
  | 4 => match x.g.lay x.op.src0, x.g.lay x.op.dst with
    | some a, some b =>
      let slice := x.param 2 0
      let n := if x.isSlice then x.arg 61 42 * (if x.op.opcode = 0x0310 then a.slotTicks slice b.dims else b.slotTicks slice a.dims) else copyTicks a b (x.arg 61 42)
      let of_ (l : Layout) (e : List Nat) : Nat := foreBytes (storedBytes l (if x.isSlice then x.arg 61 42 * l.slicePositions slice e else x.arg 61 42))
      [(false, of_ a b.dims, n), (true, of_ b a.dims, n)]
    | _, _ => []
  | _ => []

/-- The engine's ports of 07:Table 7.6: reads, writes. The burst slots of the DMA engine lie 8 ticks apart: a burst out of the scratchpad takes the 4 ticks from its slot on, one into it the 4 ticks from 900 ticks after its slot on (07:Table 7.1), so it uses one word in a tick. -/
def forePorts (engine : Nat) : Nat × Nat :=
  match engine with
  | 1 => (2, 1)
  | 2 => (3, 1)
  | _ => (1, 1)

/-- Does a record of a compatibility image exceed its engine's ports (07:R203)? -/
def Issue.overPorts (x : Issue) : Bool :=
  let p := forePorts x.rc.engine
  x.g.compat && x.portLoads.any (fun y => decide ((if y.1 then p.2 else p.1) * y.2.2 < y.2.1))

/-- In-tile shape 128 × 128 in row order, to which a tile-queue stream corresponds (06:R159). -/
def Layout.queueOrder (d : Layout) : Bool :=
  d.rank ≥ 2 && d.tile (d.rank - 1) == 128 && d.tile (d.rank - 2) == 128 && d.order.getD 0 0 == d.rank - 1 && d.order.getD 1 0 == d.rank - 2 &&
    (List.range (d.rank - 2)).all (fun k => d.tile k == 1)

/-- The streams of one vector instruction follow the same element positions (06:R159); broadcasts and vectors of one row's length are no such streams. -/
def Issue.streamsBad (x : Issue) : Bool :=
  match x.g.lay x.vecStream with
  | none => false
  | some d =>
    let one (k t : Nat) : Bool := match x.g.lay t with
      | none => false
      | some l =>
        if x.arg (69 + k) (69 + k) = 1 then !d.queueOrder || !sameShape l d
        else x.arg (66 + k) (66 + k) == 0 && !(l.rank == 1 && d.rank != 1) && !sameShape l d
    x.rc.engine == 2 && (match x.op.opcode with
      | 0x0100 => !d.queueOrder
      | 0x0213 => one 0 x.op.src0 || (x.g.lay (x.param 63 32)).any (fun b => !sameShape b d)
      | 0x0230 => one 0 x.op.src0
      | 0x0231 => one 0 x.op.src0
      | _ => one 0 x.op.src0 || one 1 x.op.src1 || one 2 x.op.src2)

/-- Can an operand at address `a` lie in a region with a 64 KiB aligned base (06:R157, R158)? The region begins with some barge up to the one at `a`. -/
def Operand.baseOk (o : Operand) (a : Nat) : Bool :=
  let b := ((a : Int) - o.vbase).toNat / 4096
  (List.range 16).any (fun i => decide (i ≤ b ∧ 0 ≤ o.vbase + (4096 * (b - i) : Nat) ∧ (o.vbase + (4096 * (b - i) : Nat)) % 65536 = 0))

/-- A matrix operand whose region has no 64 KiB aligned base (06:R158). -/
def Issue.basesBad (x : Issue) : Bool :=
  x.rc.engine == 1 && (match x.tilePlan (fun _ => false) with
    | none => false
    | some p => !(p.a.o.baseOk (x.arg 159 138) && p.b.o.baseOk (x.arg 137 116)))

/-- An indexed tensor in the scratchpad whose slices are not 64-byte aligned (06:R168). -/
def Issue.sliceBaseBad (x : Issue) : Bool :=
  x.rc.engine == 4 && x.isSlice && (if x.op.opcode = 0x0310 then x.arg 159 138 else x.arg 137 116) % 64 != 0

/-- A copy whose ranges are fixed in the image and overlap (06:R163). -/
def Issue.overlapBad (x : Issue) : Bool :=
  x.rc.engine == 4 && !x.isSlice && (match x.copyPlan .reset with
    | none => false
    | some c => !c.dyn && c.clashes ⟨0, 0, spadBytes⟩ x.op.params.toNat)

/-- An in-package send between a pair that no connection declares (11:R283). -/
def Image.undeclaredSend (g : Image) (rc : IRec) : Bool := rc.engine == 6 && !g.connections.contains (rc.cell, bits rc.args.toNat 115 84)

/-- A link send of ANC128 integers (02:R45), as a tensor or as contributions. -/
def Image.linkBad (g : Image) (x : Issue) : Bool :=
  (x.rc.engine == 7 && g.fmt x.op.dst == 0x22) || (x.rc.engine == 5 && x.op.opcode == 0x0312 && g.fmt x.op.src0 == 0x22 && x.descr.any (fun d => d.route != 0))

/-- A DMA record reads a region before its close point (02:R63): one of an operation up to the closing one, or in a pound whose end is not after the close. -/
def Image.readsOpenRegion (g : Image) (rc : IRec) (d : Descr) : Bool :=
  let open_ (t : Nat) : Bool := (g.region t).any (fun r => decide (rc.opId ≤ r.opId ∨ rc.pound ≤ g.lastPound r.opId))
  ((d.kind == 0 || d.kind == 2) && open_ d.mtensor) || (g.op rc.opId).any (fun o => o.opcode == 0x0310 && open_ o.src0)

/-- A DMA record names its channel and its descriptor (10:R273), and reads no open region. -/
def Image.dmaRecordBad (g : Image) (rc : IRec) : Bool :=
  rc.engine == 5 && (match g.dmaOf rc.cell with
    | none => true
    | some d => d.weights.getD (bits rc.args.toNat 159 157) 0 == 0 || (match d.descrs[bits rc.args.toNat 156 142]? with
      | none => true
      | some r => g.readsOpenRegion rc r))

/-- An instruction record (08:R214, R215; 07:R181, R182); `bad` are the records that the schedule as a whole refuses. -/
def Image.instrBad (g : Image) (bad : List Nat) (i : Nat) (y : Nat × IRec) : Bool :=
  let x := y.1
  let rc := y.2
  let len := g.poundLen rc.pound
  let prev := g.instrs[i - 1]?
  bits x 227 224 != 0 || decide (7 < rc.engine) || (i == 0 && rc.engine != 0) ||
  (if rc.engine = 0 then rc.offset != 0 || bits x 159 0 != 0 || rc.part != rc.pound
   else
    decide (len - len / 64 ≤ rc.offset) || bits x 159 0 % 2 ^ argsLow rc.engine != 0 ||
    (i != 0 && prev.any (fun q => q.engine != 0 && decide (rc.offset < q.offset))) ||
    (match g.staticIssue rc with
     | none => true
     | some s => s.op.opcode == 0x0400 || decide (len - len / 64 ≤ g.endTick s) || s.overPorts || s.streamsBad || s.basesBad || s.sliceBaseBad || s.overlapBad || g.linkBad s) ||
    -- a record after a surplus marker belongs to no cell: the section's count is wrong (07:R181)
    (decide (rc.cell < g.cells.length) && (g.undeclaredSend rc || g.dmaRecordBad rc)) || bad.contains i)

/-! ## ROUTES -/

/-- The bytes that Table 11.2 names for a TYPE: those of every field of the record, whatever its DEST_KIND (log entry 188). -/
def routeBytes (t : Nat) : Option (List Nat) :=
  match t with
  | 1 => some (List.range 28)
  | 2 => some (0 :: (List.range 8).map (fun i => 4 + i))
  | 3 => some (0 :: (List.range 8).map (fun i => 4 + i))
  | 4 => some [0, 2, 3, 4, 5]
  | _ => none

/-- The sends of a route: pound and offset of each issue (11:R285, R286). -/
def Image.sendsOf (g : Image) (r : Nat) : List (Nat × Nat) :=
  g.instrs.filterMap (fun i =>
    if i.engine = 7 ∧ bits i.args.toNat 137 122 = r then some (i.pound, i.offset)
    else if i.engine = 5 ∧ ((g.dmaOf i.cell).bind (fun d => d.descrs[bits i.args.toNat 156 142]?)).any (fun d => d.route == r) then some (i.pound, i.offset)
    else none)

/-- A link route (11:R284, R285; 07:R181 for its release). -/
def Image.linkRouteBad (g : Image) (before : List Nat) (x : Nat) : Bool :=
  let r := routeOf x
  let len := g.poundLen r.pound
  r.number == 0 || before.any (fun y => bits y 7 0 == 1 && bits y 31 16 == r.number) || decide (1 < bits x 15 8) || bits x 127 118 != 0 ||
  decide (g.modules ≤ r.src ∨ g.modules ≤ r.dst) || decide (g.pounds.length ≤ r.pound ∨ len - len / 64 < r.tick + 64 * r.barges) ||
  (r.toScratchpad && (match g.cells[r.cell]? with
    | none => true
    | some c => c.position != r.dst)) ||
  (g.sendsOf r.number).any (fun s => decide (g.spanTicks 1 s.1 s.2 r.pound r.tick < ((320 + 64 * r.barges : Nat) : Int)))

def Image.routeBad (g : Image) (recs : List Nat) (i x : Nat) : Bool :=
  let t := bits x 7 0
  (match routeBytes t with
   | none => true
   | some bs => (List.range 32).any (fun j => !bs.contains j && bits x (8 * j + 7) (8 * j) != 0)) ||
  (match t with
   | 1 => g.linkRouteBad (recs.take i) x
   | 2 => match g.cells[bits x 63 32]?, g.cells[bits x 95 64]? with
      | some a, some b => a.position != b.position || (g.fold2 && a.g2 != b.g2) || (g.fold4 && a.g4 != b.g4)
      | _, _ => true
   | 3 => !(g.op (bits x 63 32)).any (fun o => o.window != 0) || !(g.coll (bits x 95 64)).any (fun c => c.op == 3)
   | 4 => decide (g.modules ≤ bits x 31 16) || (bits x 47 32 != 0xFFFF && decide (g.modules ≤ bits x 47 32)) ||
      (recs.take i).any (fun y => bits y 7 0 == 4 && bits y 31 16 == bits x 31 16)
   | _ => false)

/-- Climbs from a position to the root of the sill tree. -/
def Image.climbs (g : Image) : Nat → Nat → Bool
  | 0, _ => false
  | fuel + 1, p => match g.sillTree.find? (fun x => x.1 == p) with
    | none => false
    | some x => x.2 == 0xFFFF || g.climbs fuel x.2

/-- The sill tree (11:R287). -/
def Image.treeBad (g : Image) : Bool :=
  decide (1 < g.modules) &&
  (g.sillTree.length != g.modules || (g.sillTree.filter (fun x => x.2 == 0xFFFF)).length != 1 ||
    (List.range g.modules).any (fun p => !g.climbs (g.modules + 1) p))

/-! ## MEMORY, OWNERS -/

def isPow2 (n : Nat) : Bool := n != 0 && 2 ^ Nat.log2 n == n

def Layout.allBarges (l : Layout) : Nat := l.elemBarges + l.scaleBarges

/-- A MEMORY record (09:R237). -/
def Image.memoryBad (g : Image) (i x : Nat) : Bool :=
  let m := memRecOf x
  let before := g.memory.take i
  bits x 63 50 != 0 || bits x 47 42 != 0 || bits x 39 32 != 0 || m.use == 3 || before.any (fun e => e.tensor == m.tensor) ||
  (m.use != 0 && before.any (fun e => e.use == m.use)) || (m.use != 1 && m.size != 0) ||
  (match g.lay m.tensor with
   | none => true
   | some l =>
    (m.use != 0 && (l.format != 0x13 || g.kind m.tensor != 1)) ||
    (m.use == 1 && (!isPow2 m.size || decide (m.size < 4096 ∨ 2 ^ 26 < m.size) || m.size != l.count * 8 || m.size != l.allBarges * 4096)))

/-- MEMORY as a whole (09:R237, R253). -/
def Image.memoryLacks (g : Image) : Bool :=
  (!g.digests.isEmpty && !g.memory.any (fun m => m.use == 1)) || (!g.regions.isEmpty && !g.memory.any (fun m => m.use == 2)) ||
  g.regions.any (fun r => !g.memory.any (fun m => m.tensor == r.tensor && m.use == 0))

def rising : List Nat → Bool
  | a :: b :: t => decide (a < b) && rising (b :: t)
  | _ => true

/-- An owner table (06:R174, R175). -/
def Image.ownerBad (g : Image) (i : Nat) (o : RawOwner) : Bool :=
  let t := ownerOfRaw o
  let firsts := t.entries.map (·.2)
  bits o.head 125 0 != 0 || o.entries.any (fun e => bits e 43 40 != 0) || t.entries.isEmpty || (g.owners.take i).any (fun e => e.tensor == t.tensor) ||
  t.entries.any (fun e => !g.sill.contains e.1) ||
  (match g.lay t.tensor with
   | none => true
   | some l => t.blocks != l.elemBarges || (isBlockFmt l.format && !l.interleaved)) ||
  (match t.kind with
   | 0 => t.grain != 0 || firsts.headD 1 != 0 || !rising firsts || firsts.any (fun f => decide (t.blocks ≤ f))
   | 1 => t.grain == 0 || firsts.any (fun f => f != 0)
   | _ => true)

/-! ## GROUPS -/

/-- The number of local barges of a tensor on a node. -/
def Image.localBarges (g : Image) (node t : Nat) : Nat :=
  match g.lay t with
  | none => 0
  | some l => match g.owner t with
    | some o => localIndex (some o) node l.elemBarges
    | none => l.allBarges

/-- The most barges that a collective releases on a member. -/
def Image.collBarges (g : Image) (c : CollRec) : Nat :=
  if c.op = 3 then 0 else (g.collOp c.coll).elim 0 (fun o => (c.members.map (fun p => g.localBarges (g.nodeAt p) o.dst)).foldl max 0)

/-- A collective record (11:R303, R304; 07:R181, R182 for its release). -/
def Image.groupBad (g : Image) (members i x : Nat) : Bool :=
  let c := (g.colls.getD i ⟨0, 0, false, false, 0, 0, 0, 0, 0, []⟩)
  let bound := g.surveyBindings.any (fun y => y.2 == c.coll)
  c.coll == 0 || (g.colls.take i).any (fun e => e.coll == c.coll) || !(c.op == 0 || c.op == 1 || c.op == 3) || decide (1 < bits x 47 40) ||
  decide (1 < bits x 55 48) || bits x 63 56 != 0 || decide (bits x 79 64 < 2) || decide (members < bits x 127 96 + bits x 79 64) ||
  c.members.eraseDups.length != c.members.length || c.members.any (fun p => decide (g.modules ≤ p)) ||
  (if (g.collOp c.coll).any (fun o => o.par 3 0 == 3) then decide (c.members.length ≤ c.root) else c.root != 0) ||
  decide (g.pounds.length ≤ c.issuePound ∨ g.pounds.length ≤ c.releasePound ∨ g.poundLen c.issuePound ≤ c.issueTick ∨ g.poundLen c.releasePound ≤ c.releaseTick) ||
  decide ((g.pounds.getD c.releasePound ⟨0, 0⟩).reserve < c.releaseTick + max 1 (64 * g.collBarges c)) ||
  decide (c.releasePound < c.issuePound ∨ (c.releasePound = c.issuePound ∧ c.releaseTick ≤ c.issueTick)) ||
  (c.op == 3 && (!bound || (g.collOp c.coll).isSome)) || (bound && c.op != 3)

def Raw.groupsPadBad (r : Raw) : Bool := r.groups.pad.any (fun p => p != 0)

/-! ## DMA -/

/-- Does a range of a tensor's element barges lie wholly at a node? -/
def Image.rangeOwned (g : Image) (node tensor off n : Nat) : Bool :=
  match g.owner tensor with
  | none => true
  | some o => (List.range ((off + n - 1) / 4096 + 1 - off / 4096)).all (fun i => o.ownerOf (off / 4096 + i) == node)

/-- A descriptor of a logical cell (10:R272, R273; 09:R250; 12:R321; 02:R45). -/
def Image.descrBad (g : Image) (cell x : Nat) : Bool :=
  let d := descrOf x
  let node := g.nodeAt ((g.cells[cell]?).elim 0 (fun c => c.position))
  let unit := if d.kind = 2 then 4096 else 256
  let ext (wrap : Nat) : Nat := if wrap = 0 then d.length else 2 ^ wrap
  let span := if d.mwrap = 0 then g.memBytes d d.length else 2 ^ d.mwrap
  bits x 283 256 != 0 || bits x 223 0 != 0 || decide (3 < d.kind) || d.length == 0 || d.length % unit != 0 || d.moffset % unit != 0 || d.m2offset % unit != 0 ||
  d.saddr % 64 != 0 || !g.declared d.mtensor || (d.kind == 2 && (!g.declared d.m2tensor || d.saddr != 0 || d.route != 0)) ||
  (d.kind != 2 && (d.m2offset != 0 || d.m2tensor != 0)) || (d.kind != 3 && d.format != 0) ||
  (d.kind == 3 && !(g.region d.mtensor).any (fun r => contributes r.cellType d.format)) ||
  (!d.dynM && decide (g.tensorBytes d.mtensor < d.moffset + span)) || (d.kind == 2 && decide (g.tensorBytes d.m2tensor < d.m2offset + d.length)) ||
  (d.kind != 2 && !d.dynS && decide (spadBytes < d.saddr + ext d.swrap)) ||
  (d.mwrap != 0 && (decide (d.mwrap < 12 ∨ 30 < d.mwrap) || decide (2 ^ d.mwrap < d.length) || d.moffset % 2 ^ d.mwrap != 0 || d.dynM)) ||
  (d.swrap != 0 && (decide (d.swrap < 12 ∨ 22 < d.swrap) || decide (2 ^ d.swrap < d.length) || d.saddr % 2 ^ d.swrap != 0 || d.dynS)) ||
  ((d.dynS || d.dynM) && d.dynaddr % 8 != 0) ||
  (d.kind == 2 && !(g.rangeOwned node d.mtensor d.moffset span && g.rangeOwned node d.m2tensor d.m2offset d.length)) ||
  (d.kind != 2 && d.route == 0 && !d.dynM && !g.rangeOwned node d.mtensor d.moffset span) ||
  (d.route != 0 && (g.fmt d.mtensor == 0x22 || (d.kind == 3 && d.format == 0x22))) ||
  (d.kind == 1 && (g.tensor d.mtensor).any (fun t => t.shared)) || (d.kind == 2 && (g.tensor d.m2tensor).any (fun t => t.shared))

/-- The DMA records of a logical cell (10:R271, R273). -/
def Image.dmaBad (g : Image) (i : Nat) (d : RawDma) : Bool :=
  let c := dmaOfRaw d
  decide (g.cells.length ≤ c.cell) || (match g.dma[i - 1]? with
    | some p => i != 0 && decide (c.cell ≤ p.cell)
    | none => false) ||
  bits d.head 63 48 != 0 || decide (d.descrs.length < 1 ∨ 32768 < d.descrs.length) || c.weights.sum != 16 || d.descrs.any (g.descrBad c.cell)

/-! ## All sections in order (08:R222) -/

def Raw.allBreaches (r : Raw) (g : Image) : List (Nat × Nat) :=
  breaches 0x0001 (r.recs 0x0001) g.tensorBad ++
  breaches 0x0002 (r.recs 0x0002) g.layoutBad ++
  breaches 0x0003 (List.zip (r.recs 0x0003) g.ops) (fun i y => bits y.1 271 256 != 0 || g.opBad i y.2) ++
  breaches 0x0004 (r.recs 0x0004) g.streamBad ++
  breaches 0x0005 (r.recs 0x0005) g.digestBad ++
  breaches 0x0006 (r.recs 0x0006) g.regionBad ++
  breaches 0x0010 r.cells g.cellBad ++
  breachIf (bits r.cellsHead 47 0 != 0 || g.cells.length != g.logicalCells) 0x0010 ++
  breaches 0x0011 (r.recs 0x0011) g.sillBad ++
  breachIf (g.modules == 0 || g.sill.length != g.modules) 0x0011 ++
  breaches 0x0012 (r.recs 0x0012) g.poundBad ++
  breachIf g.pounds.isEmpty 0x0012 ++
  breaches 0x0013 (List.zip (r.recs 0x0013) g.instrs) (g.instrBad (g.lateDma ++ g.clobberRecords ++ g.partialRecords)) ++
  breachIf (g.instrs.countP (fun i => i.engine == 0) != g.logicalCells * g.pounds.length) 0x0013 ++
  breaches 0x0014 (r.recs 0x0014) (g.routeBad (r.recs 0x0014)) ++
  breachIf g.treeBad 0x0014 ++
  breaches 0x0015 (r.recs 0x0015) g.memoryBad ++
  breachIf g.memoryLacks 0x0015 ++
  breaches 0x0016 r.owners g.ownerBad ++
  breaches 0x0017 r.groups.recs (g.groupBad r.groups.members.length) ++
  breachIf r.groupsPadBad 0x0017 ++
  breaches 0x0018 r.dma g.dmaBad

/-- The first breach, if any. -/
def Raw.firstBreach (r : Raw) (g : Image) : Option (Nat × Nat) := (r.allBreaches g).head?

end Sys2Proof.Machine
end

