-- ==== Sys2Proof/Machine/Placement.lean ====
section
/-! DEFINITION. Placement (08:R217 to R224, 09:R238 and R239, 11:R297): the roster, fold factor and binding, stack ranges, the homes of routes and collectives, the placement table, re-binding. -/

namespace Sys2Proof.Machine

open Sys2Proof

/-! ## The roster (08:R217) -/

/-- The healthy cells of a die in cyclic order from its cursor. -/
def State.rosterOf (s : State) (d : Nat) : List Nat :=
  ((List.range 68).map (fun i => (sget 0 s.ao.cursors d + i) % 68)).filter (s.healthy d)

/-- E: 64 for grade F, 56 for grade S. -/
def State.enabledLimit (s : State) : Nat := if s.fuses.grade = 1 then 56 else 64

def State.enabledCells (s : State) (d : Nat) : List Nat := (s.rosterOf d).take s.enabledLimit
def State.auditCells (s : State) (d : Nat) : List Nat := (s.enabledCells d).take 2
def State.plainCells (s : State) (d : Nat) : List Nat := (s.enabledCells d).drop 2
def State.spareCells (s : State) (d : Nat) : List Nat := (s.rosterOf d).drop s.enabledLimit

/-- Spare rotation: every cursor advances by 1. -/
def State.rotate (s : State) : State :=
  { s with ao := { s.ao with cursors := (List.range 16).foldl (fun t d => sset 0 t d ((sget 0 t d + 1) % 68)) s.ao.cursors } }

/-- The role that the roster gives a cell. -/
def State.roleOf (s : State) (d c : Nat) : Role :=
  if s.ao.oos.contains (cellKey d c) ∨ 2 ≤ s.dieState d then .out
  else if (s.auditCells d).contains c then .audit
  else if (s.plainCells d).contains c then .enabled else .spare

/-- A cell that has taken over the logical cells of another keeps its role while the binding lasts (08:R224): the audit role wherever the roster stands, the work of an enabled cell where the roster has it as a spare. -/
def State.keepsRole (s : State) (d c : Nat) : Bool :=
  let role := (s.cell (cellKey d c)).role
  let bound (audit : Bool) : Bool := (List.range 8).any (fun n => (s.slot n).place.bindings.any (fun b => b.die == d && b.cell == c && (b.audit || !audit)))
  role != .out && s.healthy d c && ((role == .audit && bound true) || (s.roleOf d c == .spare && bound false))

/-- ROLE of every cell follows the roster (05:Table 5.6). -/
def State.formRoster (s : State) : State :=
  (List.range 16).foldl (fun s d =>
    (List.range 68).foldl (fun s c => if s.keepsRole d c then s else s.modCell (cellKey d c) (fun x => { x with role := s.roleOf d c })) s) s

/-- A slot is loaded when it is LOADING, IDLE, ACTIVE or FAULTED. -/
def State.isLoaded (s : State) (n : Nat) : Bool :=
  match (s.slot n).state with
  | .empty => false
  | .draining => false
  | _ => true

/-! ## Fold factor and binding (08:R219, R220) -/

/-- The logical cells of a position with their numbers. -/
def Image.mine (g : Image) (pos : Nat) : List (Nat × CellRec) :=
  (List.zip (List.range g.cells.length) g.cells).filter (fun y => y.2.position == pos)

/-- The binding under a fold factor, none where a group needs more cells than its die has. `used` holds the cells bound so far. -/
def State.bindCells (s : State) (g : Image) (fold : Nat) : List (Nat × CellRec) → List Binding → Option (List Binding)
  | [], used => some used
  | (i, c) :: t, used =>
    let d := g.dies.getD c.ldie 0
    let j := c.phase fold
    let pool := if c.audit then s.auditCells d else s.plainCells d
    let n := used.countP (fun b => b.die == d && b.phase == j && b.audit == c.audit)
    match pool[n]? with
    | none => none
    | some k => State.bindCells s g fold t (used ++ [⟨i, d, k, j, c.audit⟩])

/-- The end of the scratchpad that a logical cell's records and descriptors reach (07:R197). -/
def Image.extent (g : Image) (cell : Nat) : Int :=
  let us := g.instrs.flatMap (fun r => (g.staticIssue r).elim [] (fun x =>
      (if r.cell = cell then x.uses false ++ x.sendTarget else if r.engine = 6 ∧ x.arg 115 84 = cell then x.sendTarget else []))) ++
    (g.dmaOf cell).elim [] (fun d => d.descrs.flatMap Descr.uses)
  us.foldl (fun a u => max a u.hi) 0

/-- Does every sill lead fit a fold factor (07:R184)? -/
def Image.leadsFit (g : Image) (f : Nat) : Bool := decide (g.modules ≤ 1) || g.pounds.all (fun p => p.leadOk f)

def Image.foldDeclared (g : Image) (f : Nat) : Bool := f == 1 || (f == 2 && g.fold2) || (f == 4 && g.fold4)

/-! ## Stack ranges (09:R238, R239) -/

/-- One allocation: stripe width in stacks, bytes on each stack. -/
structure Item where
  width : Nat
  bytes : Nat
  deriving DecidableEq, Repr

/-- The range of an event ring in device memory (14:R376). -/
def State.ringRanges (s : State) : List StackRange :=
  match s.evt.ring with
  | some r => if r.device then [⟨stackOf r.base, offsetOf r.base, offsetOf r.base + 2 ^ r.sizeLog2 * 32⟩] else []
  | none => []

/-- Every stack range that is in use: those of the slots and of their epochs, of the bases, and of the event ring. -/
def State.usedRanges (s : State) : List StackRange :=
  (List.range 8).flatMap (fun n => (s.slot n).place.ranges ++ (List.range 4).flatMap (fun e => (sget .none (s.slot n).epochs e).ranges)) ++
  (List.range 4).flatMap (fun b => (sget .none s.wld.bases b).ranges) ++ s.ringRanges

/-- The order of ranges. -/
def StackRange.le (a b : StackRange) : Bool := decide (a.stack < b.stack ∨ (a.stack = b.stack ∧ (a.first < b.first ∨ (a.first = b.first ∧ a.stop ≤ b.stop))))

/-- The memory in use as ranges in order, those that touch joined: a set of bytes has one such list. -/
def State.usedMemory (s : State) : List StackRange :=
  ((sortBy StackRange.le (s.usedRanges.filter (fun r => decide (r.first < r.stop)))).foldl (fun acc r => match acc with
    | q :: t => if r.stack = q.stack ∧ r.first ≤ q.stop then ⟨q.stack, q.first, max q.stop r.stop⟩ :: t else r :: acc
    | [] => [r]) []).reverse

/-- What placement must avoid on a stack: ranges in use, retired frames, the dump region (09:R239, R254). -/
def State.blocked (s : State) (used : List StackRange) (k : Nat) : List (Nat × Nat) :=
  (used.filter (fun r => r.stack == k)).map (fun r => (r.first, r.stop)) ++
  (s.retiredOf k).map (fun f => (f * 4096, f * 4096 + 4096)) ++
  (if k = 0 then [(dumpBase, dumpBase + dumpBytes)] else [])

/-- A stack whose traffic generators run takes no allocation (09:R257). -/
def State.tgRuns (s : State) (k : Nat) : Bool := (List.range 32).any (fun c => (sget .reset (s.stack k).gens c).busy)

/-- σ_0 and the next stacks in service in cyclic order (09:R238). -/
def State.stripe (s : State) (first width : Nat) : List Nat :=
  let l := ((List.range 8).map (fun i => (first + i) % 8)).filter (fun k => (s.stack k).inService)
  if (s.stack first).inService then l.take width else []

/-- Is a stack offset free for an item on its stacks? -/
def State.roomAt (s : State) (used : List StackRange) (it : Item) (ks : List Nat) (o : Nat) : Bool :=
  ks.length == it.width && o % 4096 == 0 && decide (o + it.bytes ≤ stackBytes) &&
  ks.all (fun k => !s.tgRuns k && (s.blocked used k).all (fun r => decide (o + it.bytes ≤ r.1 ∨ r.2 ≤ o)))

/-- The offsets at which an item can begin right behind something that is blocked. -/
def State.edges (s : State) (used : List StackRange) (ks : List Nat) : List Nat :=
  sortBy (fun a b => decide (a ≤ b)) (0 :: ks.flatMap (fun k => (s.blocked used k).map (fun r => ceilDiv r.2 4096 * 4096)))

def rangesOf (ks : List Nat) (it : Item) (o : Nat) : List StackRange := if it.bytes = 0 then [] else ks.map (fun k => ⟨k, o, o + it.bytes⟩)

/-- Allocates items at the places named for them, one after the other; none where one of them does not fit there. An item of no bytes takes no range. -/
def State.chosen (s : State) : List Item → List (Nat × Nat) → List StackRange → Option (List (List Nat × Nat))
  | [], _, _ => some []
  | it :: t, ch, used =>
    if it.bytes = 0 then (State.chosen s t ch.tail used).map (fun r => ([], 0) :: r) else
    let c := ch.headD (8, 0)
    let ks := s.stripe c.1 it.width
    if s.roomAt used it ks c.2 then (State.chosen s t ch.tail (rangesOf ks it c.2 ++ used)).map (fun r => (ks, c.2) :: r) else none

/-- Where an item may come to lie right behind what is blocked. -/
def State.berths (s : State) (used : List StackRange) (it : Item) : List (List Nat × Nat) :=
  (List.range 8).flatMap (fun k => let ks := s.stripe k it.width; ((s.edges used ks).filter (fun o => s.roomAt used it ks o)).map (fun o => (ks, o)))

/-- A search for an assignment of the remaining items, by their numbers: each may come next, at each of its berths. Every assignment can be pushed down until each item rests on something, so none is missed. The fuel is the number of items. -/
def State.search (s : State) : Nat → List (Nat × Item) → List StackRange → Option (List (Nat × List Nat × Nat))
  | _, [], _ => some []
  | 0, _ :: _, _ => none
  | fuel + 1, items, used =>
    items.findSome? (fun y => (s.berths used y.2).findSome? (fun c =>
      (State.search s fuel (items.filter (fun z => z.1 != y.1)) (rangesOf c.1 y.2 c.2 ++ used)).map (fun r => (y.1, c.1, c.2) :: r)))

/-- The inputs of placement that the choice of ranges may depend on (08:R218): what the image declares, NODE, the roster, the stacks and the memory in use, the link dies and their slots; nothing of which slot holds what. -/
def State.placeInputs (s : State) (key : List Nat) (items : List Item) : List Nat :=
  key ++ items.flatMap (fun i => [i.width, i.bytes]) ++ [s.lnk.node.toNat] ++ (List.range 16).flatMap s.rosterOf ++ s.stacksInService ++
  s.usedMemory.flatMap (fun r => [r.stack, r.first, r.stop]) ++
  (List.range 8).flatMap (fun k => k :: sortBy (fun a b => decide (a ≤ b)) (s.retiredOf k)) ++ (List.range 6).map (fun k => s.dieState (24 + k))

/-- The allocation of items: at the places of the free choice where all of them fit there, else by search. -/
def State.allocateAll (s : State) (key : List Nat) (items : List Item) : Option (List (List Nat × Nat)) :=
  let used := s.usedMemory
  (s.chosen items (Config.placeChoice (s.placeInputs key items)) used).orElse (fun _ =>
    (s.search items.length ((List.zip (List.range items.length) items).filter (fun y => y.2.bytes != 0)) used).map (fun r =>
      (List.range items.length).map (fun i => ((r.find? (fun y => y.1 == i)).map (·.2)).getD ([], 0))))

/-- The item of a tensor and its number of local barges. -/
def Image.tensorItem (g : Image) (node : Nat) (m : MemRec) : Item :=
  let w := 2 ^ m.stripe
  ⟨w, ceilDiv (g.localBarges node m.tensor) w * (4096 + g.workBytes m.tensor)⟩

/-- The MEMORY records whose tensors take memory of the slot, in ascending tensor id: SHARED tensors take none (12:R321). -/
def Image.ownMemory (g : Image) : List MemRec :=
  sortBy (fun a b => decide (a.tensor ≤ b.tensor)) (g.memory.filter (fun m => !g.isShared m.tensor))

/-- The places of tensors from what an allocation gave them. -/
def Image.placesOf (g : Image) (node : Nat) (ms : List MemRec) (r : List (List Nat × Nat)) : List TensorPlace :=
  (List.zip ms r).map (fun y => ⟨y.1.tensor, y.2.1, y.2.2, g.localBarges node y.1.tensor⟩)

def allRanges (items : List Item) (r : List (List Nat × Nat)) : List StackRange := (List.zip items r).flatMap (fun y => rangesOf y.2.1 y.1 y.2.2)

/-! ## Homes of routes and collectives (11:R297) -/

/-- The tick at which a point of the step comes in phase j under a fold factor. -/
def Image.stepTick (g : Image) (fold j p t : Nat) : Nat :=
  fold * ((List.range p).map g.poundLen).sum + j * g.poundLen p + t

/-- What waits in a lay-by: a route or a collective, its slots, its spans in every phase. -/
structure Waiting where
  collective : Bool
  number : Nat
  slots : Nat
  spans : List (Nat × Nat)
  deriving DecidableEq, Repr

def spansMeet (a b : List (Nat × Nat)) : Bool := a.any (fun x => b.any (fun y => decide (x.1 ≤ y.2 ∧ y.1 ≤ x.2)))

/-- The inbound routes of a position and the collectives it is a member of. -/
def Image.waiting (g : Image) (node pos fold : Nat) : List Waiting :=
  let span (p0 t0 p1 t1 : Nat) : List (Nat × Nat) := (List.range fold).map (fun j => (g.stepTick fold j p0 t0, g.stepTick fold j p1 t1))
  (g.linkRoutes.filter (fun r => r.dst == pos)).map (fun r =>
    let first := (g.sendsOf r.number).foldl (fun a y => if y.1 < a.1 ∨ (y.1 = a.1 ∧ y.2 < a.2) then y else a) (r.pound, r.tick)
    ⟨false, r.number, r.barges, span first.1 first.2 r.pound r.tick⟩) ++
  (g.colls.filter (fun c => c.members.contains pos)).map (fun c =>
    ⟨true, c.coll, if c.op = 3 then 0 else (g.collOp c.coll).elim 0 (fun o => g.localBarges node o.dst), span c.issuePound c.issueTick c.releasePound c.releaseTick⟩)

/-- The homes of the loaded contexts. -/
def State.allHomes (s : State) : List Home := (List.range 8).flatMap (fun n => (s.slot n).place.homes)

/-- Lay-by slots now assigned on a die (11:Table 11.10). -/
def slotsUsed (hs : List Home) (die : Nat) : Nat :=
  (List.range 4096).countP (fun i => hs.any (fun h => h.die == die && h.slots.contains i))

/-- LNK_LAYBY_PEAK follows the slots in use (11:Table 11.8). -/
def State.peakSlots (s : State) : State :=
  let hs := s.allHomes
  { s with lnk := { s.lnk with laybyPeak := (List.range 6).foldl (fun t k =>
      let u := slotsUsed hs k
      if (sget 0 t k).toNat < u then sset 0 t k (BitVec.ofNat 64 u) else t) s.lnk.laybyPeak } }

/-- The die with the most free slots, the lowest on a tie, among the link dies that run. -/
def State.homeDie (s : State) (hs : List Home) : Nat :=
  (List.range 6).foldl (fun a k => if s.dieState (24 + k) < 2 ∧ (2 ≤ s.dieState (24 + a) ∨ slotsUsed hs k < slotsUsed hs a) then k else a) 0

/-- The homes of all that waits: each takes the lowest slots of its die that nothing with a common span holds. None where a die does not suffice. -/
def State.chooseHomes (s : State) (others : List Home) : List Waiting → List (Home × Waiting) → Option (List Home)
  | [], done => some (done.map (·.1))
  | w :: t, done =>
    let die := s.homeDie (others ++ done.map (·.1))
    let away := others ++ (done.filter (fun y => spansMeet y.2.spans w.spans)).map (·.1)
    let taken := (away.filter (fun h => h.die == die)).flatMap (fun h => h.slots)
    let free := ((List.range 4096).filter (fun i => !taken.contains i)).take w.slots
    if free.length < w.slots then none else State.chooseHomes s others t (done ++ [(⟨w.collective, w.number, die, free⟩, w)])

/-! ## Placement -/

/-- What placement answers: a REASON of 08:Table 8.11, or the placement with the address of the placement table. -/
inductive Placed where
  | refused (reason : Nat)
  | ok (p : Placement) (tableAddr : Nat)
  deriving DecidableEq, Repr

/-- Bytes of the placement table (08:R223). -/
def tableBytes (cells tensors : Nat) : Nat := 8 + 8 * cells + 16 * tensors

/-- Placement of an image (08:R218 to R220), after the rules of load and NODE. -/
def State.placement (s : State) (g : Image) (key : List Nat) (pos : Nat) : Placed :=
  let node := s.lnk.node.toNat
  let mine := g.mine pos
  let limit := mine.foldl (fun a y => max a (g.extent y.1)) 0
  let fits := [1, 2, 4].filterMap (fun f =>
    if g.foldDeclared f && g.leadsFit f && decide (limit ≤ ((spadBytes / f : Nat) : Int)) then (s.bindCells g f mine []).map (fun b => (f, b)) else none)
  if g.dies.any (fun d => (s.enabledCells d).isEmpty) then .refused 0x08 else
  match fits with
  | [] => .refused 0x08
  | first :: _ =>
    let homed := fits.filterMap (fun y => (s.chooseHomes s.allHomes (g.waiting node pos y.1) []).map (fun h => (y, h)))
    let ms := g.ownMemory
    let table := tableBytes mine.length (ms.countP (fun m => g.localBarges node m.tensor != 0))
    let items : List Item := ⟨1, g.bytes⟩ :: ⟨1, table⟩ :: ms.map (g.tensorItem node)
    if g.memory.any (fun m => decide (s.stacksInService.length < 2 ^ m.stripe)) then .refused 0x09 else
    match s.allocateAll (first.1 :: key) items with
    | none => .refused 0x09
    | some r =>
      match homed with
      | [] => .refused 0x0A
      | ((f, b), hs) :: _ =>
        let place (y : List Nat × Nat) : Nat := y.1.headD 0 * stackBytes + y.2
        .ok { fold := f, position := pos, bindings := b, tensors := g.placesOf node ms (r.drop 2), ranges := allRanges items r, homes := hs
              imageAddr := place (r.getD 0 ([], 0)) } (place (r.getD 1 ([], 0)))

/-! ## The placement table (08:R223) -/

def foldCode (f : Nat) : Nat := if f = 2 then 1 else if f = 4 then 2 else 0

/-- The stack mask: stacks that hold local barges. -/
def TensorPlace.mask (p : TensorPlace) : Nat := ((p.stks.take p.blocks).map (fun k => 2 ^ k)).sum

/-- The entries of tensors that have device-memory barges. -/
def placeEntries (ps : List TensorPlace) : Bytes :=
  (ps.filter (fun p => p.blocks != 0)).flatMap (fun p => leBytes 4 p.tensor ++ leBytes 4 p.mask ++ leBytes 8 (p.addr 0))

def Placement.table (p : Placement) : Bytes :=
  leBytes 8 (fld (foldCode p.fold) 2 0 + fld p.bindings.length 32 32) ++
  p.bindings.flatMap (fun b => leBytes 8 (fld b.die 4 0 + fld b.cell 7 4 + fld b.phase 2 11)) ++ placeEntries p.tensors

/-! ## Re-binding (08:R224) -/

/-- The first spare of a die in cyclic order that is healthy and has ROLE 0. -/
def State.firstSpare (s : State) (d : Nat) : Option Nat := (s.rosterOf d).find? (fun c => (s.cell (cellKey d c)).role == .spare)

/-- Is a bound cell no longer in the roster? -/
def State.departed (s : State) (b : Binding) : Bool :=
  !s.healthy b.die b.cell || (s.cell (cellKey b.die b.cell)).role == .spare || (s.cell (cellKey b.die b.cell)).role == .out

/-- A cell's logical cells move to a spare in every loaded context that binds it; the spare takes its role (08:R224), and these contexts' first phase on it begins with their next step (13:R339). -/
def State.takeOver (s : State) (die cell spare : Nat) : State :=
  let at_ (b : Binding) : Bool := b.die == die && b.cell == cell
  let ns := (List.range 8).filter (fun n => (s.slot n).place.bindings.any at_)
  let audit := ns.any (fun n => (s.slot n).place.bindings.any (fun b => at_ b && b.audit))
  let first := ns.map (fun n => (n, (s.slot n).step.toNat))
  let s := ns.foldl (fun s n => s.modSlot n (fun sl => { sl with place := { sl.place with
    bindings := sl.place.bindings.map (fun b => if at_ b then { b with cell := spare } else b) } })) s
  let s := s.modCell (cellKey die spare) (fun c => { c with
    role := if audit then .audit else .enabled, clean := first.foldl (fun m y => sset (0, 0) m y.1 (y.2, 0)) c.clean })
  s.noSpareEvents

/-- Placement runs R219 again on the reduced roster for an image that is loaded: its memory stays. -/
def State.bindAgain (s : State) (n : Nat) (g : Image) (pos : Nat) : Option (Nat × List Binding × List Home) :=
  let mine := g.mine pos
  let limit := mine.foldl (fun a y => max a (g.extent y.1)) 0
  let others := ((List.range 8).filter (fun m => m != n)).flatMap (fun m => (s.slot m).place.homes)
  ([1, 2, 4].filterMap (fun f =>
    if g.foldDeclared f && g.leadsFit f && decide (limit ≤ ((spadBytes / f : Nat) : Int)) then
      match s.bindCells g f mine [], s.chooseHomes others (g.waiting s.lnk.node.toNat pos f) [] with
      | some b, some hs => some (f, b, hs)
      | _, _ => none
    else none)).head?

/-- The payload of the load results (14:Table 14.27, 0x1001). -/
def loadPayload (reason slot sec rec : Nat) : BitVec 128 := payload [(0, 1, reason), (1, 1, slot), (2, 2, sec), (4, 4, rec)]

/-- Re-binds a context whose cells have left the roster, before it next executes a step: true where it may go on. -/
def State.rebindSlot (s : State) (n : Nat) : State × Bool :=
  let sl := s.slot n
  match sl.image with
  | none => (s, true)
  | some g =>
    let gone := ((sl.place.bindings.filter s.departed).map (fun b => (b.die, b.cell))).eraseDups
    let r := gone.foldl (fun (a : State × Bool) c =>
      if !a.2 then a else
      match a.1.firstSpare c.1 with
      | some k => (a.1.takeOver c.1 c.2 k, true)
      | none => (a.1, false)) (s, true)
    if r.2 then (r.1.modSlot n (fun sl => { sl with rebind := false }), true)
    else match s.bindAgain n g sl.place.position with
      | some fb =>
        let fresh := fb.2.1.filter (fun b => !sl.place.bindings.any (fun c => c.die == b.die && c.cell == b.cell))
        let s := fresh.foldl (fun s b => s.modCell (cellKey b.die b.cell) (fun c => { c with clean := sset (0, 0) c.clean n (sl.step.toNat, 0) })) s.formRoster
        ((s.modSlot n (fun sl => { sl with rebind := false, place := { sl.place with fold := fb.1, bindings := fb.2.1, homes := fb.2.2 } })).peakSlots, true)
      | none =>
        let die := ((gone.find? (fun c => (s.firstSpare c.1).isNone)).getD (0, 0)).1
        ((s.faultSlot n).post 0x1009 (srcSlot n) (some n) (payload [(0, 1, n), (1, 1, 1), (2, 1, die)]), false)

end Sys2Proof.Machine
end

