-- ==== Sys2Proof/Machine/Zstd.lean ====
section
/-! DEFINITION. Zstandard content as the arrival unit takes it (12:R310): the frames of RFC 8878, skippable frames, Dictionary_ID, the window, compressed blocks with their Huffman and FSE tables and sequences, the content checksum. -/

namespace Sys2Proof.Machine

open Sys2Proof

/-! ## The content checksum: XXH64 with seed 0, its low 4 bytes -/

def xxPrime1 : Word := 11400714785074694791
def xxPrime2 : Word := 14029467366897019727
def xxPrime3 : Word := 1609587929392839161
def xxPrime4 : Word := 9650029242287828579
def xxPrime5 : Word := 2870177450012600261

def xxRound (a v : Word) : Word := (a + v * xxPrime2).rotateLeft 31 * xxPrime1

def xxLane (b : Bytes) (i : Nat) : Word := BitVec.ofNat 64 (leNat ((b.drop (8 * i)).take 8))

/-- The four accumulators over the whole stripes of 32 bytes. -/
def xxStripes : Nat → Bytes → Word × Word × Word × Word → Word × Word × Word × Word
  | 0, _, v => v
  | n + 1, b, v => xxStripes n (b.drop 32) (xxRound v.1 (xxLane b 0), xxRound v.2.1 (xxLane b 1), xxRound v.2.2.1 (xxLane b 2), xxRound v.2.2.2 (xxLane b 3))

def xxMerge (h v : Word) : Word := (h ^^^ xxRound 0 v) * xxPrime1 + xxPrime4

/-- The bytes behind the stripes: lanes of 8, then one of 4, then single bytes. -/
def xxTail : Nat → Bytes → Word → Word
  | 0, _, h => h
  | n + 1, b, h =>
    if 8 ≤ b.length then xxTail n (b.drop 8) ((h ^^^ xxRound 0 (xxLane b 0)).rotateLeft 27 * xxPrime1 + xxPrime4)
    else if 4 ≤ b.length then xxTail n (b.drop 4) ((h ^^^ BitVec.ofNat 64 (leNat (b.take 4)) * xxPrime1).rotateLeft 23 * xxPrime2 + xxPrime3)
    else match b with
      | [] => h
      | y :: t => xxTail n t ((h ^^^ y.setWidth 64 * xxPrime5).rotateLeft 11 * xxPrime1)

def xxHash (b : Bytes) : Word :=
  let n := b.length / 32
  let v := xxStripes n b (xxPrime1 + xxPrime2, xxPrime2, 0, 0 - xxPrime1)
  let h := if n = 0 then xxPrime5
    else xxMerge (xxMerge (xxMerge (xxMerge (v.1.rotateLeft 1 + v.2.1.rotateLeft 7 + v.2.2.1.rotateLeft 12 + v.2.2.2.rotateLeft 18) v.1) v.2.1) v.2.2.1) v.2.2.2
  let h := xxTail b.length (b.drop (32 * n)) (h + BitVec.ofNat 64 b.length)
  let h := (h ^^^ h >>> 33) * xxPrime2
  let h := (h ^^^ h >>> 29) * xxPrime3
  h ^^^ h >>> 32

/-! ## Frames -/

/-- What a frame header says. -/
structure ZFrame where
  window : Nat
  content : Option Nat
  checksum : Bool
  deriving DecidableEq, Repr

/-- The number in the next n bytes, with the bytes after them. -/
def takeNum (n : Nat) (b : Bytes) : Option (Nat × Bytes) := if b.length < n then none else some (leNat (b.take n), b.drop n)

/-- A frame header behind its magic number; none where it is broken, names a dictionary or asks for a window of more than 8 MiB. -/
def zHeader (b : Bytes) : Option (ZFrame × Bytes) :=
  (takeNum 1 b).bind fun d =>
  let single := bits d.1 5 5 == 1
  (if single then some (0, d.2) else takeNum 1 d.2).bind fun w =>
  (takeNum ([0, 1, 2, 4].getD (bits d.1 1 0) 0) w.2).bind fun i =>
  let size := if bits d.1 7 6 = 0 then (if single then 1 else 0) else 2 ^ bits d.1 7 6
  (takeNum size i.2).bind fun c =>
  let content := if size = 0 then none else some (if size = 2 then c.1 + 256 else c.1)
  let base := 2 ^ (10 + bits w.1 7 3)
  let window := if single then content.getD 0 else base + base / 8 * bits w.1 2 0
  if bits d.1 3 3 = 1 ∨ i.1 ≠ 0 ∨ 2 ^ 23 < window then none else some (⟨window, content, bits d.1 2 2 == 1⟩, c.2)

/-! ## Bit streams -/

/-- Bits read from the first on, the lowest bit of a byte first. -/
structure ZFore where
  val : Nat
  at_ : Nat
  deriving DecidableEq, Repr

def ZFore.read (r : ZFore) (n : Nat) : Nat × ZFore := ((r.val >>> r.at_) % 2 ^ n, { r with at_ := r.at_ + n })

/-- Bits read from the last on, below the highest set bit of the last byte: how many are left. Beyond the first bit only zeros follow, and `left` falls below 0. -/
structure ZBack where
  val : Nat
  left : Int
  deriving DecidableEq, Repr

def ZBack.start (b : Bytes) : Option ZBack :=
  let v := leNat b
  if b.length = 0 ∨ v < 2 ^ (8 * (b.length - 1)) then none else some ⟨v, Nat.log2 v⟩

def ZBack.peek (r : ZBack) (n : Nat) : Nat :=
  if (n : Int) ≤ r.left then (r.val >>> (r.left - n).toNat) % 2 ^ n
  else (r.val % 2 ^ r.left.toNat) <<< ((n : Int) - max r.left 0).toNat

def ZBack.skip (r : ZBack) (n : Nat) : ZBack := { r with left := r.left - n }

/-! ## FSE tables -/

/-- A state of a table: its symbol, the bits that the next state takes, and what they are added to. -/
structure ZCell where
  sym : Nat
  bits : Nat
  base : Nat
  deriving DecidableEq, Repr

/-- A table and its accuracy log. -/
structure ZTable where
  log : Nat
  cells : Array ZCell
  deriving DecidableEq, Repr

def ZTable.at (t : ZTable) (s : Nat) : ZCell := t.cells.getD s ⟨0, 0, 0⟩

/-- The next state. -/
def ZTable.step (t : ZTable) (s : Nat) (r : ZBack) : Nat × ZBack :=
  let c := t.at s
  (c.base + r.peek c.bits, r.skip c.bits)

/-- The symbols of the states: those of probability "less than 1" (−1) from the last state down, the others spread over the rest. -/
def zSpread (log : Nat) (norm : List Int) : List Nat :=
  let size := 2 ^ log
  let ps := List.zip (List.range norm.length) norm
  let low := ps.filter (fun y => y.2 == -1)
  let step := size / 2 + size / 8 + 3
  let spots := ((List.range size).map (fun k => k * step % size)).filter (fun s => decide (s < size - low.length))
  let order := List.zip spots (ps.flatMap (fun y => List.replicate y.2.toNat y.1))
  (sortBy (fun a b => decide (a.1 ≤ b.1)) order).map (·.2) ++ low.reverse.map (·.1)

/-- The states in order, each symbol's counted from its probability on. -/
def zCells (log : Nat) : List Nat → Sparse Nat → List ZCell
  | [], _ => []
  | y :: t, next =>
    let x := sget 0 next y
    let k := log - Nat.log2 x
    ⟨y, k, x * 2 ^ k - 2 ^ log⟩ :: zCells log t (sset 0 next y (x + 1))

def zTable (log : Nat) (norm : List Int) : ZTable :=
  ⟨log, (zCells log (zSpread log norm) ((List.zip (List.range norm.length) norm).foldl (fun m y => sset 0 m y.1 y.2.natAbs) [])).toArray⟩

/-- The repeat flags behind a probability of 0: how many more zeros. -/
def zZeros : Nat → ZFore → Nat × ZFore
  | 0, r => (0, r)
  | fuel + 1, r =>
    let y := r.read 2
    if y.1 = 3 then let z := zZeros fuel y.2; (3 + z.1, z.2) else y

/-- The probabilities of a table description; `most` bounds the number of symbols. -/
def zNorm (most : Nat) : Nat → Nat → List Int → ZFore → Option (List Int × ZFore)
  | 0, _, _, _ => none
  | fuel + 1, points, norm, r =>
    if most < norm.length then none
    else if points = 0 then some (norm, r)
    else
      let n := Nat.log2 (points + 1) + 1
      let y := r.read n
      let half := 2 ^ (n - 1)
      let spare := 2 ^ n - 1 - (points + 1)
      let z := if y.1 % half < spare then (y.1 % half, { y.2 with at_ := y.2.at_ - 1 }) else (if half ≤ y.1 then y.1 - spare else y.1, y.2)
      let p : Int := (z.1 : Int) - 1
      if points < p.natAbs then none
      else if p = 0 then let w := zZeros most z.2; zNorm most fuel points (norm ++ List.replicate (1 + w.1) 0) w.2
      else zNorm most fuel (points - p.natAbs) (norm ++ [p]) z.2

/-- A table description at the start of some bytes, with the bytes behind it. -/
def zDescribed (maxLog most : Nat) (b : Bytes) : Option (ZTable × Bytes) :=
  let y := (⟨leNat (b.take 256), 0⟩ : ZFore).read 4
  let log := y.1 + 5
  if maxLog < log then none else
  (zNorm most (2 ^ log + 1) (2 ^ log) [] y.2).bind fun d =>
  let n := ceilDiv d.2.at_ 8
  if b.length < n then none else some (zTable log d.1, b.drop n)

/-! ## Literals and their Huffman codes -/

/-- A Huffman code: the longest code's bits, and the symbol and the length of its code for each number of so many bits. -/
structure ZHuff where
  log : Nat
  codes : Array (Nat × Nat)
  deriving DecidableEq, Repr

/-- The weights of a stream of two interleaved states; the stream ends where a state takes bits that are not there. -/
def zWeights (t : ZTable) : Nat → Nat → Nat → ZBack → List Nat
  | 0, _, _, _ => []
  | fuel + 1, a, b, r =>
    let y := t.step a r
    if y.2.left < 0 then [(t.at a).sym, (t.at b).sym] else (t.at a).sym :: zWeights t fuel b y.1 y.2

/-- The code of some weights; the last symbol's follows from the others. -/
def zHuff (ws : List Nat) : Option ZHuff :=
  let sum := (ws.map (fun w => if w = 0 then 0 else 2 ^ (w - 1))).sum
  if sum = 0 ∨ 255 < ws.length then none else
  let log := Nat.log2 sum + 1
  let rest := 2 ^ log - sum
  if 11 < log ∨ rest ≠ 2 ^ Nat.log2 rest then none else
  let ws := ws ++ [Nat.log2 rest + 1]
  let order := (List.range log).flatMap (fun k => (List.zip (List.range ws.length) ws).filter (fun y => y.2 == k + 1))
  some ⟨log, (order.flatMap (fun y => List.replicate (2 ^ (y.2 - 1)) (y.1, log + 1 - y.2))).toArray⟩

/-- A Huffman tree description, with the bytes behind it. -/
def zTree (b : Bytes) : Option (ZHuff × Bytes) :=
  (takeNum 1 b).bind fun h =>
  if 128 ≤ h.1 then
    let n := h.1 - 127
    if h.2.length < ceilDiv n 2 then none else
    (zHuff ((List.range n).map (fun i => if i % 2 = 0 then (h.2.getD (i / 2) 0).toNat / 16 else (h.2.getD (i / 2) 0).toNat % 16))).map (·, h.2.drop (ceilDiv n 2))
  else if h.2.length < h.1 then none
  else
    (zDescribed 6 255 (h.2.take h.1)).bind fun d =>
    (ZBack.start d.2).bind fun r =>
    let k := d.1.log
    (zHuff (zWeights d.1 256 (r.peek k) ((r.skip k).peek k) ((r.skip k).skip k))).map (·, h.2.drop h.1)

/-- The literals of one stream: exactly n of them, to its last bit. -/
def zLiterals (h : ZHuff) : Nat → ZBack → Option Bytes
  | 0, r => if r.left = 0 then some [] else none
  | n + 1, r =>
    let c := h.codes.getD (r.peek h.log) (0, 0)
    if r.left ≤ 0 then none else (zLiterals h n (r.skip c.2)).map (BitVec.ofNat 8 c.1 :: ·)

def zStream (h : ZHuff) (n : Nat) (b : Bytes) : Option Bytes := (ZBack.start b).bind (fun r => zLiterals h n r)

/-- Four streams behind their jump table. -/
def zStreams (h : ZHuff) (n : Nat) (b : Bytes) : Option Bytes :=
  (takeNum 2 b).bind fun x => (takeNum 2 x.2).bind fun y => (takeNum 2 y.2).bind fun z =>
  let q := ceilDiv n 4
  if z.2.length < x.1 + y.1 + z.1 ∨ n < 3 * q then none else
  (zStream h q (z.2.take x.1)).bind fun a =>
  (zStream h q ((z.2.drop x.1).take y.1)).bind fun b =>
  (zStream h q ((z.2.drop (x.1 + y.1)).take z.1)).bind fun c =>
  (zStream h (n - 3 * q) (z.2.drop (x.1 + y.1 + z.1))).map (fun d => a ++ b ++ c ++ d)

/-! ## Sequences -/

/-- What one block of a frame leaves to the next: the Huffman code, the three tables (literal lengths, offsets, match lengths), the last three offsets. -/
structure ZCarry where
  huff : Option ZHuff
  tables : List (Option ZTable)
  offsets : List Nat
  deriving DecidableEq, Repr

def ZCarry.fresh : ZCarry := ⟨none, [none, none, none], [1, 4, 8]⟩

/-- A literals section: the literals, the code from now on, the bytes behind. -/
def zLiteralsSection (c : ZCarry) (b : Bytes) : Option (Bytes × Option ZHuff × Bytes) :=
  (b.head?).bind fun b0 =>
  let type := bits b0.toNat 1 0
  let sf := bits b0.toNat 3 2
  if type < 2 then
    let n := if sf % 2 = 0 then 1 else if sf = 1 then 2 else 3
    (takeNum n b).bind fun h =>
    let size := if n = 1 then h.1 / 8 else h.1 / 16
    if type = 0 then (if h.2.length < size then none else some (h.2.take size, c.huff, h.2.drop size))
    else (h.2.head?).map (fun y => (List.replicate size y, c.huff, h.2.drop 1))
  else
    let k := if sf = 2 then 14 else if sf = 3 then 18 else 10
    (takeNum ((4 + 2 * k) / 8) b).bind fun h =>
    let size := bits h.1 (k + 3) 4
    let stored := bits h.1 (2 * k + 3) (k + 4)
    if h.2.length < stored then none else
    (if type = 2 then zTree (h.2.take stored) else c.huff.map (·, h.2.take stored)).bind fun t =>
    (if sf = 0 then zStream t.1 size t.2 else zStreams t.1 size t.2).map (fun l => (l, some t.1, h.2.drop stored))

/-- The predefined probabilities of literal lengths, offsets and match lengths, with their accuracy logs. -/
def zDefault (kind : Nat) : Nat × List Int :=
  if kind = 0 then (6, [4, 3, 2, 2, 2, 2, 2, 2, 2, 2, 2, 2, 2, 1, 1, 1, 2, 2, 2, 2, 2, 2, 2, 2, 2, 3, 2, 1, 1, 1, 1, 1, -1, -1, -1, -1])
  else if kind = 1 then (5, [1, 1, 1, 1, 1, 1, 2, 2, 2, 1, 1, 1, 1, 1, 1, 1, 1, 1, 1, 1, 1, 1, 1, 1, -1, -1, -1, -1, -1])
  else (6, [1, 4, 3, 2, 2, 2, 2, 2, 2] ++ List.replicate 37 1 ++ List.replicate 7 (-1))

/-- The code of a literal length (from 16 on) or of a match length (from 32 on): base and bits that follow. -/
def zLength (lit : Bool) (code : Nat) : Nat × Nat :=
  if lit then
    (if code < 16 then (code, 0) else [(16, 1), (18, 1), (20, 1), (22, 1), (24, 2), (28, 2), (32, 3), (40, 3), (48, 4), (64, 6), (128, 7), (256, 8),
      (512, 9), (1024, 10), (2048, 11), (4096, 12), (8192, 13), (16384, 14), (32768, 15), (65536, 16)].getD (code - 16) (0, 0))
  else
    (if code < 32 then (code + 3, 0) else [(35, 1), (37, 1), (39, 1), (41, 1), (43, 2), (47, 2), (51, 3), (59, 3), (67, 4), (83, 4), (99, 5), (131, 7),
      (259, 8), (515, 9), (1027, 10), (2051, 11), (4099, 12), (8195, 13), (16387, 14), (32771, 15), (65539, 16)].getD (code - 32) (0, 0))

/-- The table of one kind under its mode, with the bytes behind. -/
def zMode (c : ZCarry) (kind mode : Nat) (b : Bytes) : Option (ZTable × Bytes) :=
  let most := [35, 31, 52].getD kind 0
  if mode = 0 then let d := zDefault kind; some (zTable d.1 d.2, b)
  else if mode = 1 then (b.head?).bind (fun y => if most < y.toNat then none else some (⟨0, #[⟨y.toNat, 0, 0⟩]⟩, b.drop 1))
  else if mode = 2 then zDescribed ([9, 8, 9].getD kind 0) (most + 1) b
  else (c.tables.getD kind none).map (·, b)

/-- The offset that a value names, and the last three after it. -/
def zOffset (last : List Nat) (value lits : Nat) : Nat × List Nat :=
  let r (i : Nat) : Nat := last.getD i 0
  if 3 < value then (value - 3, [value - 3, r 0, r 1])
  else match (if lits = 0 then value + 1 else value) with
    | 1 => (r 0, last)
    | 2 => (r 1, [r 1, r 0, r 2])
    | 3 => (r 2, [r 2, r 0, r 1])
    | _ => (r 0 - 1, [r 0 - 1, r 0, r 1])

/-- The sequences of a block in order: literals, then a match within the window; what is left of the literals follows the last. -/
def zSequences (window : Nat) (l o m : ZTable) : Nat → Nat × Nat × Nat → ZBack → List Nat → Bytes → Bytes → Option (Bytes × List Nat)
  | 0, _, r, last, lits, out => if r.left = 0 then some (out ++ lits, last) else none
  | n + 1, st, r, last, lits, out =>
    let k := (o.at st.2.1).sym
    let value := 2 ^ k + r.peek k
    let r := r.skip k
    let e := zLength false (m.at st.2.2).sym
    let len := e.1 + r.peek e.2
    let r := r.skip e.2
    let d := zLength true (l.at st.1).sym
    let run := d.1 + r.peek d.2
    let r := r.skip d.2
    let f := zOffset last value run
    let out := out ++ lits.take run
    let from_ := out.drop (out.length - f.1)
    if lits.length < run ∨ f.1 = 0 ∨ out.length < f.1 ∨ window < f.1 then none else
    let out := out ++ (List.range len).map (fun i => from_.getD (i % f.1) 0)
    if n = 0 then zSequences window l o m n st r f.2 (lits.drop run) out
    else
      let x := l.step st.1 r
      let z := m.step st.2.2 x.2
      let y := o.step st.2.1 z.2
      zSequences window l o m n (x.1, y.1, z.1) y.2 f.2 (lits.drop run) out

/-- The number of sequences, with the bytes behind it. -/
def zCount (b : Bytes) : Option (Nat × Bytes) :=
  (takeNum 1 b).bind fun h =>
  if h.1 < 128 then some h
  else if h.1 < 255 then (takeNum 1 h.2).map (fun y => ((h.1 - 128) * 256 + y.1, y.2))
  else (takeNum 2 h.2).map (fun y => (y.1 + 0x7F00, y.2))

/-- A compressed block: the frame's content with it, and what it leaves to the next. -/
def zBlock (f : ZFrame) (c : ZCarry) (out b : Bytes) : Option (Bytes × ZCarry) :=
  (zLiteralsSection c b).bind fun lit =>
  (zCount lit.2.2).bind fun n =>
  if n.1 = 0 then (if n.2 = [] then some (out ++ lit.1, { c with huff := lit.2.1 }) else none)
  else (takeNum 1 n.2).bind fun modes =>
    if modes.1 % 4 ≠ 0 then none else
    (zMode c 0 (bits modes.1 7 6) modes.2).bind fun l =>
    (zMode c 1 (bits modes.1 5 4) l.2).bind fun o =>
    (zMode c 2 (bits modes.1 3 2) o.2).bind fun m =>
    (ZBack.start m.2).bind fun r =>
    let s0 := r.peek l.1.log
    let r := r.skip l.1.log
    let s1 := r.peek o.1.log
    let r := r.skip o.1.log
    let s2 := r.peek m.1.log
    (zSequences f.window l.1 o.1 m.1 n.1 (s0, s1, s2) (r.skip m.1.log) c.offsets lit.1 out).map (fun x =>
      (x.1, ⟨lit.2.1, [some l.1, some o.1, some m.1], x.2⟩))

/-- The blocks of a frame: the content so far, what earlier blocks leave, the rest behind the last block. -/
def zBlocks (f : ZFrame) : Nat → ZCarry → Bytes → Bytes → Option (Bytes × Bytes)
  | 0, _, _, _ => none
  | fuel + 1, c, out, b =>
    (takeNum 3 b).bind fun h =>
    let size := h.1 / 8
    let type := bits h.1 2 1
    let stored := if type = 1 then 1 else size
    let block := h.2.take stored
    let most := min f.window 131072
    if h.2.length < stored ∨ most < size then none else
    (match type with
      | 0 => some (out ++ block, c)
      | 1 => some (out ++ List.replicate size (block.getD 0 0), c)
      | 2 => zBlock f c out block
      | _ => none).bind fun d =>
    let rest := h.2.drop stored
    if out.length + most < d.1.length then none
    else if h.1 % 2 = 1 then some (d.1, rest) else zBlocks f fuel d.2 d.1 rest

/-- One frame behind its magic number: its content, which its size and its checksum must agree with. -/
def zFrame (b : Bytes) : Option (Bytes × Bytes) :=
  (zHeader b).bind fun h =>
  (zBlocks h.1 (b.length + 1) .fresh [] h.2).bind fun d =>
  if h.1.content.any (fun n => n != d.1.length) then none
  else if h.1.checksum then (takeNum 4 d.2).bind fun c => if c.1 = (xxHash d.1).toNat % 2 ^ 32 then some (d.1, c.2) else none
  else some d

/-- A concatenation of frames, the skippable ones left out. -/
def zFrames : Nat → Bytes → Bytes → Option Bytes
  | 0, _, _ => none
  | fuel + 1, out, b =>
    if b = [] then some out else
    (takeNum 4 b).bind fun m =>
    if m.1 = 0xFD2FB528 then (zFrame m.2).bind fun d => zFrames fuel (out ++ d.1) d.2
    else if m.1 / 16 = 0x184D2A5 then (takeNum 4 m.2).bind fun n => if n.2.length < n.1 then none else zFrames fuel out (n.2.drop n.1)
    else none

/-- The decoded content of a shard's frames, none where 12:R310 is broken. -/
def zstdDecode (b : Bytes) : Option Bytes := zFrames (b.length + 1) [] b

end Sys2Proof.Machine
end

