-- ==== Sys2Proof/Machine/Weights.lean ====
section
/-! DEFINITION. Loading, sharing and switching weights (chapter 12): handles, shard tables, the arrival unit, serving, the weight root and the weight mode. -/

namespace Sys2Proof.Machine

open Sys2Proof

/-! ## Handles -/

/-- The image that gives the structure of a handle. -/
def State.handleImage (s : State) (h : Handle) : Option Image :=
  match h with
  | .epoch n _ => (s.slot n.val).image
  | .base _ => (s.handle h).image

def allHandles : List Handle :=
  (List.finRange 8).flatMap (fun n => (List.finRange 4).map (fun e => Handle.epoch n e)) ++ (List.finRange 4).map Handle.base

/-- Is a weight tensor one of a handle: kind W, SHARED for a base and not SHARED for an epoch (12:R316)? -/
def Image.isWeightOf (g : Image) (h : Handle) (t : Nat) : Bool :=
  match g.tensor t with
  | some r => r.kind == 0 && (r.shared == (handleSlot h).isNone)
  | none => false

def Image.weightMemory (g : Image) (h : Handle) : List MemRec :=
  sortBy (fun a b => decide (a.tensor ≤ b.tensor)) (g.memory.filter (fun m => g.isWeightOf h m.tensor))

def Image.hasShared (g : Image) : Bool := g.tensors.any (fun t => t.shared)

/-- The device address of a barge in a handle's memory. -/
def State.handleAddr (s : State) (g : Image) (w : WeightHandle) (tensor b : Nat) : Option Nat :=
  match g.lay tensor, w.places.find? (fun p => p.tensor == tensor) with
  | some l, some p =>
    match g.owner tensor with
    | some o => if o.ownerOf b = s.node then some (p.addr (localIndex (some o) s.node b)) else none
    | none => some (p.addr (l.localOf b))
  | _, _ => none

/-! ## Keys of bases (12:R321) -/

def TensorRec.pack (t : TensorRec) : Nat :=
  fld t.id 32 224 + fld t.layoutId 16 208 + fld t.kind 2 206 + bitN t.persist * 2 ^ 205 + bitN t.critical * 2 ^ 204 + bitN t.shared * 2 ^ 203 + fld t.companion 32 160

def Layout.pack (l : Layout) : Nat :=
  let each (f : Nat → Nat) : Nat := ((List.range l.rank).map f).sum
  fld l.scaleBlock0 40 560 + each (fun k => fld (l.tstride.getD k 0) 40 (320 + 40 * k)) + each (fun k => fld (l.dims.getD k 0) 32 (128 + 32 * k)) +
  each (fun k => fld (l.order.getD k 0) 3 (110 + 3 * k)) + fld l.swzShift 5 105 + fld l.swzBits 3 102 + each (fun k => fld (l.tileLog2.getD k 0) 4 (78 + 4 * k)) +
  fld l.id 16 48 + fld l.format 8 40 + fld l.rank 3 37 + fld l.blockAxis 3 34 + bitN l.interleaved * 2 ^ 33 + l.fill.toNat

def OwnerTable.pack (o : OwnerTable) : Bytes :=
  leBytes 32 (fld o.tensor 32 224 + fld o.blocks 40 184 + fld o.kind 2 182 + fld o.entries.length 16 166 + fld o.grain 40 126) ++
  o.entries.flatMap (fun e => leBytes 8 (fld e.1 20 44 + fld e.2 40 0))

def Image.baseKey (g : Image) : BitVec 512 :=
  let ts := sortBy (fun (a b : TensorRec) => decide (a.id ≤ b.id)) (g.tensors.filter (fun t => t.shared))
  shake512 (ts.flatMap (fun t => leBytes 32 t.pack ++ (g.layout t.layoutId).elim [] (fun l => leBytes 128 l.pack) ++ (g.owner t.id).elim [] OwnerTable.pack))

/-! ## Shard-table entries (12:Table 12.2) -/

structure Shard where
  host : Nat
  length : Nat
  tensor : Nat
  first : Nat
  count : Nat
  peer : Nat
  srcfmt : Nat
  coding : Nat
  split : Bool
  rsvd : Nat
  sends : Nat
  state : Nat
  deriving DecidableEq, Repr

def shardOf (x : Nat) : Shard :=
  { host := bits x 511 448, length := bits x 447 384, tensor := bits x 383 352, first := bits x 351 312, count := bits x 311 296
    peer := bits x 295 276, srcfmt := bits x 275 268, coding := bits x 267 266, split := bits x 265 265 == 1, rsvd := bits x 264 192
    sends := bits x 159 144, state := bits x 135 128 }

def State.shard (s : State) (w : WeightHandle) (i : Nat) : Shard := shardOf (s.entry w i)

/-- Ends entries of a handle that are ARRIVING with ABORT. -/
def State.abortEntries (s : State) (h : Handle) (which : Shard → Bool) : State :=
  if (s.handle h).state = .filling then
    (List.range (s.handle h).count).foldl (fun s i =>
      let e := s.shard (s.handle h) i
      if e.state = stArriving ∧ which e then s.failEntry h i 6 else s) s
  else s

/-- A change of owner ends host shards that are ARRIVING (12:R324). -/
def State.abortHostShards (s : State) : State := allHandles.foldl (fun s h => s.abortEntries h (fun e => e.peer == unassigned)) s

/-- UNLOAD ends the slot's ARRIVING entries. -/
def State.abortSlotShards (s : State) (n : Nat) : State :=
  allHandles.foldl (fun s h => if handleSlot h = some n then s.abortEntries h (fun _ => true) else s) s

/-! ## Commands of WLD_CMD (12:R316, R318, R323) -/

def wldOffset : Nat := 0x80000

/-- The handle that a value of WLD_CMD names, and its slot. -/
def cmdHandle (v : Word) : Handle :=
  if v.getLsbD 3 then .base ⟨(v.extractLsb' 4 2).toNat % 4, Nat.mod_lt _ (by decide)⟩
  else .epoch ⟨(v.extractLsb' 8 4).toNat % 8, Nat.mod_lt _ (by decide)⟩ ⟨(v.extractLsb' 4 2).toNat % 4, Nat.mod_lt _ (by decide)⟩

def cmdSlot (v : Word) : Nat := (v.extractLsb' 8 4).toNat

/-- Does a value of WLD_CMD name a handle that exists? -/
def cmdNames (v : Word) : Bool := v.getLsbD 3 || decide (cmdSlot v < 8)

def State.wldReason (s : State) (r : Nat) : State := { s with wld := { s.wld with reason := BitVec.ofNat 8 r } }

def Slot.rootPending (sl : Slot) : Bool := sl.epochReq != sl.epochCur || sl.baseReq != sl.baseCur

/-- Is a handle the current epoch of a slot that has started? -/
def State.inUse (s : State) (h : Handle) : Bool :=
  match h with
  | .epoch n e => (s.slot n.val).started && (s.slot n.val).epochCur.toNat == e.val
  | .base _ => false

/-- Is a handle requested by a root that is pending? -/
def State.requested (s : State) (h : Handle) : Bool :=
  match h with
  | .epoch n e => (s.slot n.val).rootPending && (s.slot n.val).epochReq.toNat == e.val
  | .base b => (List.range 8).any (fun n => (s.slot n).rootPending && (s.slot n).baseReq.toNat == b.val)

/-- The slots that name a base, currently or as a request (12:Table 12.10). -/
def State.baseRefs (s : State) (b : Nat) : Nat :=
  ((List.range 8).map (fun n => if (s.slot n).baseCur.toNat = b ∨ (s.slot n).baseReq.toNat = b then 2 ^ n else 0)).sum

/-- Does an entry break R309, R312 or R317? -/
def Image.shardBad (g : Image) (h : Handle) (e : Shard) : Bool :=
  e.rsvd != 0 || e.count == 0 || !g.isWeightOf h e.tensor ||
  -- barge form carries target encodings; the other codings convert, and no conversion has an anchored target (03:Table 3.4)
  (if e.coding = 3 then e.srcfmt != 0 || e.split || e.length != 4128 * e.count else (e.srcfmt != 0x10 && e.srcfmt != 0x11) || isAncFmt (g.fmt e.tensor)) ||
  (e.split && (e.srcfmt != 0x11 || (g.skimOf e.tensor).isNone))

/-- Are the local element barges of a handle's tensors covered exactly once? A SPLIT entry covers its body's skim too; a skim that no entry covers is left without content (12:R319). -/
def State.partitions (s : State) (g : Image) (ms : List MemRec) (es : List Shard) : Bool :=
  let here (t b : Nat) : Bool := match g.owner t with
    | some o => o.ownerOf b == s.node
    | none => true
  let covers (t b : Nat) (e : Shard) : Bool := e.tensor == t && decide (e.first ≤ b ∧ b < e.first + e.count)
  -- a tensor without a MEMORY record has no local barges (09:R237, R238)
  es.all (fun e => ms.any (fun m => m.tensor == e.tensor) && (g.lay e.tensor).any (fun l => decide (e.first + e.count ≤ l.elemBarges)) && (List.range e.count).all (fun i => here e.tensor (e.first + i))) &&
  ms.all (fun m => (g.lay m.tensor).any (fun l => (List.range l.elemBarges).all (fun b => !here m.tensor b ||
    (let body := (g.tensor m.tensor).elim 0 (fun r => r.companion)
     let n := es.countP (covers m.tensor b)
     if body = 0 then n == 1 else decide (n + es.countP (fun e => e.split && covers body b e) ≤ 1)))))

/-- Is a handle's skim content present (12:R319)? -/
def Image.skimPresent (g : Image) (es : List Shard) : Bool := es.all (fun e => e.split || (g.skimOf e.tensor).isNone)

/-- OPEN of a handle under a slot's image. -/
def State.openHandle (s : State) (h : Handle) (n : Nat) : State :=
  match (s.slot n).image with
  | none => s.wldReason 0x06
  | some g =>
    let w := s.handle h
    let isEpoch0 := match h with
      | .epoch _ e => e.val == 0
      | .base _ => false
    let addr := s.wld.tableAddr.toNat
    let count := s.wld.tableCount.toNat
    let ms := g.weightMemory h
    let draining := (s.slot n).state == .draining || (s.slot n).state == .loading
    if n ≥ 8 ∨ draining ∨ addr % 256 ≠ 0 ∨ count < 1 ∨ 65536 < count ∨ !validRange addr (64 * count + 16 * ms.length) ∨ !clearOfDump addr (64 * count + 16 * ms.length) ∨
        !(w.state == .free || (isEpoch0 && w.state == .ready)) ∨ (isEpoch0 ∧ (s.slot n).started) ∨ s.inUse h ∨ s.requested h ∨
        ((handleSlot h).isNone ∧ !g.hasShared) then s.wldReason 0x06
    else
      let t : WeightHandle := ⟨.filling, addr, count, [], [], w.places, w.ranges, false, if (handleSlot h).isNone then some g else none, if (handleSlot h).isNone then g.baseKey else 0⟩
      let es := (List.range count).map (fun i => s.shard t i)
      let s := (List.range count).foldl (fun s i => s.readEntry h t i) s
      if es.any (g.shardBad h) ∨ !s.partitions g ms es then s.wldReason 0x06
      else
        let items := ms.map (g.tensorItem s.node)
        let got := if isEpoch0 then some (w.places, w.ranges)
          else (s.allocateAll [] items).map (fun r => (g.placesOf s.node ms r, allRanges items r))
        match got with
        | none => s.wldReason 0x09
        | some (ps, rs) =>
          let s := s.setHandle h { t with places := ps, ranges := rs, skim := g.skimPresent es }
          let s := (List.range count).foldl (fun s i => s.setEntry t i (s.entry t i / 2 ^ 192 * 2 ^ 192)) s
          (s.writeOwn (addr + 64 * count) (placeEntries ps)).wldReason 0

def execOpenHandle (m : Master) (value : Word) (s : State) : Result :=
  .next (s.command m (wldOffset + 0x10) (fun s => s.openHandle (cmdHandle value) (cmdSlot value)))

/-- The fetch of a host shard, or the request for a peer's (12:R318, R322). -/
def State.pullShard (s : State) (h : Handle) (g : Image) (e : Shard) (i : Nat) : State :=
  if e.peer = unassigned then { s with out := .hostFetch e.host e.length :: s.out }
  else if (s.portsTo e.peer).isEmpty then s.failEntry h i 5
  else
    let l := (g.lay e.tensor).elim (0, 0) (fun l => (l.id, l.format))
    s.sendNode e.peer (.shardRequest ⟨BitVec.ofNat 20 s.node, BitVec.ofNat 32 e.tensor, BitVec.ofNat 16 l.1, BitVec.ofNat 8 l.2, e.first, e.count⟩)

/-- SUBMIT of an entry that is MISSING or FAILED; on any other entry it is ignored. -/
def State.submitEntry (s : State) (h : Handle) (i : Nat) : State :=
  let w := s.handle h
  if s.inUse h then s.wldReason 0x06
  else if w.state = .filling ∧ i < w.count then
    let e := s.shard w i
    if e.state = stMissing ∨ e.state = stFailed then
      let x := s.entry w i
      let s := s.readEntry h w i
      let x := setBits (setBits (setBits (setBits x 135 128 stArriving) 159 144 (e.sends + 1)) 191 160 0) 143 136 0
      let s := s.setHandle h { w with submitAt := sset 0 w.submitAt i s.now, arrived := w.arrived.filter (fun j => j != i) }
      let s := (s.setEntry w i x).wldReason 0
      match s.handleImage h with
      | some g => s.pullShard h g e i
      | none => s
    else s
  else s

def execSubmit (m : Master) (value : Word) (s : State) : Result :=
  .next (s.command m (wldOffset + 0x10) (fun s => if !cmdNames value then s.wldReason 0x06 else s.submitEntry (cmdHandle value) (value.extractLsb' 32 32).toNat))

/-- FREE of a handle. -/
def State.freeHandle (s : State) (h : Handle) : State :=
  let named : Bool := match h with
    | .base b => s.baseRefs b.val != 0
    | .epoch _ _ => false
  if s.inUse h ∨ s.requested h ∨ named then s.wldReason 0x06
  else
    let s := s.abortEntries h (fun _ => true)
    let w := s.handle h
    let keep : Bool := match h with
      | .epoch _ e => e.val == 0
      | .base _ => false
    (s.setHandle h (if keep then { WeightHandle.none with places := w.places, ranges := w.ranges } else .none)).wldReason 0

def execFreeHandle (m : Master) (value : Word) (s : State) : Result :=
  .next (s.command m (wldOffset + 0x10) (fun s => if !cmdNames value then s.wldReason 0x06 else s.freeHandle (cmdHandle value)))

/-! ## The arrival unit (12:R309 to R314) -/

/-- The logical positions of a shard's barges: logical index and position, in ascending logical index. -/
def shardPlaces (l : Layout) (first count : Nat) : List (Nat × Nat) :=
  sortBy (fun a b => decide (a.1 ≤ b.1))
    ((List.range count).flatMap (fun i => (l.bargePositions (first + i)).filterMap (fun p => (l.posIndex p).map (fun e => (e, p)))))

/-- The plane-split form undone (12:R311): n elements of z bytes. -/
def unsplit (z n : Nat) (b : Bytes) : Bytes := (List.range n).flatMap (fun i => (List.range z).map (fun k => b.getD (k * n + i) 0))

/-- The raw form of a shard's source, none where R310 or the length is broken. -/
def decodeShard (coding z n : Nat) (b : Bytes) : Option Bytes :=
  match coding with
  | 0 => if b.length = z * n then some b else none
  | 1 => (zstdDecode b).bind (fun d => if d.length = z * n then some d else none)
  | _ => (zstdDecode b).bind (fun d => if d.length = z * n then some (unsplit z n d) else none)

/-- The buffer of the arrival unit: elements at their storage bytes, scale bytes of separate placement at 2^44. Storage order knows no swizzle (06:R154, R156). -/
def shardBuffer (l : Layout) (first : Nat) (ps : List Put) : Cell :=
  let o : Operand := ⟨0, 0, { l with swzBits := 0 }, -((first * 4096 : Nat) : Int), 2 ^ 44⟩
  o.putAll ⟨0, 0, 2 ^ 46⟩ .reset ps

/-- A barge of a shard on its way into device memory, sealed with SOURCE 1 and STEP 0 (12:R313). -/
def State.arrivalBarge (s : State) (h : Handle) (entry : Nat) (g : Image) (w : WeightHandle) (tensor b : Nat) (p : Bytes) : State :=
  match s.handleAddr g w tensor b with
  | none => s
  | some a =>
    let z := s.seal ((handleSlot h).getD 0) g tensor b sourceHost 0 p
    { s with flight := { s.flight with barges := s.flight.barges ++ [⟨a, z.1, z.2, some (h, entry)⟩] } }

/-- The scale bytes of a shard with separate placement: partial writes (12:R312). -/
def State.arrivalScales (s : State) (h : Handle) (entry : Nat) (g : Image) (w : WeightHandle) (tensor : Nat) (l : Layout) (c : Cell) (first count : Nat) : State :=
  if !l.separate then s else
  let h0 := first * l.blocksPerBarge
  let h1 := min ((first + count) * l.blocksPerBarge) (l.positions / 32)
  let slot := (handleSlot h).getD 0
  let gen := if (handleSlot h).isNone then 0 else s.gen slot
  (List.range ((h1 + 4095) / 4096 - h0 / 4096)).foldl (fun s j =>
    let k := h0 / 4096 + j
    let lo := max h0 (k * 4096)
    let hi := min h1 (k * 4096 + 4096)
    match s.handleAddr g w tensor (l.scaleBlock0 + k) with
    | none => s
    | some a => { s with flight := { s.flight with parts := s.flight.parts ++ [⟨a + lo % 4096, c.bytes (2 ^ 44 + lo) (hi - lo), BitVec.ofNat 3 slot, gen, some (h, entry), 30, 0xFF⟩] } }) s

/-- A tensor's barges of a shard from the elements that it writes. -/
def State.arrivalTensor (s : State) (h : Handle) (entry : Nat) (g : Image) (w : WeightHandle) (tensor : Nat) (l : Layout) (first count : Nat) (ps : List Put) : State :=
  let c := shardBuffer l first ps
  let s := (List.range count).foldl (fun s i => s.arrivalBarge h entry g w tensor (first + i) (c.bytes (i * 4096) 4096)) s
  s.arrivalScales h entry g w tensor l c first count

/-- Source elements converted under recipe W, or split between body and skim (12:R312): what is written, and the saturations. -/
def shardPuts (l : Layout) (e : Shard) (es : List (Nat × Nat)) (raw : Bytes) : List Put :=
  let z := if e.srcfmt = 0x10 then 2 else 4
  let rs := (List.zip (List.range es.length) es).map (fun y =>
    Res.mk y.2.2 (some y.2.1) (decodeVal e.srcfmt 0 (leNat ((raw.drop (z * y.1)).take z)) 0) false)
  let pad := (List.range e.count).flatMap (fun i => (l.bargePositions (e.first + i)).filterMap (fun p => if (l.posIndex p).isNone then some (Res.mk p none (.fin false 0 0) false) else none))
  convertResults l.format false (fun _ => none) (rs ++ pad)

/-- Bits 31:16 of the source elements, or bits 15:0 (12:R312): a split, not a conversion. -/
def splitHalves (es : List (Nat × Nat)) (raw : Bytes) (hi : Bool) : List Put :=
  (List.zip (List.range es.length) es).map (fun y =>
    let x := leNat ((raw.drop (4 * y.1)).take 4)
    ⟨y.2.2, some y.2.1, 0, if hi then x / 2 ^ 16 else x % 2 ^ 16, false⟩)

/-- The unit has written an entry's barges. -/
def State.markArrived (s : State) (h : Handle) (i : Nat) : State :=
  let w := s.handle h
  s.setHandle h { w with arrived := w.arrived ++ [i] }

/-- A barge-form record of 4,128 bytes. -/
def recordAt (b : Bytes) (i : Nat) : Bytes × BitVec 256 := ((b.drop (4128 * i)).take 4096, BitVec.ofNat 256 (leNat ((b.drop (4128 * i + 4096)).take 32)))

/-- One barge-form record: hop 6, the fields, the re-seal (12:R313). The answer is the reason of a failure, 0 for none. -/
def State.arrivalRecord (s : State) (h : Handle) (entry : Nat) (g : Image) (w : WeightHandle) (tensor : Nat) (l : Layout) (b : Nat) (r : Bytes × BitVec 256) : State × Nat :=
  let t := r.2
  if !tagOk r.1 t then ((s.towFail 6).failedHopTag 6 srcArrival t, 1)
  else if tagTensor t ≠ tensor ∨ tagBlock t ≠ b ∨ tagField t 151 136 ≠ l.id ∨ tagField t 55 48 ≠ l.format then (s, 4)
  else match s.handleAddr g w tensor b with
    | none => (s, 4)
    | some a =>
      let slot := (handleSlot h).getD 0
      let gen := if (handleSlot h).isNone then 0 else (s.gen slot).toNat
      let x := setTag (setTag t.toNat 227 212 sourceHost) 211 172 0
      let x := setTag (setTag (setTag x 171 152 (s.ownerNode g tensor b)) 42 40 slot) 39 32 gen
      let p := l.maskBarge b r.1
      ({ s with flight := { s.flight with barges := s.flight.barges ++ [⟨a, p, sealTag p x, some (h, entry)⟩] } }, 0)

/-- A delivery of an entry's encoded bytes, which the host DMA has fetched as LENGTH says (12:Table 12.2) or a peer has sent: decoded, quantised, laid out and sent as sealed barges; or the entry fails. -/
def State.arrive (s : State) (h : Handle) (i : Nat) (encoded : Bytes) : State :=
  let w := s.handle h
  let e := s.shard w i
  if w.state ≠ .filling ∨ w.count ≤ i ∨ e.state ≠ stArriving ∨ (e.peer = unassigned ∧ encoded.length ≠ e.length) then s else
  match s.handleImage h with
  | none => s
  | some g =>
    match g.lay e.tensor with
    | none => s
    | some l =>
      let s := s.readEntry h w i
      if e.coding = 3 then
        if encoded.length ≠ 4128 * e.count then s.failEntry h i 3 else
        let r := (List.range e.count).foldl (fun (a : State × Nat) k =>
          if a.2 ≠ 0 then a else a.1.arrivalRecord h i g w e.tensor l (e.first + k) (recordAt encoded k)) (s, 0)
        if r.2 = 0 then r.1.markArrived h i else r.1.failEntry h i r.2
      else
        let es := shardPlaces l e.first e.count
        let z := if e.srcfmt = 0x10 then 2 else 4
        match decodeShard e.coding z es.length encoded with
        | none => s.failEntry h i 3
        | some raw =>
          match e.split, g.skimOf e.tensor with
          | true, some k =>
            let s := s.arrivalTensor h i g w e.tensor l e.first e.count (splitHalves es raw true)
            let lk := (g.lay k.id).getD l
            (s.arrivalTensor h i g w k.id lk e.first e.count (splitHalves es raw false)).markArrived h i
          | _, _ =>
            let ps := shardPuts l e es raw
            let s := s.arrivalTensor h i g w e.tensor l e.first e.count ps
            let n := ps.countP (fun p => p.counts)
            (s.setEntry w i (setBits (s.entry w i) 191 160 (min (bits (s.entry w i) 191 160 + n) (2 ^ 32 - 1)))).markArrived h i

def execArrivalUnitWrite (h : Handle) (entry : Nat) (encoded : Bytes) (s : State) : Result := .next (s.arrive h entry encoded)

/-- Is anything of an entry's delivery still on its way: barges of the body or the skim, scale bytes? -/
def State.entryInFlight (s : State) (h : Handle) (i : Nat) : Bool :=
  s.flight.barges.any (fun b => b.load == some (h, i)) || s.flight.parts.any (fun b => b.load == some (h, i))

/-- The end of a delivery: COMPLETE when its barges have been written and checked, or FAILED; the handle is READY with its last entry. -/
def State.endShard (s : State) (h : Handle) (i : Nat) (failure : Option (Fin 6)) : State :=
  let w := s.handle h
  let e := s.shard w i
  if w.state ≠ .filling ∨ w.count ≤ i ∨ e.state ≠ stArriving then s else
  match failure with
  | some f => s.failEntry h i (f.val + 1)
  | none =>
    if !w.arrived.contains i || s.entryInFlight h i then s else
    let x := s.entry w i
    let sats := bits x 191 160
    let s := (s.readEntry h w i).setEntry w i (setBits x 135 128 stComplete)
    let s := if sats = 0 then s else s.post 0x2005 srcArrival (handleSlot h) (handlePayload h [(4, 4, i), (8, 4, sats)])
    if (List.range w.count).all (fun j => (s.shard w j).state == stComplete) then
      (s.setHandle h { w with state := .ready }).post 0x1011 srcArrival (handleSlot h) (handlePayload h [])
    else s

def execShardComplete (h : Handle) (entry : Nat) (failure : Option (Fin 6)) (s : State) : Result := .next (s.endShard h entry failure)

/-- An entry that is not COMPLETE within WLD_TIMEOUT of its SUBMIT. -/
def execShardTimeout (h : Handle) (entry : Nat) (s : State) : Result :=
  let w := s.handle h
  if w.state = .filling ∧ entry < w.count ∧ (s.shard w entry).state = stArriving then
    .next ((s.reach (sget 0 w.submitAt entry + max 1 s.wld.timeout.toNat * 1000000)).failEntry h entry 2)
  else .next s

/-! ## Serving (12:R322) -/

/-- The handle that WLD_SERVE names. -/
def State.served (s : State) : Option Handle :=
  if !s.wld.serveEnable then none
  else if s.wld.serveBase then some (.base ⟨s.wld.serveHandle.toNat, s.wld.serveHandle.isLt⟩)
  else if h : s.wld.serveSlot.toNat < 8 then some (.epoch ⟨s.wld.serveSlot.toNat, h⟩ ⟨s.wld.serveHandle.toNat, s.wld.serveHandle.isLt⟩)
  else none

/-- The barges that a request names, if the served handle holds them all. -/
def State.serveAddrs (s : State) (r : ShardRequest) : Option (List Nat) :=
  match s.served with
  | none => none
  | some h =>
    let w := s.handle h
    match s.handleImage h with
    | none => none
    | some g =>
      match g.lay r.tensor.toNat with
      | none => none
      | some l =>
        let as := (List.range r.count).map (fun k => if r.first + k < l.elemBarges then s.handleAddr g w r.tensor.toNat (r.first + k) else none)
        if w.state = .ready ∧ l.id = r.layout.toNat ∧ l.format = r.format.toNat ∧ as.all Option.isSome then some (as.filterMap id) else none

/-- A peer's request is answered in barge form, or refused. -/
def State.serveShard (s : State) (r : ShardRequest) : State :=
  match s.serveAddrs r with
  | none => s.sendNode r.node.toNat (.shardRefused r)
  | some as => as.foldl (fun s a =>
      let x := s.readWords ⟨0, 31, 0xFF, none⟩ (a / 64) 64
      x.1.sendNode r.node.toNat (.shardBarge x.2.1 (x.1.mem.bargeTag a))) s

def execPeerShardRequest (p : ShardPacket) (s : State) : Result :=
  .next (s.packetOf p.via (.shardRequest p.request) (fun s => s.serveShard p.request))

/-! ## The weight root and the weight mode (12:R320, 05:R149) -/

/-- A write of WLD_ROOT (12:Table 12.9). -/
def State.rootWrite (s : State) (n : Nat) (v : Word) : State :=
  let b := v.extractLsb' 4 3
  s.modSlot n (fun sl => { sl with epochReq := v.extractLsb' 7 2, baseReq := if 4 ≤ b.toNat then 7 else b })

def execWldRootWrite (m : Master) (slot : Fin 8) (value : Word) (s : State) : Result :=
  .next (s.command m (wldOffset + 0x100 + slot.val * 0x10) (fun s => s.rootWrite slot.val value))

/-- The skims of an image to which the weight mode applies: those of shared base weights, which are read-only, are none (05:R146). -/
def Image.skims (g : Image) : List TensorRec := g.tensors.filter (fun t => t.companion != 0 && !t.shared && !g.isShared t.companion)

/-- The skims of the selected epoch are set to 0: sealed by the base die of their stack (05:R149). -/
def State.zeroSkims (s : State) (n : Nat) (g : Image) (step : Nat) : State :=
  g.skims.foldl (fun s t =>
    match g.lay t.id with
    | none => s
    | some l => (List.range l.elemBarges).foldl (fun s b =>
        match s.bargeAddr n g t.id b with
        | none => s
        | some a =>
          let x := s.seal n g t.id b (sourceStack (stackOf a)) step (List.replicate 4096 0)
          let t := sealTag x.1 (setTag x.2.toNat 171 152 s.node)
          s.writeBarge a x.1 t) s) s

def Image.baseOk (g : Image) (s : State) (b : Nat) : Bool :=
  if b < 4 then (sget .none s.wld.bases b).state == .ready && (sget .none s.wld.bases b).key == g.baseKey else !g.hasShared

/-- Does the pair that a root requests stand ready? -/
def State.rootReady (s : State) (n : Nat) (g : Image) : Bool :=
  let sl := s.slot n
  (sget .none sl.epochs sl.epochReq.toNat).state == .ready && g.baseOk s sl.baseReq.toNat

/-- The root moves, or an event says that its request waits. -/
def State.rootSwitch (s : State) (n : Nat) (g : Image) : State :=
  let sl := s.slot n
  if !sl.rootPending then s
  else if s.rootReady n g then s.modSlot n (fun sl => { sl with epochCur := sl.epochReq, baseCur := sl.baseReq })
  else s.post 0x1012 (srcSlot n) (some n) (payload [(0, 1, n), (1, 1, sl.epochReq.toNat), (2, 1, sl.baseReq.toNat)])

/-- The weights of the selected epoch carry skim content, or none (12:R319). -/
def Slot.setSkim (sl : Slot) (b : Bool) : Slot :=
  { sl with epochs := sset .none sl.epochs sl.epochCur.toNat { sget .none sl.epochs sl.epochCur.toNat with skim := b } }

/-- A weight-mode request takes effect, or is refused once: on entry to split mode, and on leaving it, the selected epoch has no skims. -/
def State.modeSwitch (s : State) (n : Nat) (g : Image) : State :=
  let sl := s.slot n
  if sl.wreq = sl.wmode then s
  else if sl.wreq then
    if g.tensors.any (fun t => t.companion != 0) then s.modSlot n (fun sl => { (sl.setSkim false) with wmode := true })
    else
      (s.modSlot n (fun sl => { sl with wreq := false })).post 0x1007 (srcSlot n) (some n) (payload [(0, 1, n), (1, 1, 1)])
  else s.modSlot n (fun sl => { (sl.setSkim false) with wmode := false })

/-- Item 2 of 07:R183: the root, then the mode; where the selected epoch is then in split mode and has no skim content, its skims are set to 0 (05:R149). -/
def State.weightSwitch (s : State) (n : Nat) (g : Image) (step : Nat) : State :=
  let s := (s.rootSwitch n g).modeSwitch n g
  let sl := s.slot n
  if sl.wmode && !(sget .none sl.epochs sl.epochCur.toNat).skim then (s.zeroSkims n g step).modSlot n (fun sl => sl.setSkim true) else s

/-- May a step start with the current root (12:R320)? -/
def State.rootOk (s : State) (n : Nat) (g : Image) : Bool :=
  let sl := s.slot n
  (sget .none sl.epochs sl.epochCur.toNat).state == .ready &&
  (if sl.baseCur.toNat < 4 then (sget .none s.wld.bases sl.baseCur.toNat).state == .ready else !g.hasShared)

end Sys2Proof.Machine
end

