-- ==== Sys2Proof/Machine/Contexts.lean ====
section
/-! DEFINITION. Context slots (08:R221 to R234): loads, the run target, export and restore, teardown, and the start of a step. -/

namespace Sys2Proof.Machine

open Sys2Proof

def ctxOffset : Nat := 0x60000
def slotOffset (n : Nat) : Nat := ctxOffset + 0x1000 + n * 0x100

def slotCode (st : SlotState) : Nat :=
  match st with
  | .empty => 0
  | .loading => 1
  | .idle => 2
  | .active => 3
  | .faulted => 4
  | .draining => 5

/-! ## Loads (08:R221, R222, R226) -/

/-- The result of a load in CTX_LOAD_STATUS, and its event: none where no slot was taken. -/
def State.loadReport (s : State) (slot : Option Nat) (reason sec rec : Nat) : State :=
  let s := { s with ctx := { s.ctx with
      slot := (match slot with | some n => BitVec.ofNat 3 n | none => s.ctx.slot)
      reason := BitVec.ofNat 8 reason, section_ := BitVec.ofNat 16 sec, record := BitVec.ofNat 32 rec } }
  s.postSev 0x1001 (match slot with | some n => srcSlot n | none => 0x000) slot (if reason = 0 then 0 else 2)
    (loadPayload reason (slot.getD 0xFF) sec rec)

def State.emptySlot (s : State) : Option Nat := (List.range 8).find? (fun n => (s.slot n).state == .empty)

/-- A write of CTX_LOAD. -/
def State.beginLoad (s : State) : State :=
  if s.ctx.busy then s.loadReport none 0x01 0 0
  else match s.emptySlot with
    | none => s.loadReport none 0x02 0 0
    | some n =>
      let s := s.modSlot n (fun sl => { sl with state := .loading })
      { s with ctx := { s.ctx with
          busy := true, slot := BitVec.ofNat 3 n, reason := 0, section_ := 0, record := 0, target := s.ctx.target
          curAddr := s.ctx.loadAddr, curLen := s.ctx.loadLen, curSeed := s.ctx.seedHi ++ s.ctx.seedLo } }

def execCtxLoad (m : Master) (s : State) : Result :=
  .next (s.command m (ctxOffset + 0x20) (fun s => (s.beginExit 0x1FF).beginLoad))

/-- The slot that is LOADING. -/
def State.loadingSlot (s : State) : Option Nat := (List.range 8).find? (fun n => (s.slot n).state == .loading)

/-- A tensor of the module's own set to zero: its local barges sealed with zero payload (09:R253). -/
def State.zeroTensor (s : State) (n : Nat) (g : Image) (t : Nat) : State :=
  match g.lay t with
  | none => s
  | some l => (List.range l.elemBarges).foldl (fun s b =>
      match s.bargeAddr n g t b with
      | none => s
      | some a =>
        let x := s.seal n g t b sourceControl (s.slot n).step.toNat (List.replicate 4096 0)
        s.writeBarge a x.1 x.2) s

/-- The region count table (09:R253). -/
def Image.countTable (g : Image) : Option MemRec := g.memory.find? (fun m => m.use == 2)

def State.zeroCounts (s : State) (n : Nat) (g : Image) : State :=
  let s := s.modSlot n (fun sl => { sl with regionStep := [], regionLast := [], regionTotal := [] })
  let s := s.setNumSlot n .zero
  match g.countTable with
  | none => s
  | some m => s.zeroTensor n g m.tensor

/-- An accepted load: the slot's copy of the image, the placement table, the slot's state (08:R221, R223, R226; 12:R315, R326). -/
def State.acceptLoad (s : State) (n : Nat) (r : Raw) (g : Image) (p : Placement) (table : Nat) (digest : BitVec 512) : State :=
  let s := s.writeOwn p.imageAddr r.bytes
  let s := s.writeOwn table p.table
  let weights := p.tensors.filter (fun y => g.isWeightOf (.epoch 0 0) y.tensor)
  let old := s.slot n
  let s := s.setSlot n { Slot.reset with
    state := .idle, seed := s.ctx.curSeed, xferAddr := old.xferAddr, placeAddr := BitVec.ofNat 64 table, progDigest := digest
    structDigest := r.structureDigest, image := some g, place := p, joinDue := decide (1 < g.modules)
    epochs := sset .none [] 0 { WeightHandle.none with state := .ready, places := weights, skim := true } }
  let s := s.zeroCounts n g
  s.peakSlots

/-- The collective groups of the other slots that hold an image (08:Table 8.11, GROUPS). -/
def State.groupsHeld (s : State) (n : Nat) : Nat :=
  (((List.range 8).filter (fun m => m != n)).map (fun m => (s.slot m).image.elim 0 (fun g => g.colls.length))).sum

/-- CELLS, SILL, MEMORY and ROUTES of an image: its inputs to placement (08:R218). -/
def Raw.placeKey (r : Raw) : List Nat := [0x0010, 0x0011, 0x0015, 0x0014].map (fun t => leNat (r.body t))

/-- The checks of a load in ascending order of REASON, and what follows from them (08:R222). -/
def State.checkLoad (s : State) (n : Nat) : State :=
  let addr := s.ctx.curAddr.toNat
  let len := s.ctx.curLen.toNat
  let refuse (s : State) (reason sec rec : Nat) : State := (s.modSlot n (fun sl => { sl with state := .empty })).loadReport (some n) reason sec rec
  if addr % 4096 ≠ 0 ∨ 2 ^ 34 < len ∨ !validRange addr len then refuse s 0x03 0 0 else
  let x := s.readRange (controlReader (some n)) addr len
  let s := x.1
  let r := rawOf x.2.1
  if !r.formatOk len then refuse s 0x03 0 0 else
  let digest := r.programDigest
  if BitVec.ofNat 512 (bits r.head 1023 512) ≠ digest then refuse s 0x04 0 0 else
  let g := r.image
  if 1 < g.minLevel then refuse s 0x05 0 0 else
  match r.firstBreach g with
  | some b => refuse s 0x06 b.1 b.2
  | none =>
    if (g.compat && decide (1 < g.modules)) || (decide (1 < g.modules) && s.node == unassigned) then refuse s 0x07 0 0 else
    match g.sill.findIdx? (fun y => y == s.node) with
    | none => refuse s 0x07 0 0
    | some pos =>
      let s := if (List.range 8).any (fun m => m != n && s.isLoaded m) then s else s.rotate
      let s := s.formRoster.noSpareEvents
      match s.placement g r.placeKey pos with
      | .refused reason => refuse s reason 0 0
      | .ok p table =>
        if 4096 < s.groupsHeld n + g.colls.length then refuse s 0x0B 0 0
        else (s.acceptLoad n r g p table digest).loadReport (some n) 0 0 0

/-- The load in progress completes. -/
def execLoadComplete (s : State) : Result :=
  if s.ctx.busy then
    let s := { s with ctx := { s.ctx with busy := false } }
    match s.loadingSlot with
    | none => .next s
    | some n => .next (s.checkLoad n)
  else .next s

/-! ## Run target (08:R227) -/

/-- The slot that CTX_RUN names: values 8 to 15 name none. -/
def State.runTarget (s : State) : Option Nat := if s.ctx.target.toNat < 8 then some s.ctx.target.toNat else none

/-- The event of a target that is not IDLE when it is due to start. -/
def State.targetEvent (s : State) (n : Nat) : State :=
  s.post 0x1003 (srcSlot n) (some n) (payload [(0, 1, n), (1, 1, slotCode (s.slot n).state)])

def State.writeRun (s : State) (v : Word) : State :=
  let s := { s with ctx := { s.ctx with target := v.extractLsb' 0 4 } }
  match s.runTarget with
  | none => s
  | some n =>
    if s.sch.exec.isSome then s
    else if (s.slot n).state = .idle then s.beginExit 0x1FF
    else s.targetEvent n

def execCtxRunWrite (m : Master) (value : Word) (s : State) : Result := .next (s.command m (ctxOffset + 0x30) (fun s => s.writeRun value))

/-! ## Export and restore (08:R231) -/

/-- The event of CTX_CMD: accepted, or refused with a cause (14:Table 14.27). -/
def State.cmdDone (s : State) (n cmd : Nat) : State := s.post 0x1004 (srcSlot n) (some n) (payload [(0, 1, cmd), (1, 1, n)])
def State.cmdRefused (s : State) (n cmd cause : Nat) : State := s.post 0x1005 (srcSlot n) (some n) (payload [(0, 1, cmd), (1, 1, n), (2, 1, cause)])

/-- The declared streams in ascending order. -/
def Image.streamsInOrder (g : Image) : List Nat := sortBy (fun a b => decide (a ≤ b)) g.streams

/-- The transfer block of a context. -/
def Slot.exportBlock (sl : Slot) (g : Image) : Bytes :=
  leBytes 64 sl.progDigest.toNat ++ leBytes 16 sl.seed.toNat ++ leBytes 8 sl.step.toNat ++ [if sl.wmode then 1 else 0] ++ List.replicate 7 0 ++
  leBytes 4 g.streams.length ++ List.replicate 4 0 ++
  g.streamsInOrder.flatMap (fun st => leBytes 8 (fld st 16 40 + fld (sget 0 sl.offsets st).toNat 40 0))

/-- Is CTX_XFER_ADDR a place for a block of `len` bytes? -/
def xferOk (a len : Nat) : Bool := a % 256 == 0 && validRange a len

def State.exportSlot (s : State) (n : Nat) : State :=
  let sl := s.slot n
  match sl.state, sl.image with
  | .idle, some g =>
    let b := sl.exportBlock g
    if xferOk sl.xferAddr.toNat b.length && clearOfDump sl.xferAddr.toNat b.length then (s.writeOwn sl.xferAddr.toNat b).cmdDone n 2 else s.cmdRefused n 2 0
  | _, _ => s.cmdRefused n 2 1

def execExportBlock (m : Master) (slot : Fin 8) (s : State) : Result :=
  .next (s.command m (slotOffset slot.val + 8) (fun s => s.exportSlot slot.val))

/-- Why a block is refused, none where it is accepted: causes of 14:Table 14.27 in ascending order. The records may come in any order (04:R120 refuses a stream that is not declared, or one left out; the cause of a stream's RSVD: log entry 119). -/
def Slot.restoreCause (sl : Slot) (g : Image) (b : Bytes) : Option Nat :=
  let at_ (i k : Nat) : Nat := leNat ((b.drop i).take k)
  let n := at_ 96 4
  let recs := recordsOf 8 ((b.drop 104).take (8 * n))
  if at_ 0 64 ≠ sl.progDigest.toNat then some 3
  else if n ≠ g.streams.length ∨ sortBy (fun a b => decide (a ≤ b)) (recs.map (fun x => bits x 55 40)) ≠ g.streamsInOrder ∨ recs.any (fun x => bits x 63 56 != 0) then some 4
  else if at_ 88 1 = 1 ∧ !g.tensors.any (fun t => t.companion != 0) then some 5
  else if 2 ^ 40 ≤ at_ 80 8 ∨ 1 < at_ 88 1 ∨ at_ 89 7 ≠ 0 ∨ at_ 100 4 ≠ 0 then some 6
  else none

/-- The state that an accepted block gives a context. REQUEST of CTX_WMODE takes the block's mode too (log entry 180). -/
def Slot.restored (sl : Slot) (g : Image) (b : Bytes) : Slot :=
  let at_ (i k : Nat) : Nat := leNat ((b.drop i).take k)
  let recs := recordsOf 8 ((b.drop 104).take (8 * at_ 96 4))
  { sl with
    seed := BitVec.ofNat 128 (at_ 64 16), step := BitVec.ofNat 40 (at_ 80 8), wmode := at_ 88 1 == 1, wreq := at_ 88 1 == 1
    offsets := recs.foldl (fun t x => sset 0 t (bits x 55 40) (BitVec.ofNat 40 x)) [], joinDue := decide (1 < g.modules) }

def State.restoreSlot (s : State) (n : Nat) : State :=
  let sl := s.slot n
  match sl.state, sl.image with
  | .idle, some g =>
    if sl.started then s.cmdRefused n 3 2 else
    let len := 104 + 8 * g.streams.length
    if !xferOk sl.xferAddr.toNat len then s.cmdRefused n 3 0 else
    let x := s.readRange (controlReader (some n)) sl.xferAddr.toNat len
    let s := x.1
    if x.2.2 then s.cmdRefused n 3 0 else
    match sl.restoreCause g x.2.1 with
    | some c => s.cmdRefused n 3 c
    | none =>
      let s := s.modSlot n (fun sl => sl.restored g x.2.1)
      let s := sl.place.bindings.foldl (fun s b => s.modCell (cellKey b.die b.cell) (fun c => c.freshCursors n)) s
      (s.zeroCounts n g).cmdDone n 3
  | _, _ => s.cmdRefused n 3 1

def execRestoreBlock (m : Master) (slot : Fin 8) (s : State) : Result :=
  .next (s.command m (slotOffset slot.val + 8) (fun s => s.restoreSlot slot.val))

/-! ## Teardown (08:R233) -/

def msNs : Nat := 1000000

/-- The drain horizon: 2 ms for an image of one module and for a load that is abandoned, 20 ms otherwise. -/
def Slot.horizon (sl : Slot) : Nat :=
  match sl.state, sl.image with
  | .loading, _ => 2 * msNs
  | _, some g => if g.modules = 1 then 2 * msNs else 20 * msNs
  | _, none => 2 * msNs

def State.unloadSlot (s : State) (n : Nat) : State :=
  let sl := s.slot n
  match sl.state with
  | .empty => s
  | .draining => s
  | st =>
    let s := if st = .loading then { s with ctx := { s.ctx with busy := false } } else s
    let s := if st = .active then s.stopExec n else s
    let s := s.abortSlotShards n
    let s := { s with ao := { s.ao with gens := sset 0 s.ao.gens n (s.gen n + 1) } }
    s.modSlot n (fun x => { x with state := .draining, drainAt := s.now + sl.horizon, sillFault := false })

def execUnload (m : Master) (slot : Fin 8) (s : State) : Result :=
  .next (s.command m (slotOffset slot.val + 8) (fun s => s.unloadSlot slot.val))

/-- What a slot leaves in the link dies. -/
def Lnk.without (l : Lnk) (n : Nat) : Lnk :=
  { l with
    slots := l.slots.filter (fun e => !e.2.any (fun v => v.slot.val == n))
    parts := l.parts.filter (fun p => p.slot.val != n), surveys := l.surveys.filter (fun p => p.slot.val != n), asked := l.asked.filter (fun p => p.slot != n) }

/-- The horizon has passed: memory, lay-by slots, groups, epochs and references are released, and the slot is EMPTY. -/
def State.releaseSlot (s : State) (n : Nat) : State :=
  let s := s.setSlot n { Slot.reset with xferAddr := (s.slot n).xferAddr }
  let s := { s with lnk := s.lnk.without n }
  if s.ctx.target.toNat = n then { s with ctx := { s.ctx with target := 0xF } } else s

def execDrainHorizon (slot : Fin 8) (s : State) : Result :=
  if (s.slot slot.val).state = .draining then
    let s := (s.reach (s.slot slot.val).drainAt).releaseSlot slot.val
    .next (s.post 0x1006 (srcSlot slot.val) (some slot.val) (payload [(0, 1, slot.val), (1, 1, (s.gen slot.val).toNat)]))
  else .next s

/-! ## Weight-mode request (05:R149) -/

def execWeightModeRequest (m : Master) (slot : Fin 8) (split : Bool) (s : State) : Result :=
  .next (s.command m (slotOffset slot.val + 0x20) (fun s => s.modSlot slot.val (fun sl => { sl with wreq := split })))

/-! ## Joining the sill group (11:R300) -/

/-- The positions that a member sends its join to: sources towards it and its tree neighbours. -/
def Image.joinTo (g : Image) (pos : Nat) : List Nat :=
  (((g.linkRoutes.filter (fun r => r.dst == pos)).map (fun r => r.src) ++ ((g.colls.flatMap g.legs).filter (fun y => y.2 == pos)).map (fun y => y.1) ++
    g.treeNeighbours pos).eraseDups).filter (fun p => p != pos)

/-- The positions whose joins it must hold: those that it sends to and its tree neighbours. -/
def Image.joinFrom (g : Image) (pos : Nat) : List Nat :=
  (((g.linkRoutes.filter (fun r => r.src == pos)).map (fun r => r.dst) ++ ((g.colls.flatMap g.legs).filter (fun y => y.1 == pos)).map (fun y => y.2) ++
    g.treeNeighbours pos).eraseDups).filter (fun p => p != pos)

/-- Sends the joins that are due. -/
def State.sendJoins (s : State) (n : Nat) (g : Image) : State :=
  if !(s.slot n).joinDue then s else
  let sl := s.slot n
  let pos := s.position n
  let gen := s.gen n
  let s := s.modSlot n (fun sl => { sl with joinDue := false })
  (g.joinTo pos).foldl (fun s p => s.sendNode (g.nodeAt p) (.join (BitVec.ofNat 16 pos) s.lnk.node (BitVec.ofNat 3 n) gen (sl.structDigest.extractLsb' 0 64))) s

/-- Does a context hold every join that its first step needs? -/
def State.joined (s : State) (n : Nat) (g : Image) : Bool :=
  decide (g.modules ≤ 1) || (g.joinFrom (s.position n)).all (fun p => ((s.slot n).joinOf p).isSome)

/-! ## The start of a step -/

/-- The ranges of device memory that a context uses now. -/
def State.rangesInUse (s : State) (n : Nat) : List StackRange :=
  let sl := s.slot n
  sl.place.ranges ++ (sget .none sl.epochs sl.epochCur.toNat).ranges ++ (if sl.baseCur = 7 then [] else (sget .none s.wld.bases sl.baseCur.toNat).ranges)

/-- Every working cell of a context's regions is zero (09:R251). -/
def State.zeroWork (s : State) (n : Nat) : State :=
  match (s.slot n).image with
  | none => s
  | some g => g.regions.foldl (fun s r => match s.placeOf n r.tensor with
      | none => s
      | some p => p.stks.foldl (fun s k =>
          let a := k * stackBytes + p.workBase
          s.zeroRange a (a + ceilDiv p.blocks (max 1 p.stks.length) * g.workBytes r.tensor)) s) s

/-- The step begins: regions open with zero cells and counts (09:R251), cursors are 0 (10:R276), nothing of an earlier step stands. -/
def State.openStep (s : State) (n : Nat) : State :=
  let began := (s.slot n).started
  let s := s.modSlot n (fun sl => { sl with
    state := .active, started := true, digests := [], regionStep := [], closed := [], losses := [], opEvents := [], doneRecs := [] })
  let s := match (s.slot n).image with
    | some g => s.digestHeld n g none
    | none => s
  let s := s.zeroWork n
  let s := s.setNumSlot n { s.numSlot n with current := .zero }
  let fresh := !began
  let step := (s.slot n).step
  let s := (s.slot n).place.bindings.foldl (fun s b => s.modCell (cellKey b.die b.cell) (fun c =>
    let c := { c.freshCursors n with worked := false }
    if fresh then { c with clean := sset (0, 0) c.clean n (step.toNat, 0) } else c)) s
  let s := s.cells.foldl (fun s c =>
    if (s.slot n).place.bindings.any (fun b => cellKey b.die b.cell == c.1) ∨ s.tst.running ≠ [] then s else s.modCell c.1 (fun c => { c with power := 0 })) s
  { s with sch := { s.sch with
      exec := some ⟨n % 8, Nat.mod_lt _ (by decide)⟩, begun := true, state := .boundary, pound := 0, tickIn := 0, phase := 0, phaseOpen := false
      boundaryMs := 0 } }

/-- The start of a context's step, where all its conditions hold; otherwise the slot stays as it is (08:R227, 12:R320, 11:R300, 09:R247). -/
def State.startStep (s : State) (n : Nat) (g : Image) : State :=
  if (s.rangesInUse n).any (fun r => !(s.stack r.stack).inService) then s.faultSlot n else
  let x := if (s.slot n).rebind then s.rebindSlot n else (s, true)
  if !x.2 then x.1 else
  let s := x.1
  let first := !(s.slot n).started
  let step := (s.slot n).step.toNat
  let s := if first then s.weightSwitch n g step else s
  if !s.rootOk n g then s else
  let s := s.sendJoins n g
  if first && !s.joined n g then s else
  let s := s.openStep n
  if first then s.budgetCheck n else s

/-- The slot whose step is due: the executing context at its boundary, or the run target when no context executes. -/
def State.dueSlot (s : State) : Option Nat :=
  match s.sch.exec with
  | some n => if s.sch.state = .boundary ∧ s.sch.begun = false then some n.val else none
  | none => match s.runTarget with
    | some n => if (s.slot n).state = .idle then some n else none
    | none => none

def execStepStart (s : State) : Result :=
  if s.running ∧ s.pwr.state = .a0 ∧ s.pwr.trans = none ∧ s.tst.running.all (fun j => !j.overdue) = true then
    match s.dueSlot with
    | none => .next s
    | some n => match (s.slot n).image with
      | none => .next s
      | some g => .next (s.startStep n g)
  else .next s

end Sys2Proof.Machine
end

