-- ==== Sys2Proof/Machine/Resets.lean ====
section
/-! DEFINITION. Reset levels 1 to 4, the scratchpad sample, what resets do to contexts and what survives them, power-on reset (13:R335, R343 to R353). -/

namespace Sys2Proof.Machine

open Sys2Proof

def fltOffset : Nat := 0x90000

/-! ## What a reset leaves of a cell (13:Table 13.5) -/

/-- A cell held in reset: its role, SUSPECT and DIE counters stay, the scratchpad is zero with valid check bits. -/
def Cell.kept (c : Cell) : Cell :=
  { Cell.reset with
    role := c.role, suspect := c.suspect, auditTiles := c.auditTiles, auditFail := c.auditFail, auditSkip := c.auditSkip
    vecDupFail := c.vecDupFail, sparseMetaErr := c.sparseMetaErr, surveyErr := c.surveyErr, towFail := c.towFail, towStale := c.towStale
    dmaRefused := c.dmaRefused, dmaLast := c.dmaLast, dmaBursts := c.dmaBursts, spadCe := c.spadCe, spadUe := c.spadUe
    workedPhases := c.workedPhases }

/-- Level 1 keeps the snag list too. -/
def Cell.level1 (c : Cell) : Cell :=
  { c.kept with
    snags := c.snags, snagOverflow := c.snagOverflow, snagIncomplete := c.snagIncomplete, clean := c.clean, late := c.late }

/-- A reset of the die clears counters, SUSPECT and the snag list; a list with entries makes the next report INCOMPLETE (13:R338). -/
def Cell.level2 (c : Cell) : Cell :=
  { Cell.reset with
    role := c.role, snagIncomplete := c.snagIncomplete || !c.snags.isEmpty, clean := c.clean }

/-! ## Bookkeeping and events (13:R344) -/

/-- A reset event: level, die, cell for level 1, the level started next (14:Table 14.27). -/
def State.resetEvent (s : State) (code level die cell next : Nat) : State :=
  s.post code srcFault none (payload [(0, 1, level), (1, 1, die), (2, 1, if level = 1 then cell else 0xFF), (3, 1, next)])

def State.findReset (s : State) (level die cell : Nat) : Option ResetJob :=
  s.flt.resets.find? (fun j => j.level == level && j.die == die && (level != 1 || j.cell == cell))

/-- A reset starts: BUSY, its level, die and cell, event 0x5010. -/
def State.startReset (s : State) (level die cell : Nat) (returning : Bool) : State :=
  let s := s.resetEvent 0x5010 level die cell 0
  { s with flt := { s.flt with
      resets := s.flt.resets ++ [⟨level, die, cell, returning, false, [], []⟩], level := BitVec.ofNat 3 level, die := BitVec.ofNat 5 die
      cell := if level = 1 then BitVec.ofNat 7 cell else 0 } }

def State.markAsserted (s : State) (level die cell : Nat) : State :=
  { s with flt := { s.flt with
      resets := s.flt.resets.map (fun j => if j.level = level ∧ j.die = die ∧ (level ≠ 1 ∨ j.cell = cell) then { j with asserted := true } else j) } }

/-! ## Level 1: one cell (13:R346) -/

/-- The slot and the logical cell that a cell is bound to: of the executing context, else of the lowest slot. -/
def State.boundTo (s : State) (key : Nat) : Option (Nat × Nat) :=
  let hit (n : Nat) : Option (Nat × Nat) :=
    if s.isLoaded n then ((s.slot n).place.bindings.find? (fun b => cellKey b.die b.cell == key)).map (fun b => (n, b.logical)) else none
  (s.sch.exec.bind (fun n => hit n.val)).orElse (fun _ => (List.range 8).findSome? hit)

/-- Bytes that no rule gives, between the header of a dump record and page 1. -/
def State.gap (s : State) (n : Nat) : State × Bytes :=
  ({ s with fresh := s.fresh + n }, (List.range n).map (fun i => Config.dumpPad (s.fresh + i)))

/-- The sampled pages of a scratchpad, as stored with the check bits applied (13:R349). -/
def Cell.sampleBytes (c : Cell) (pages : Nat) : Bytes := (List.range pages).flatMap (fun k => c.bytes (16 * k * 4096) 4096)

/-- The uncorrectable words in the sampled pages. -/
def Cell.sampleErrors (c : Cell) (pages : Nat) : Nat :=
  c.spadErr.countP (fun e => decide (e.1 / 512 % 16 = 0 ∧ e.1 / 512 / 16 < pages ∧ spadWordState e.2 = 2))

/-- The scratchpad sample: a dump record of type 2, where the dump region is present. -/
def State.sample (s : State) (key pages : Nat) (part : Bool) : State :=
  if !s.dumpPresent then s else
  let c := s.cell key
  let b := s.boundTo key
  let g := s.gap 4032
  let param := bitN part * 2 ^ 255 + fld (c.sampleErrors pages) 31 224 + fld (b.elim 0 (·.2)) 32 192
  g.1.writeDump ⟨2, param, s.stepNow, s.sch.pound, b.map (·.1), some (key / 68, key % 68)⟩ (g.2 ++ c.sampleBytes pages)

/-- A context that a reset faults, with its event (14:Table 14.16, 0x1009). -/
def State.faultedByReset (s : State) (n die : Nat) : State :=
  match (s.slot n).state with
  | .idle => (s.faultSlot n).post 0x1009 (srcSlot n) (some n) (payload [(0, 1, n), (1, 1, 2), (2, 1, die)])
  | .active => (s.faultSlot n).post 0x1009 (srcSlot n) (some n) (payload [(0, 1, n), (1, 1, 2), (2, 1, die)])
  | _ => s

/-- Contexts whose cells a test picks: an ACTIVE one faults (13:R347). -/
def State.faultBound (s : State) (die : Nat) (on : Nat → Bool) : State :=
  (List.range 8).foldl (fun s n =>
    if (s.slot n).state = .active ∧ (s.slot n).place.bindings.any (fun b => on (cellKey b.die b.cell)) then s.faultedByReset n die else s) s

/-- A level-1 reset starts: the cell's planks close. -/
def State.startCell (s : State) (key : Nat) (returning : Bool) : State :=
  (s.startReset 1 (key / 68) (key % 68) returning).modCell key (fun c => { c with inReset := true })

/-- The reads of a cell that have not returned: what they bring arrives at a closed plank (13:R345). -/
def Cell.reading (c : Cell) : Nat := c.layby.countP (fun e => e.2.any (fun b => b.data.isNone))

/-- The returns that a reset cuts off are dropped and counted. -/
def State.cutReads (s : State) (key : Nat) : State := s.plankDrop (s.cell key).reading

/-- The sample is taken where the die runs, reset is asserted and the scratchpad zero-filled. -/
def State.assertCell (s : State) (key pages : Nat) (part : Bool) : State :=
  let s := if s.dieState (key / 68) = 0 then s.sample key pages part else s
  ((s.cutReads key).modCell key Cell.level1).markAsserted 1 (key / 68) (key % 68)

/-- A level-1 reset of a cell whose die runs. One that has started already goes on. -/
def execCellReset (die : Fin 16) (cell : Fin 68) (s : State) : Result :=
  let key := cellKey die.val cell.val
  match s.findReset 1 die.val cell.val with
  | some j => .next (if j.asserted then s else s.assertCell key 64 false)
  | none => if s.dieState die.val ≠ 0 then .next s else .next (((s.faultBound die.val (fun k => k == key)).startCell key false).assertCell key 64 false)

/-! ## Level 2: one die (13:R346, R347) -/

/-- Does a context have memory on a stack? -/
def State.onStack (s : State) (n k : Nat) : Bool := (s.rangesInUse n).any (fun r => r.stack == k)

/-- Loaded contexts with memory on a stack that is lost or leaves service become FAULTED. -/
def State.stackLost (s : State) (k : Nat) : State :=
  (List.range 8).foldl (fun s n => if s.onStack n k then s.faultedByReset n (16 + k) else s) s

/-- The effect on contexts of a reset of a die at levels 2 and 3. -/
def State.dieContexts (s : State) (die : Nat) : State :=
  if die < 16 then
    let s := s.faultBound die (fun k => k / 68 == die)
    (List.range 8).foldl (fun s n =>
      if (s.slot n).state = .idle ∧ (s.slot n).place.bindings.any (fun b => b.die == die) then s.modSlot n (fun sl => { sl with rebind := true }) else s) s
  else if die < 24 then
    (List.range 8).foldl (fun s n => if (s.slot n).state = .active ∧ s.onStack n (die - 16) then s.faultedByReset n die else s) s
  else
    (List.range 8).foldl (fun s n =>
      if (s.slot n).place.homes.any (fun h => h.die == die - 24 && !h.slots.isEmpty) then s.faultedByReset n die else s) s

/-- The cells of a die changed. -/
def State.dieCells (s : State) (die : Nat) (f : Nat → Cell → Cell) : State :=
  (List.range 68).foldl (fun s c => s.modCell (cellKey die c) (f (cellKey die c))) s

/-- A level-2 reset starts: every plank of the die closes. A die that is off or has failed at start-up stays as it is (log entry 86). -/
def State.startDie (s : State) (die : Nat) : State :=
  let s := (s.dieContexts die).startReset 2 die 0 false
  if 2 ≤ s.dieState die then s else
  let s := s.setDieState die 1
  if die < 16 then s.dieCells die (fun _ c => { c with inReset := true }) else s

/-- What a link die loses when it is reset, and its ports' way back. -/
def State.resetPorts (s : State) (die : Nat) (st : PortState) : State :=
  let s := (List.range 6).foldl (fun s i => s.modPort ((die - 24) * 6 + i) (fun p =>
    let p := p.to (if p.ctlEnable then st else .disabled)
    { p with lanesUp := 0, lanesOk := 0, partner := 0, nextSeq := 1, lastSeq := 0, early := [], replay := [], trips := [], fails := [], held := false })) s
  let slots := s.lnk.slots.filter (fun e => decide (slotDie e.1 ≠ die - 24))
  State.rebuild { s with lnk := { s.lnk with slots := slots } }

/-- The samples of a die's bound and SUSPECT cells, one after another. One that its 200 µs have cut short has its first pages (`cuts`). Where the 5 ms for them all end, the sample in progress has its first pages and the later cells have none (`stop`). -/
def State.sampleDie (s : State) (die : Nat) (cuts : List (Nat × Nat)) (stop : Option (Nat × Nat)) : State :=
  let keys := ((List.range 68).map (cellKey die)).filter (fun k => ((s.boundTo k).isSome || (s.cell k).suspect) && stop.all (fun y => decide (k ≤ y.1)))
  keys.foldl (fun s k =>
    match (cuts ++ stop.toList).find? (fun y => y.1 == k) with
    | none => s.sample k 64 false
    | some y => s.sample k y.2 true) s

/-- A level-2 reset that is in progress. -/
def State.modReset2 (s : State) (die : Nat) (f : ResetJob → ResetJob) : State :=
  { s with flt := { s.flt with resets := s.flt.resets.map (fun j => if j.level = 2 ∧ j.die = die then f j else j) } }

/-- The die is reset, where its reset holds it: samples of the bound and SUSPECT cells, self-refresh of a stack or the loss of its contents, the ports of a link die from DETECT. -/
def State.assertDie (s : State) (die : Nat) (selfRefresh : Bool) (stop : Option (Nat × Nat)) : State :=
  let s :=
    if s.dieState die ≠ 1 ∨ s.running = false then s
    else if die < 16 then
      let s := s.sampleDie die ((s.findReset 2 die 0).elim [] (·.cuts)) stop
      (((List.range 68).map (cellKey die)).foldl State.cutReads s).dieCells die (fun _ c => c.level2)
    else if die < 24 then
      let k := die - 16
      let s := s.modStack k (fun t => { t with trained := false, selfRefresh := selfRefresh, queue := [] })
      if selfRefresh then s
      else (s.stackLost k).zeroStack k
    else s.resetPorts die .detect
  s.markAsserted 2 die 0

/-- The port has delivered only the first pages of a cell's sample: 200 µs after it began, or at the end of the 5 ms that a reset of its die gives to all its samples. The samples of the later cells follow one that its 200 µs have cut short. -/
def execSampleTimeout (die : Fin 16) (cell : Fin 68) (stop : SampleEnd) (s : State) : Result :=
  let key := cellKey die.val cell.val
  let pages := min stop.pages 63
  match s.findReset 1 die.val cell.val, s.findReset 2 die.val 0 with
  | some j, _ => if j.asserted then .next s else .next (s.assertCell key pages true)
  | none, some j =>
    if j.asserted then .next s
    else if stop.dieLimit then .next (s.assertDie die.val true (some (key, pages)))
    else .next (s.modReset2 die.val (fun j => { j with cuts := j.cuts.filter (fun y => y.1 != key) ++ [(key, pages)] }))
  | none, none => .next s

/-- The reset of a die is asserted, with what the training after it will find. -/
def State.resetDie (s : State) (die : Nat) (found : BaseDieFindings) : State :=
  (s.assertDie die found.selfRefresh none).modReset2 die (fun j => { j with lanes := found.lanes.map (fun x => (x.1.val, x.2)) })

def execDieReset (die : Fin 32) (found : BaseDieFindings) (s : State) : Result :=
  if 30 ≤ die.val then .next s else
  match s.findReset 2 die.val 0 with
  | some j => .next (if j.asserted then s else s.resetDie die.val found)
  | none => if s.dieState die.val = 0 then .next ((s.startDie die.val).resetDie die.val found) else .next s

/-! ## Level 3: the rail of one die (13:R346) -/

/-- A stack in service leaves it: event 0x3004 (09:R247). -/
def State.leaves (s : State) (k : Nat) : State :=
  if (s.stack k).inService then (s.modStack k (fun t => { t with inService := false, dump := false })).post 0x3004 (srcStack k) none (payload [(0, 1, k)]) else s

/-- The die is off until the next power-on reset; its cells, its stack or its ports are out of service, and the readings of its sensors, unpowered, are invalid (16:R422). -/
def State.dieOff (s : State) (die : Nat) : State :=
  let s := ((s.dieContexts die).startReset 3 die 0 false).setDieState die 2
  let s : State := { s with pwr := { s.pwr with sensors := s.pwr.sensors.filter (fun x => x.1 != die && !(x.1 == die + 16 && decide (16 ≤ die ∧ die < 24))) } }
  let s :=
    if die < 16 then (((List.range 68).map (cellKey die)).foldl State.cutReads s).dieCells die (fun _ c => { c.level2 with role := .out })
    else if die < 24 then
      let k := die - 16
      ((s.stackLost k).leaves k).modStack k (fun t => { t with
        inService := false, trained := false, dump := false, selfRefresh := false, hot := false, queue := [], gens := [] })
    else s.resetPorts die .disabled
  s.markAsserted 3 die 0

def execRailOff (die : Fin 32) (s : State) : Result :=
  if 30 ≤ die.val ∨ s.dieState die.val = 2 ∨ !s.running then .next s else .next (s.dieOff die.val)

/-! ## Level 4: warm reset (13:R348, R353) -/

/-- A stack across a warm reset: RWS fields, counters and the last error stay (09:R258); a halved sweep period does not (log entry 182). -/
def Stack.warm (t : Stack) : Stack :=
  { Stack.reset with
    selfRefresh := t.trained || t.selfRefresh, ce := t.ce, ue := t.ue, lastErr := t.lastErr, periodH := t.periodH, thresh := t.thresh
    sweeps := t.sweeps, rfm := t.rfm, addRetired := t.addRetired, addPeak := t.addPeak }

def Port.warm (p : Port) : Port :=
  { Port.reset with
    ctlEnable := p.ctlEnable, maxWidth := p.maxWidth, retry := p.retry, fecCorr := p.fecCorr, fecUncorr := p.fecUncorr
    downs := (p.to .disabled).downs }

def Lnk.warm (l : Lnk) (quiet : Nat) : Lnk :=
  { Lnk.reset with
    node := l.node, budgetId := l.budgetId, budgetKind := l.budgetKind, budgetDeficit := l.budgetDeficit, lostValid := l.lostValid
    lostPosition := l.lostPosition, lostNode := l.lostNode, innetWords := l.innetWords, laybyPeak := l.laybyPeak
    ports := smap .reset Port.warm l.ports, quietUntil := quiet }

def Own.warm (o : Own) : Own :=
  { Own.reset with
    epoch := if o.owner = none then o.epoch else o.epoch + 1, peerNode := o.peerNode, pcieReset := o.pcieReset, allowPeer := o.allowPeer
    allowHost := o.allowHost, droppedHost := o.droppedHost, droppedMc := o.droppedMc, droppedPeer := o.droppedPeer, dropLast := o.dropLast }

def Evt.warm (e : Evt) : Evt :=
  { Evt.reset with
    coalesced := e.coalesced, masked := e.masked, overflows := e.overflows, sbEnable := e.sbEnable, sbActiveLow := e.sbActiveLow
    wakeEn := e.wakeEn, wakeSrc := e.wakeSrc }

def Pwr.warm (p : Pwr) : Pwr :=
  { Pwr.reset with
    aoCmp := p.aoCmp, outletLim := p.outletLim, inletLim := p.inletLim, cmpEn := p.cmpEn, sigdet := p.sigdet, wakeFrom := p.wakeFrom
    wakeSource := p.wakeSource, wakeUs := p.wakeUs, starts := p.starts, halvings := p.halvings }

def Sch.warm (c : Sch) : Sch :=
  { Sch.reset with
    tick := c.tick, holdMem := c.holdMem, holdLink := c.holdLink, holdThermal := c.holdThermal, holdPower := c.holdPower
    holdSill := c.holdSill, holdNs := c.holdNs, stretch := c.stretch, longest := c.longest }

/-- The lifecycle as fused (15:R393). -/
def Fuses.life (f : Fuses) : BitVec 2 := if f.ret then 2 else if f.field then 1 else 0

def Sec.warm (c : Sec) (f : Fuses) : Sec :=
  { Sec.reset with reportSeq := c.reportSeq, fwFails := c.fwFails, seedLock := c.seedLock, life := f.life }

def Tst.warm (t : Tst) : Tst := { Tst.reset with runs := t.runs, fails := t.fails, forced := t.forced }

/-- The dies whose rail is off stay off; the others are held in reset until start-up. -/
def warmDies (d : Word) : Word :=
  BitVec.ofNat 64 ((List.range 30).foldl (fun a k => a + (if bits d.toNat (2 * k + 1) (2 * k) = 2 then 2 else 1) * 4 ^ k) 0)

def Flt.warm (f : Flt) : Flt :=
  { Flt.reset with
    dieState := warmDies f.dieState, wdtMs := f.wdtMs, nextPage := f.nextPage, dumpSeq := f.dumpSeq, shadowPass := f.shadowPass
    shadowMismatch := f.shadowMismatch, shadowLate := f.shadowLate, shadowNoSpare := f.shadowNoSpare, hangs := f.hangs
    plankDrops := f.plankDrops, staleMem := f.staleMem, staleLink := f.staleLink, towFail := f.towFail }

def Flight.size (f : Flight) : Nat := f.barges.length + f.parts.length + f.bursts.length + f.transfers.length

/-- The state of FLT_LAST_RESET (13:Table 13.10). -/
def AlwaysOn.note (a : AlwaysOn) (kind cause : Nat) : AlwaysOn :=
  { a with resetKind := BitVec.ofNat 4 kind, resetCause := BitVec.ofNat 8 cause, resetUs := BitVec.ofNat 52 (a.time.toNat / 1000) }

/-- A warm reset ends A1, A2 or A3: the change to A0 is posted, with a free cause (16:R413; log entry 196). -/
def State.powerEnds (s : State) : State :=
  if s.pwr.state = .a0 then s
  else
    let x := s.draw
    x.1.stateChanged ⟨s.pwr.state, .a0, x.2.setWidth 9⟩

/-- What a warm reset leaves: traffic in flight is dropped at the closed planks, every stack in service is in self-refresh, every slot is EMPTY and the boot ROM starts. -/
def State.warmed (s : State) (cause : Nat) : State :=
  let s := s.powerEnds
  let s := s.plankDrop (s.flight.size + (s.cells.map (fun c => c.2.reading)).sum)
  { s with
    ao := s.ao.note 1 cause, sec := s.sec.warm s.fuses, tst := s.tst.warm, own := s.own.warm, evt := s.evt.warm, pwr := s.pwr.warm
    glb := { Glb.reset with badAccess := s.glb.badAccess, badLast := s.glb.badLast }
    ctx := .reset, sch := s.sch.warm, num := .reset, wld := .reset, flt := s.flt.warm, stks := smap .reset Stack.warm s.stks
    lnk := s.lnk.warm (s.now + 20 * msNs), cells := smap .reset Cell.kept s.cells, flight := .none }

/-- The start or the end of a reset that is none of 13:Table 13.3, a warm reset by PCIe or a power-on reset, goes into the error log alone (13:R352; its record: log entry 88). -/
def State.logReset (s : State) (code die : Nat) : State :=
  s.logRecord (s.eventRecord code srcFault none (severity code) (payload [(0, 1, 0), (1, 1, die), (2, 1, 0xFF)]))

/-- A warm reset. One that a PCIe reset starts (CAUSE 5) is not among the resets of 13:Table 13.3: it goes into the error log alone; any other is a level-4 reset: its event is logged, then the module is reset. -/
def State.warmReset (s : State) (cause die : Nat) : State :=
  if !s.ao.railsOn then s
  else if cause = 5 then (s.logReset 0x5010 31).warmed cause
  else
  let s := (s.resetEvent 0x5010 4 die 0 0).warmed cause
  { s with flt := { s.flt with resets := [⟨4, die, 0, false, true, [], []⟩], level := 4, die := BitVec.ofNat 5 die } }

def execWarmReset (cause : BitVec 8) (s : State) : Result := .next (s.warmReset cause.toNat 0)

/-- PERIOD_MS in force (13:Table 13.11). -/
def Flt.periodMs (f : Flt) : Nat := min 10000 (max 100 f.wdtMs.toNat)

/-- The watchdog has not been restarted for PERIOD_MS; a reset restarts it, so AO time is past the last one by at least that. In A3 it is paused (16:R413), and in WAIT and FAILED the ROM keeps it restarted (15:R388). -/
def execWatchdogExpiry (s : State) : Result :=
  if s.pwr.state = .a3 ∨ s.sec.boot = .wait ∨ s.sec.boot = .failed ∨ s.ao.railsOn = false then .next s
  else .next ((s.reach (s.ao.resetUs.toNat * 1000 + s.flt.periodMs * msNs)).warmReset 1 30)

/-- The host die has stopped answering. -/
def execHeartbeatLoss (s : State) : Result := if s.pwr.state = .a3 then .next s else .next (s.warmReset 3 31)

def execUncorrectableInternalError (hostDie : Bool) (s : State) : Result := .next (s.warmReset 3 (if hostDie then 31 else 30))

/-! ## Power-on reset (13:R348) -/

/-- The main domains start: all but the always-on domain, the fuses, and the model's own queue and counters is at its reset value. The start of the reset goes into the error log. -/
def State.poweredOn (s : State) (kind cause : Nat) : State :=
  let s := s.logReset 0x5010 30
  { State.reset with
    pending := s.pending, out := .mainGood true :: s.out, fresh := s.fresh, fuses := s.fuses, sec := { Sec.reset with life := s.fuses.life }
    ao := { s.ao.note kind cause with railsOn := true, tripLatched := false, inputFell := false } }

/-- The main domains lose power. The RWS fields that the always-on domain goes on reading stay until a power-on reset (00:R10). -/
def State.mainOff (s : State) : State :=
  { State.reset with
    pending := s.pending, out := .mainGood false :: s.out, fresh := s.fresh, fuses := s.fuses, sec := { Sec.reset with life := s.fuses.life }
    ao := { s.ao with railsOn := false }, pwr := s.pwr.warm, evt := s.evt.warm }

def State.sensor (s : State) (n : Nat) : Reading := sget ⟨false, 0⟩ s.pwr.sensors n

/-- A valid reading as a number. -/
def Reading.int (r : Reading) : Option Int := if r.valid then some r.value.toInt else none

/-- Has the main input returned into range, as far as comparator 0 and the reading of sensor 42 tell (16:R419)? -/
def State.inputGood (s : State) : Bool :=
  !s.ao.cmpActive.getLsbD 0 && (s.sensor 42).int.all (fun v => decide (47000 ≤ v ∧ v ≤ 58500))

/-- May the main rails, which are off, be switched on (16:R419, R425)? -/
def State.mayPower (s : State) : Bool := !s.ao.railsOn && s.ao.aoPower && s.inputGood && (!s.ao.tripLatched || s.ao.inputFell)

def execPowerOnReset (s : State) : Result := if s.mayPower then .next (s.poweredOn 3 6) else .next s

/-- The watchdog cuts every main rail for 1 s and restores them, where the main input allows it: a power-on reset that FLT_LAST_RESET names a warm reset followed by a power cut. A level-4 reset escalates. -/
def State.powerCut (s : State) (die : Nat) : State :=
  let s := if s.flt.resets.any (fun j => j.level == 4) then s.resetEvent 0x5012 4 die 0 0 else s
  let s := s.mainOff
  let s := s.setTime (s.now + 1000 * msNs)
  if s.mayPower then s.poweredOn 2 s.ao.resetCause.toNat else s

/-- The boot ROM has not signalled its start within 100 ms of a warm reset. -/
def execBootStartTimeout (s : State) : Result :=
  if s.ao.railsOn ∧ s.sec.boot = .rom ∧ s.ao.resetKind = 1 then
    .next (s.powerCut ((s.flt.resets.find? (fun j => j.level == 4)).elim 0 (fun j => j.die)))
  else .next s

/-! ## Completion and escalation (13:R344) -/

/-- A cell comes back from level 1: one that is out of service stays held, unless it returns to service. -/
def State.releaseCell (s : State) (key : Nat) (returning : Bool) : State :=
  if returning then
    let s := { s with ao := { s.ao with oos := s.ao.oos.filter (fun k => k != key) } }
    s.modCell key (fun c => { c with role := .spare, inReset := false, snags := [], snagOverflow := false, snagIncomplete := false })
  else if s.ao.oos.contains key ∨ s.dieState (key / 68) ≠ 0 then s
  else s.modCell key (fun c => { c with inReset := false })

/-- A die comes back from level 2, where its reset held it; the training of a stack finds the given failed lanes. -/
def State.releaseDie (s : State) (die : Nat) (lanes : List (Nat × Nat)) : State :=
  if s.dieState die ≠ 1 ∨ s.running = false then s else
  let s := s.setDieState die 0
  if die < 16 then s.dieCells die (fun k c => { c with inReset := s.ao.oos.contains k })
  else if die < 24 then s.trainStack (die - 16) true lanes
  else s

/-- The oldest reset in progress completes. -/
def State.completeReset (s : State) : State :=
  match s.flt.resets with
  | [] => s
  | j :: rest =>
    let key := cellKey j.die j.cell
    let s := match j.level with
      | 1 => (if j.asserted then s else s.assertCell key 64 false).releaseCell key j.returning
      | 2 => (if j.asserted then s else s.assertDie j.die true none).releaseDie j.die j.lanes
      | _ => s
    State.resetEvent { s with flt := { s.flt with resets := rest, result := 0 } } 0x5011 j.level j.die j.cell 0

def execResetComplete (s : State) : Result := .next s.completeReset

/-- The oldest reset in progress passes its timeout: the next level starts on the domain that encloses it. -/
def State.escalate (s : State) : State :=
  match s.flt.resets with
  | [] => s
  | j :: rest =>
    if j.level = 4 then s.powerCut j.die else
    let s := State.resetEvent { s with flt := { s.flt with resets := rest, result := 1 } } 0x5012 j.level j.die j.cell (j.level + 1)
    match j.level with
    | 1 => s.startDie j.die
    | 2 => s.dieOff j.die
    | _ => s.warmReset 2 j.die

def execResetTimeout (s : State) : Result := .next s.escalate

/-! ## FLT_RESET_CMD, FLT_CELL_RETURN, FLT_LOG_CLEAR (13:Tables 13.8, 13.12, 13.6) -/

/-- A write of FLT_RESET_CMD: only the values and combinations that 13:Table 13.8 excludes are refused (log entry 86). -/
def State.resetCmd (s : State) (v : Word) : State :=
  let level := (v.extractLsb' 0 3).toNat
  let die := (v.extractLsb' 3 5).toNat
  let cell := (v.extractLsb' 8 7).toNat
  let refuse : State := { s with flt := { s.flt with result := 2 } }
  match level with
  | 1 => if die < 16 ∧ cell < 68 then (s.faultBound die (fun k => k == cellKey die cell)).startCell (cellKey die cell) false else refuse
  | 2 => if die < 30 then s.startDie die else refuse
  | 3 => if die < 30 then s.dieOff die else refuse
  | 4 => s.warmReset 4 die
  | _ => refuse

/-- FLT_CELL_RETURN: accepted for an out-of-service cell whose die is RUNNING. -/
def State.returnCell (s : State) (die cell : Nat) : State :=
  if s.dieState die = 0 ∧ s.ao.oos.contains (cellKey die cell) ∧ cell < 68 then s.startCell (cellKey die cell) true else s

def execCellReturn (m : Master) (die : Fin 16) (cell : BitVec 7) (s : State) : Result :=
  .next (s.command m (fltOffset + 0x28) (fun s => s.returnCell die.val cell.toNat))

/-- The error log is emptied; its count of records ever written stays. -/
def State.logClear (s : State) : State := { s with ao := { s.ao with log := [], logNext := 1 } }

def execLogClear (m : Master) (s : State) : Result := .next (s.command m (fltOffset + 0x68) (fun s => s.logClear))

end Sys2Proof.Machine
end

