-- ==== Sys2Proof/Machine/SelfTest.lean ====
section
/-! DEFINITION. Self-test (15:R399 to R407): test records, units, due and deferred tests, their start and their end, and the tests of a step boundary. -/

namespace Sys2Proof.Machine

open Sys2Proof

def tstOffset : Nat := 0x50000

/-! ## Test records (15:Tables 15.8, 15.9) -/

def testRec (x : Nat) : TestRec :=
  { id := BitVec.ofNat 32 (bits x 287 256), expect := BitVec.ofNat 64 (bits x 511 448), seed := BitVec.ofNat 64 (bits x 447 384)
    count := BitVec.ofNat 32 (bits x 383 352), limit := BitVec.ofNat 32 (bits x 351 320), intervalH := BitVec.ofNat 16 (bits x 319 304)
    stepping := BitVec.ofNat 8 (bits x 303 296), kind := BitVec.ofNat 4 (bits x 295 292), cls := BitVec.ofNat 4 (bits x 291 288) }

/-- Does 15:Table 15.9 pair a KIND with a CLASS? -/
def pairOk (kind cls : Nat) : Bool :=
  match kind with
  | 1 => cls == 1 || cls == 2 || cls == 3 || cls == 9
  | 2 => cls == 1 || cls == 2 || cls == 3 || cls == 8 || cls == 9
  | 3 => cls == 4
  | 4 => cls == 6
  | 5 => cls == 7
  | 6 => cls == 5
  | _ => false

/-- The longest run of a test in ms. -/
def longestMs (kind cls : Nat) : Nat :=
  match kind with
  | 1 => if cls = 1 then 12 else 40
  | 2 => if cls = 1 then 8 else 30
  | 3 => 250
  | 6 => 30
  | _ => 1

/-- The records held: the test table, or those of the boot ROM while the firmware does not run. -/
def State.heldTests (s : State) : List TestRec := if s.running then s.tst.table else Config.romTests.map testRec

def State.testOf (s : State) (id : BitVec 32) : Option TestRec := s.heldTests.find? (fun r => r.id == id)

/-- STEPPING matches GLB_ID, or is any. -/
def State.steppingOk (s : State) (r : TestRec) : Bool := r.stepping == 0xFF || r.stepping == s.fuses.stepMajor ++ s.fuses.stepMinor

/-- Does the unit of a class exist? -/
def unitExists (cls unit cell : Nat) : Bool :=
  match cls with
  | 1 => decide (unit < 16 ∧ cell < 68)
  | 2 => decide (16 ≤ unit ∧ unit < 24)
  | 3 => decide (24 ≤ unit ∧ unit < 30)
  | 4 => decide (unit < 36)
  | 5 => decide (unit < 8)
  | 6 => decide (unit < 17)
  | 7 => decide (unit < 82 ∧ unit ≠ 47)
  | 8 => unit == 31
  | 9 => unit == 30
  | _ => false

/-- May a class run now (15:R388, R401)? -/
def State.classAllowed (s : State) (cls : Nat) : Bool :=
  match s.sec.boot with
  | .running => cls != 6 && cls != 8 && cls != 9
  | .wait => cls == 6 || cls == 8 || (cls == 9 && s.sec.scanEn)
  | .failed => cls == 6 || cls == 8 || (cls == 9 && s.sec.scanEn)
  | _ => false

/-- The die of a unit, numbered as in 13:Table 13.7: of a PLL by 16:Table 16.3, of a sensor by 16:Table 16.6. The input, coolant and rail sensors have no die of their own; the control die's power management takes them (log entry 199). -/
def unitDie (cls unit : Nat) : Nat :=
  match cls with
  | 4 => 24 + unit / 6
  | 5 => 16 + unit
  | 6 => if unit < 2 then 30 else if unit < 16 then 14 + unit else 31
  | 7 => if unit < 32 then unit else if unit < 40 then unit - 16 else 30
  | _ => unit

/-- CELL of a test: it counts for a unit of class 1 alone (15:Table 15.15). -/
def unitCell (cls : Nat) (cell : BitVec 7) : BitVec 7 := if cls = 1 then cell else 0

/-! ## Busy units (15:R404) -/

/-- Does the executing context bind a cell, or does the cell shadow one? -/
def State.cellBusy (s : State) (key : Nat) : Bool :=
  match s.sch.exec with
  | none => false
  | some n => (s.slot n.val).place.bindings.any (fun b => cellKey b.die b.cell == key) || (s.cell key).shadowOf.isSome

def State.unitBusy (s : State) (cls unit cell : Nat) : Bool := if cls = 1 then s.cellBusy (cellKey unit cell) else s.sch.exec.isSome

def State.classOf (s : State) (id : BitVec 32) : Nat := (s.testOf id).elim 0 (fun r => r.cls.toNat)

/-- Is a test in progress on a die? -/
def State.dieTesting (s : State) (die : Nat) : Bool := s.tst.running.any (fun j => unitDie (s.classOf j.id) j.unit.toNat == die)

/-- Does a due test wait: its unit is busy, another test runs on its die, or the module is in A2 or A3, on the way there, or on the way back (log entry 197)? -/
def State.testWaits (s : State) (cls unit cell : Nat) : Bool :=
  s.unitBusy cls unit cell || s.dieTesting (unitDie cls unit) || s.asleep || s.pwr.state == .a2 || s.pwr.state == .a3

/-- Is the unit out of service? -/
def State.unitOut (s : State) (cls unit cell : Nat) : Bool :=
  match cls with
  | 1 => s.ao.oos.contains (cellKey unit cell)
  | 2 => s.dieState unit != 0
  | 3 => s.dieState unit != 0
  | 4 => s.dieState (24 + unit / 6) != 0
  | 5 => !(s.stack unit).inService
  | _ => false

/-! ## Start of a test (15:R402) -/

/-- The unit's planks close; a stack goes into self-refresh first. A cell that is power-gated waits for its start under the start budget (16:R414). -/
def State.isolate (s : State) (cls unit cell : Nat) : State :=
  match cls with
  | 1 => s.modCell (cellKey unit cell) (fun c => { c with inReset := true })
  | 2 => if s.dieState unit = 0 then (s.modStack (unit - 16) (fun t => { t with selfRefresh := true, trained := false })).setDieState unit 1 else s
  | 3 => if s.dieState unit = 0 then (s.resetPorts unit .disabled).setDieState unit 1 else s
  | 4 => s.modPort unit (fun p => p.to .disabled)
  | 5 => s.modStack unit (fun t => { t with closed := true })
  | _ => s

/-- Is a test the one that TST_STATUS shows: the last commanded one (15:R410)? -/
def State.shown (s : State) (j : TestJob) : Bool := j.cmd && s.tst.testId == j.id && s.tst.unit == j.unit && unitCell (s.classOf j.id) s.tst.cell == j.cell

def State.startTest (s : State) (j : TestJob) : State :=
  let cls := s.classOf j.id
  let s := s.isolate cls j.unit.toNat j.cell.toNat
  let busy := s.tst.busy || s.shown j
  let result := if s.shown j then 0 else s.tst.result
  { s with tst := { s.tst with running := s.tst.running ++ [j], busy := busy, result := result } }

/-- Starts the deferred tests whose unit is not busy and on whose die no test runs, earliest due first. -/
def State.startDeferred (s : State) : State :=
  s.tst.deferred.foldl (fun s j =>
    if s.testWaits (s.classOf j.id) j.unit.toNat j.cell.toNat then s
    else
      let rest := s.tst.deferred.erase j
      State.startTest { s with tst := { s.tst with deferred := rest } } j) s

/-- A test falls due: it starts, or is deferred, or finds 256 deferred already. True where it was taken. -/
def State.takeTest (s : State) (j : TestJob) : State × Bool :=
  if s.testWaits (s.classOf j.id) j.unit.toNat j.cell.toNat then
    if 256 ≤ s.tst.deferred.length then (s, false)
    else
      let result := if j.cmd then 4 else s.tst.result
      ({ s with tst := { s.tst with deferred := s.tst.deferred ++ [j], result := result } }, true)
  else (s.startTest j, true)

/-- Why a test may not run: not held, wrong stepping, no such unit, or the class not permitted now. -/
def State.testRefused (s : State) (id : BitVec 32) (unit cell : Nat) : Bool :=
  match s.testOf id with
  | none => true
  | some r => !s.steppingOk r || !unitExists r.cls.toNat unit cell || !s.classAllowed r.cls.toNat

def State.testCmd (s : State) (v : Word) : State :=
  let id := v.extractLsb' 32 32
  let unit := v.extractLsb' 8 8
  let cell := v.extractLsb' 0 7
  if s.tst.busy then { s with tst := { s.tst with result := 3 } } else
  let s := { s with tst := { s.tst with testId := id, unit := unit, cell := cell } }
  if s.testRefused id unit.toNat cell.toNat then { s with tst := { s.tst with result := 3 } }
  else
    let x := s.takeTest ⟨id, unit, unitCell (s.classOf id) cell, s.now, false, true, s.unitOut (s.classOf id) unit.toNat cell.toNat⟩
    if x.2 then x.1 else { x.1 with tst := { x.1.tst with result := 3 } }

def execTstCmd (m : Master) (value : Word) (s : State) : Result := .next (s.command m tstOffset (fun s => s.testCmd value))

def minuteNs : Nat := 60000000000
def hourNs : Nat := 60 * minuteNs

/-- The key of a test on a unit. -/
def testKey (id : BitVec 32) (unit : BitVec 8) (cell : BitVec 7) : Nat := (id ++ unit ++ cell).toNat

/-- Tests that count their first interval from now on (15:R404). -/
def Tst.heldFrom (t : Tst) (ids : List (BitVec 32)) (now : Nat) : Tst := { t with born := ids.foldl (fun m i => sset 0 m i.toNat now) t.born }

/-- A run of a test on a unit, or one that is refused, starts its interval anew (15:R404, R407). -/
def State.noteRun (s : State) (id : BitVec 32) (unit : BitVec 8) (cell : BitVec 7) : State :=
  { s with tst := { s.tst with ran := sset 0 s.tst.ran (testKey id unit cell) s.now } }

/-- The moment at which a test falls due on a unit: its interval after its last run there, or after the boot or the acceptance of its pack (15:R404). -/
def State.dueAt (s : State) (r : TestRec) (unit : BitVec 8) (cell : BitVec 7) : Nat :=
  max (sget 0 s.tst.born r.id.toNat) (sget 0 s.tst.ran (testKey r.id unit cell)) + r.intervalH.toNat * hourNs

/-- Is a test on a unit deferred or running? -/
def State.testHeld (s : State) (id : BitVec 32) (unit : BitVec 8) (cell : BitVec 7) : Bool :=
  (s.tst.deferred ++ s.tst.running).any (fun j => j.id == id && j.unit == unit && j.cell == cell)

/-- A test's interval has elapsed on a unit: AO time is carried to the moment. A test that is deferred or running is due already. -/
def execTestDue (testId : BitVec 32) (unit : BitVec 8) (cell : BitVec 7) (s : State) : Result :=
  match s.testOf testId with
  | none => .next s
  | some r =>
    let cell := unitCell r.cls.toNat cell
    if !s.running ∨ r.intervalH = 0 ∨ s.testRefused testId unit.toNat cell.toNat ∨ s.testHeld testId unit cell then .next s
    else
      let x := (s.reach (s.dueAt r unit cell)).takeTest ⟨testId, unit, cell, s.dueAt r unit cell, false, false, s.unitOut r.cls.toNat unit.toNat cell.toNat⟩
      .next (if x.2 then x.1 else x.1.noteRun testId unit cell)


/-- A deferred test passes TST_DEFER_LIMIT. -/
def execTestOverdue (testId : BitVec 32) (unit : BitVec 8) (cell : BitVec 7) (s : State) : Result :=
  match s.tst.deferred.find? (fun j => j.id == testId && j.unit == unit && j.cell == unitCell (s.classOf testId) cell) with
  | none => .next s
  | some j =>
    let s := s.reach (j.due + s.tst.limitMin.toNat * minuteNs)
    let l := s.tst.deferred.map (fun x => if x = j then { x with overdue := true } else x)
    .next { s with tst := { s.tst with deferred := l } }

/-- With LIMIT_MIN 0 every deferred test is overdue. -/
def Tst.isOverdue (t : Tst) (j : TestJob) : Bool := j.overdue || t.limitMin == 0

/-! ## End of a test (15:R402, R407) -/

def testPasses (r : TestRec) (result : Word) : Bool :=
  match r.kind.toNat with
  | 1 => result == r.expect
  | 2 => result == r.expect
  | 6 => decide (r.limit.toNat ≤ result.toNat)
  | _ => decide (result.toNat ≤ r.limit.toNat)

/-- A stack whose base die is held in reset: in self-refresh, where it was in it or had been trained. -/
def Stack.held (t : Stack) : Stack :=
  { t with
    inService := false, trained := false, dump := false, selfRefresh := t.trained || t.selfRefresh, closed := false, queue := [], gens := [], sweepCe := [] }

/-- Every compute, memory base and link die is held in reset (15:R388): the traffic in flight is dropped at the closed planks. -/
def State.holdDies (s : State) : State :=
  let s := s.plankDrop (s.flight.size + (s.cells.map (fun c => c.2.reading)).sum)
  let s : State := { s with
    flt := { s.flt with dieState := warmDies s.flt.dieState, resets := [] }, cells := smap .reset Cell.kept s.cells, stks := smap .reset Stack.held s.stks
    flight := .none }
  (List.range 6).foldl (fun s k => s.resetPorts (24 + k) .disabled) s

/-- The safe state after a failure or SCAN (15:R388). The executing context faults with its cells' reset. -/
def State.enterFailed (s : State) : State :=
  let s := match s.sch.exec with
    | some n => s.faultSlot n.val
    | none => s
  State.holdDies { s with sec := { s.sec with boot := .failed, busy := false } }

/-- An essential block has failed (15:R402): a die, or a PLL. -/
def State.essential (s : State) (die pll : Nat) : State :=
  s.enterFailed.post 0x7013 srcTest none (payload [(0, 1, die), (1, 1, pll)])

/-- The planks of a stack's interface open again. -/
def State.openStack (s : State) (k : Nat) : State := s.modStack k (fun t => { t with closed := false })

/-- A unit that has passed is re-initialised at its reset level. -/
def State.reinit (s : State) (cls unit cell : Nat) : State :=
  match cls with
  | 1 => s.modCell (cellKey unit cell) (fun c => { c.level1 with inReset := s.ao.oos.contains (cellKey unit cell) })
  | 2 => (s.setDieState unit 0).trainStack (unit - 16) true []
  | 3 => (s.setDieState unit 0).resetPorts unit .detect
  | 4 => s.modPort unit (fun p => Port.to { p with held := false } (if p.ctlEnable then .detect else .disabled))
  | 5 => if (s.stack unit).inService then (s.openStack unit).trainStack unit true [] else s.openStack unit
  | 7 => { s with pwr := { s.pwr with sensorBad := s.pwr.sensorBad.filter (fun n => n != unit) } }
  | _ => s

/-- The consequence of a failed test. -/
def State.failUnit (s : State) (cls unit cell : Nat) : State :=
  match cls with
  | 1 => (s.modCell (cellKey unit cell) Cell.level1).cellOut (cellKey unit cell)
  | 2 => (((s.dieContexts unit).stackLost (unit - 16)).leaves (unit - 16)).modStack (unit - 16) (fun t => { t with trained := false })
  | 3 => (s.dieContexts unit).resetPorts unit .disabled
  | 4 => s.modPort unit (fun p => Port.to { p with held := true } .failed)
  | 5 => (s.openStack unit).leaves unit
  | 6 => if unit < 2 then s.essential 0xFF unit else s
  | 7 => { s with pwr := { s.pwr with
      sensorBad := s.pwr.sensorBad.filter (fun n => n != unit) ++ [unit], sensors := sset ⟨false, 0⟩ s.pwr.sensors unit ⟨false, 0⟩ } }
  | 8 => s.essential unit 0xFF
  | 9 => s.essential unit 0xFF
  | _ => s

/-- A sensor that was valid becomes invalid when its reference test fails (16:R422). -/
def State.sensorEvent (s : State) (cls unit : Nat) : State :=
  if cls = 7 ∧ (sget ⟨false, 0⟩ s.pwr.sensors unit).valid then s.post 0x6006 srcPower none (payload [(0, 1, unit)]) else s

def testPayload (j : TestJob) (cls : Nat) (result : Word) : BitVec 128 :=
  payload [(0, 4, j.id.toNat), (4, 1, j.unit.toNat), (5, 1, if cls = 1 then j.cell.toNat else 0), (8, 8, result.toNat)]

def State.endTest (s : State) (j : TestJob) (r : TestRec) (result : Word) : State :=
  let cls := r.cls.toNat
  let unit := j.unit.toNat
  let cell := j.cell.toNat
  let pass := testPasses r result
  let s := { s with tst := { s.tst with
      running := s.tst.running.erase j, runs := s.tst.runs + 1, fails := if pass then s.tst.fails else s.tst.fails + 1 } }
  let s := s.noteRun j.id j.unit j.cell
  let s := if s.shown j then { s with tst := { s.tst with busy := false, result := if pass then 1 else 2, signature := result } } else s
  let s := if pass then (if j.cmd then s.post 0x7010 srcTest none (testPayload j cls result) else s)
    else s.post 0x7011 srcTest none (testPayload j cls result)
  if j.out then (if cls = 1 then s.modCell (cellKey unit cell) (fun c => { c.level1 with inReset := true }) else if cls = 5 then s.openStack unit else s)
  else if pass then s.reinit cls unit cell
  else
    let s := (s.sensorEvent cls unit).failUnit cls unit cell
    { s with tst := { s.tst with moved := if cls = 1 then s.tst.moved.filter (fun k => k != cellKey unit cell) else s.tst.moved } }

/-- A test of a cell that waits for its start has not run yet (16:R414). -/
def State.testStarted (s : State) (j : TestJob) : Bool := s.classOf j.id != 1 || (s.cell (cellKey j.unit.toNat j.cell.toNat)).power != 0

def execTestComplete (testId : BitVec 32) (unit : BitVec 8) (cell : BitVec 7) (result : Word) (s : State) : Result :=
  match s.tst.running.find? (fun j => j.id == testId && j.unit == unit && j.cell == unitCell (s.classOf testId) cell), s.testOf testId with
  | some j, some r => if s.testStarted j then .next (s.endTest j r result).startDeferred else .next s
  | _, _ => .next s

/-! ## The tests of a step boundary (15:R405, R406) -/

/-- Cells whose test has passed return as spares. -/
def State.returnMoved (s : State) : State :=
  let busy := s.tst.moved.filter (fun k => s.tst.running.any (fun j => s.classOf j.id == 1 && cellKey j.unit.toNat j.cell.toNat == k))
  let back := s.tst.moved.filter (fun k => !busy.contains k)
  let s := back.foldl (fun s k => s.modCell k (fun c => { c with role := .spare })) s
  { s with tst := { s.tst with moved := busy } }

/-- A deferred test of a bound cell on a die with a healthy spare: the cell leaves the roster, its logical cells move, and the test starts. -/
def State.moveForTest (s : State) (j : TestJob) : State :=
  let key := cellKey j.unit.toNat j.cell.toNat
  if s.classOf j.id ≠ 1 ∨ s.dieTesting j.unit.toNat ∨ s.atWork key = false then s
  else match s.firstSpare j.unit.toNat with
    | none => s
    | some k =>
      let s := s.takeOver j.unit.toNat j.cell.toNat k
      let s := { s with tst := { s.tst with deferred := s.tst.deferred.erase j, moved := s.tst.moved ++ [key] } }
      (s.modCell key (fun c => { c with role := .spare })).startTest { j with overdue := false }

/-- The test allowance in ms: the smaller of 200 ms and half of SCH_HOLD_LIMIT. -/
def State.allowanceMs (s : State) : Nat := min 200 (max 1000 s.sch.limitUs.toNat / 2000)

/-- Is a test in progress on a die that this boundary did not start? Those that it starts run one after another within the allowance. -/
def State.dieHeld (s : State) (die : Nat) : Bool := s.tst.running.any (fun j => !j.overdue && unitDie (s.classOf j.id) j.unit.toNat == die)

def State.runOverdue (s : State) (j : TestJob) : State :=
  let ms := (s.testOf j.id).elim 0 (fun r => longestMs r.kind.toNat r.cls.toNat)
  if s.sch.boundaryMs + ms ≤ s.allowanceMs ∧ s.dieHeld (unitDie (s.classOf j.id) j.unit.toNat) = false then
    let rest := s.tst.deferred.erase j
    let used := s.sch.boundaryMs + ms
    State.startTest { s with tst := { s.tst with deferred := rest }, sch := { s.sch with boundaryMs := used } } { j with overdue := true }
  else s

/-- Item 4 of 07:R183 for tests: true where the context is to be paused for them. -/
def State.boundaryTests (s : State) : State × Bool :=
  let s := s.returnMoved
  let s : State := s.tst.deferred.foldl (fun s j => s.moveForTest j) s
  let due := sortBy (fun a b => decide (a.due ≤ b.due)) (s.tst.deferred.filter s.tst.isOverdue)
  let long := due.any (fun j => decide (s.allowanceMs < (s.testOf j.id).elim 0 (fun r => longestMs r.kind.toNat r.cls.toNat)))
  let s := { s with sch := { s.sch with boundaryMs := 0 } }
  let s : State := if long then s else due.foldl (fun s j => s.runOverdue j) s
  let s : State := if 0 < s.sch.boundaryMs ∨ long = true then
      State.post { s with tst := { s.tst with forced := if 0 < s.sch.boundaryMs then s.tst.forced + 1 else s.tst.forced } } 0x7012 srcTest none
        (payload [(0, 1, bitN long)])
    else s
  (s, long)

end Sys2Proof.Machine
end

