-- ==== Sys2Proof/Machine/Schedule.lean ====
section
/-! DEFINITION. The static schedule (07): pounds, phases and shadows (13:R328 to R333, R341), sills (07:R184, 11:R301), step boundaries (07:R183), lay-by checks, holds and releases (07:R187 to R193). -/

namespace Sys2Proof.Machine

open Sys2Proof

/-! ## The pound in progress -/

/-- The executing context with its image, the fold factor and the length L of the current pound. -/
structure Now where
  slot : Nat
  g : Image
  fold : Nat
  len : Nat
  deriving DecidableEq, Repr

def State.nowAt (s : State) : Option Now :=
  match s.execImage with
  | some (n, g) => some ⟨n, g, (s.slot n).place.fold, g.poundLen s.sch.pound⟩
  | none => none

/-- The number of ticks of the pound: f × L (07:R180). -/
def Now.ticks (w : Now) : Nat := w.fold * w.len

/-- The physical cells that the executing context binds. -/
def State.boundKeys (s : State) (n : Nat) : List Nat := ((s.slot n).place.bindings.map (fun b => cellKey b.die b.cell)).eraseDups

def clearSill (c : Sch) : Sch := { c with leadReached := false, subtree := [], subtreeSent := false, completed := false }

/-! ## Start of a pound (07:R180, R193) -/

/-- A cell at the start of a pound: its clock runs, and its queues of the last pound are empty (07:R197). -/
def Cell.openPound (c : Cell) : Cell :=
  { c with power := 2, front := .zero, issued := [], tilesIn := 0, readOut := 0, feedTensor := 0, feed := [], landed := [], ports := [], queueLanded := [], drain := none, channels := [] }

/-- The pound starts: the throttle requests are sampled, and its quanta come before tick 0. -/
def State.startPound (s : State) (w : Now) : State :=
  let s := (s.boundKeys w.slot).foldl (fun s k => s.modCell k Cell.openPound) s
  let t := s.sch.thermalQ.toNat
  let p := s.sch.powerQ.toNat - t
  let c : Sch := { s.sch with tickIn := 0, phase := 0, phaseOpen := false, leftT := t, leftP := p }
  if t = 0 ∧ p = 0 then { s with sch := { c with state := .inPound } }
  else { s with sch := { c with state := .holding, hold := some ⟨0, if 0 < t then .thermal else .power, 0, s.now⟩ } }

/-- Every bound cell has started and is out of reset (16:R414). -/
def State.cellsReady (s : State) (n : Nat) : Bool := (s.boundKeys n).all (fun k => (s.cell k).power != 0 && !(s.cell k).inReset)

def execPoundStart (s : State) : Result :=
  match s.nowAt with
  | none => .next s
  | some w =>
    if s.sch.begun ∧ s.sch.state = .boundary ∧ s.sch.pound < w.g.pounds.length ∧ s.pwr.state = .a0 ∧ s.pwr.trans = none
        ∧ s.cellsReady w.slot = true then
      .next (s.startPound w)
    else .next s

/-! ## Phases and shadows (07:R195, 13:R328 to R332) -/

/-- Does a cell issue work in the phase: a record other than a marker? -/
def State.worksIn (s : State) (w : Now) (key : Nat) : Bool :=
  (s.slot w.slot).place.bindings.any (fun b => cellKey b.die b.cell == key && b.phase == s.sch.phase &&
    w.g.instrs.any (fun r => r.cell == b.logical && r.pound == s.sch.pound && r.engine != 0))

/-- The cells of a die that want a shadow in this phase: late ones first, then due ones, in ascending order. -/
def State.wantShadow (s : State) (w : Now) (d : Nat) : List Nat :=
  let cs := (List.range 68).filter (fun c =>
    ((s.cell (cellKey d c)).role == .enabled || (s.cell (cellKey d c)).role == .audit) && s.worksIn w (cellKey d c))
  cs.filter (fun c => (s.cell (cellKey d c)).late) ++
    cs.filter (fun c => !(s.cell (cellKey d c)).late && (s.cell (cellKey d c)).workedPhases.toNat % 64 == c % 64)

/-- The spares that are free: started, and neither in reset nor shadows already. -/
def State.freeSpares (s : State) (d : Nat) : List Nat :=
  (List.range 68).filter (fun c => s.isSpare d c && (s.cell (cellKey d c)).power == 2 && !(s.cell (cellKey d c)).inReset &&
    (s.cell (cellKey d c)).shadowOf.isNone)

def State.pairShadow (s : State) (d : Nat) (p : Nat × Nat) : State :=
  (s.modCell (cellKey d p.1) (fun c => { c with late := false })).modCell (cellKey d p.2) (fun c => { c with shadowOf := some (cellKey d p.1) })

/-- A cell that finds no spare is late, and counts. -/
def State.goLate (s : State) (d c : Nat) (noSpare : Bool) : State :=
  let s := s.modCell (cellKey d c) (fun x => { x with late := true })
  { s with flt := { s.flt with
      shadowLate := s.flt.shadowLate + (if noSpare then 0 else 1), shadowNoSpare := s.flt.shadowNoSpare + (if noSpare then 1 else 0) } }

/-- The shadows of one die at the start of a phase. -/
def State.shadowDie (s : State) (w : Now) (d : Nat) : State :=
  let want := s.wantShadow w d
  let free := s.freeSpares d
  let noSpare := !(List.range 68).any (s.isSpare d)
  let s := (List.zip want free).foldl (fun s p => s.pairShadow d p) s
  (want.drop free.length).foldl (fun s c => s.goLate d c noSpare) s

def execPhaseStart (s : State) : Result :=
  match s.nowAt with
  | none => .next s
  | some w =>
    if s.sch.state = .inPound ∧ s.sch.phaseOpen = false ∧ s.sch.tickIn ≤ s.sch.phase * w.len then
      let s := s.tickTo (s.sch.phase * w.len)
      let s := { s with sch := { s.sch with phaseOpen := true } }
      .next ((List.range 16).foldl (fun s d => s.shadowDie w d) s)
    else .next s

/-! ## Closing the comparisons (13:R330, R333) -/

/-- The phase that follows the current one: step and pound. -/
def State.nextPhase (s : State) (w : Now) : Nat × Nat :=
  let step := (s.slot w.slot).step.toNat
  if s.sch.phase + 1 < w.fold then (step, s.sch.pound)
  else if s.sch.pound + 1 < w.g.pounds.length then (step, s.sch.pound + 1) else (step + 1, 0)

/-- A passing shadow: nothing that the primary has done so far is in doubt, in this context and in every other that binds it (13:R330, R339). -/
def State.shadowPassed (s : State) (w : Now) (primary : Nat) : State :=
  let nx := s.nextPhase w
  let others := ((List.range 8).filter (fun n => n != w.slot && (s.slot n).place.bindings.any (fun b => cellKey b.die b.cell == primary))).map (fun n => (n, ((s.slot n).step.toNat, 0)))
  let s := { s with flt := { s.flt with shadowPass := s.flt.shadowPass + 1 } }
  s.modCell primary (fun c => { c with
    snags := [], snagOverflow := false, snagIncomplete := false
    clean := ((w.slot, nx) :: others).foldl (fun m y => sset (0, 0) m y.1 y.2) c.clean })

/-- The region that holds a scratchpad page, tensor and block: that of the latest record of the schedule that has reached bytes of it by this pound, else of the first that will; zero if none. -/
def State.pageRegion (s : State) (w : Now) (key page : Nat) : Nat × Nat :=
  match (s.slot w.slot).place.bindings.find? (fun b => cellKey b.die b.cell == key && b.phase == s.sch.phase) with
  | none => (0, 0)
  | some b =>
    let a : Int := (page * 4096 : Nat) - (b.phase * (spadBytes / w.fold) : Nat)
    let l := w.g.allUses.filter (fun y => y.cell == b.logical && y.what.tensor != 0 && !(cutRuns y.what.runs [(a, a + 4096)]).isEmpty)
    match ((l.filter (fun y => decide (y.pound ≤ s.sch.pound))).getLast?).orElse (fun _ => l.head?) with
    | none => (0, 0)
    | some y => (y.what.tensor, ((a - y.what.base) / 4096).toNat)

/-- One page of a mismatch record, sealed by its cell (13:R351). -/
def State.sealedPage (s : State) (w : Now) (key page primary : Nat) (shadow : Bool) (p : Bytes) : Bytes :=
  let r := s.pageRegion w primary page
  let t := s.tagOf w.slot w.g r.1 r.2 (sourceCell (key / 68) (key % 68)) (s.slot w.slot).step.toNat
  let t := { t with shadow := shadow, ctx := w.slot, gen := (s.gen w.slot).toNat }
  p ++ leBytes 32 (sealTag p t.pack).toNat

/-- The dump record of type 3: the page as the primary holds it and as the shadow does. Where an engine's word differs, the shadow's word is a free value: only a hardware fault makes it differ (log entry 97). -/
def State.mismatchRecord (s : State) (w : Now) (primary shadow : Nat) (d : ShadowDiff) : State :=
  let page := d.addr.toNat / 4096
  let param := fld d.opId.toNat 32 224 + fld d.tick.toNat 32 192 + fld d.engine.toNat 8 184 + fld (shadow % 68) 7 177 + fld d.addr.toNat 22 155
  let g := s.gap 4032
  let h := g.1.gap 64
  let own := (s.cell shadow).bytes (page * 4096) 4096
  let own := if 1 ≤ d.engine.toNat ∧ d.engine.toNat ≤ 4 then patch own (d.addr.toNat % 4096 / 64 * 64) h.2 else own
  let s := h.1
  let body := g.2 ++ s.sealedPage w primary page primary false ((s.cell primary).bytes (page * 4096) 4096) ++
    s.sealedPage w shadow page primary true own
  s.writeDump ⟨3, param, s.stepNow, s.sch.pound, some w.slot, some (primary / 68, primary % 68)⟩ body

/-- A shadow mismatch: both cells are suspect and leave service, the records and the event, the fault at the sill. -/
def State.shadowMismatch (s : State) (w : Now) (primary shadow : Nat) (d : ShadowDiff) : State :=
  let s := { s with flt := { s.flt with shadowMismatch := s.flt.shadowMismatch + 1 } }
  let s := (s.modCell primary (fun c => { c with suspect := true })).modCell shadow (fun c => { c with suspect := true })
  let s := if s.dumpPresent then s.mismatchRecord w primary shadow d else s
  let seq := if s.dumpPresent then s.flt.dumpSeq.toNat else 0
  let s := s.snagReport primary 1 false
  let s := s.post 0x5004 (srcDie (primary / 68)) (some w.slot)
    (payload [(0, 1, primary / 68), (1, 1, primary % 68), (2, 1, shadow % 68), (3, 1, d.engine.toNat), (4, 4, d.opId.toNat), (8, 4, d.tick.toNat),
      (12, 4, seq)])
  ((s.cellOut primary).cellOut shadow).faultAtSill w.slot

def State.closeShadow (s : State) (w : Now) (diffs : List ShadowDiff) (x : Nat × Nat) : State :=
  let s := match diffs.find? (fun d => cellKey d.die.val d.cell.val == x.2) with
    | none => s.shadowPassed w x.2
    | some d => s.shadowMismatch w x.2 x.1 d
  s.modCell x.1 Cell.endShadow

def State.closeShadows (s : State) (w : Now) (diffs : List ShadowDiff) : State := s.shadows.foldl (fun s x => s.closeShadow w diffs x) s

def execShadowClose (diffs : List ShadowDiff) (s : State) : Result :=
  match s.nowAt with
  | none => .next s
  | some w =>
    if s.sch.state = .inPound ∧ s.sch.phaseOpen then
      .next ((s.tickTo ((s.sch.phase + 1) * w.len - w.len / 64)).closeShadows w diffs)
    else .next s

/-! ## End of a phase (13:R328, R341) -/

/-- A hung cell: counted, reported, the context faults at the sill; its level-1 reset follows the fault. -/
def State.hang (s : State) (key : Nat) : State :=
  let s := { s with flt := { s.flt with hangs := s.flt.hangs + 1 } }
  let s := s.post 0x5006 srcFault (s.sch.exec.map (·.val)) (payload [(0, 1, key / 68), (1, 1, key % 68)])
  ((s.snagReport key 6 false).faultExecAtSill).modCell key (fun c => { c with hung := true })

/-- The executing context faults, and then its hung cells are reset at level 1 (13:R341). -/
def State.faultNow (s : State) (n : Nat) : State :=
  let hung := (s.cells.filter (fun c => c.2.hung)).map (·.1)
  hung.foldl (fun s k => (s.modCell k (fun c => { c with hung := false })).startCell k false) (s.faultSlot n)

/-- The worked-phase counts. -/
def Cell.endPhase (c : Cell) : Cell := { c with workedPhases := if c.worked then c.workedPhases + 1 else c.workedPhases, worked := false }

def State.endPhase (s : State) (w : Now) (hung : List (Fin 16 × Fin 68)) : State :=
  let s := s.tickTo ((s.sch.phase + 1) * w.len)
  let s := s.closeShadows w []
  let keys := s.boundKeys w.slot
  let s := keys.foldl (fun s k => s.modCell k Cell.endPhase) s
  let s := (((hung.map (fun h => cellKey h.1.val h.2.val)).eraseDups).filter (fun k => keys.contains k)).foldl (fun s k => s.hang k) s
  -- a spare that has served as a shadow runs the test that it put off (15:R405)
  State.startDeferred { s with sch := { s.sch with phaseOpen := false, phase := if s.sch.phase + 1 < w.fold then s.sch.phase + 1 else s.sch.phase } }

def execPhaseEnd (hung : List (Fin 16 × Fin 68)) (s : State) : Result :=
  match s.nowAt with
  | none => .next s
  | some w => if s.sch.state = .inPound ∧ s.sch.phaseOpen then .next (s.endPhase w hung) else .next s

/-! ## The sill (07:R184, 11:R301) -/

def State.sillSend (s : State) (w : Now) (pos : Nat) (completed : Bool) : State :=
  let step := (s.slot w.slot).step
  s.sendNode (w.g.nodeAt pos) (.sillToken (BitVec.ofNat 16 (s.position w.slot)) (s.gen w.slot) step (BitVec.ofNat 20 s.sch.pound) completed)

/-- The completed token has come, or the root forms it: the children get it. -/
def State.sillDone (s : State) (w : Now) : State :=
  let s := { s with sch := { s.sch with completed := true } }
  (w.g.childrenOf (s.position w.slot)).foldl (fun s p => s.sillSend w p true) s

/-- What a member does once it has reached its lead and holds its children's tokens. -/
def State.sillAdvance (s : State) (w : Now) : State :=
  let pos := s.position w.slot
  if s.sch.leadReached ∧ (w.g.childrenOf pos).all (fun p => s.sch.subtree.contains p) = true then
    match w.g.parentOf pos with
    | none => if s.sch.completed then s else s.sillDone w
    | some p => if s.sch.subtreeSent then s else State.sillSend { s with sch := { s.sch with subtreeSent := true } } w p false
  else s

def execSillLeadReached (s : State) : Result :=
  match s.nowAt with
  | none => .next s
  | some w =>
    if s.sch.state = .inPound ∧ 1 < w.g.modules ∧ s.sch.leadReached = false then
      let s := s.tickTo (w.ticks - (w.g.pounds.getD s.sch.pound ⟨0, 0⟩).lead)
      .next (State.sillAdvance { s with sch := { s.sch with leadReached := true } } w)
    else .next s

/-- A token that arrives: for the context's generation, step and pound, or late traffic (10:R266). -/
def State.takeToken (s : State) (w : Now) (origin : Nat) (completed : Bool) : State :=
  let pos := s.position w.slot
  if completed then (if w.g.parentOf pos = some origin ∧ s.sch.completed = false then s.sillDone w else s)
  else if (w.g.childrenOf pos).contains origin ∧ s.sch.subtree.contains origin = false then
    State.sillAdvance { s with sch := { s.sch with subtree := s.sch.subtree ++ [origin] } } w
  else s

def State.tokenFits (s : State) (w : Now) (origin : Nat) (gen : BitVec 8) (step : BitVec 40) (pound : Nat) : Bool :=
  decide (1 < w.g.modules) && ((s.slot w.slot).joinOf origin).any (fun j => j.gen == gen) && (s.slot w.slot).step == step && s.sch.pound == pound

def State.tokenArrives (s : State) (origin : Nat) (gen : BitVec 8) (step : BitVec 40) (pound : Nat) (completed : Bool) : State :=
  let late : State := { s with flt := { s.flt with staleLink := s.flt.staleLink + 1 } }
  match s.nowAt with
  | none => late
  | some w => if s.tokenFits w origin gen step pound then s.takeToken w origin completed else late

def execSillToken (via : Carriage) (origin : BitVec 16) (gen : BitVec 8) (at_ : Moment) (completed : Bool) (s : State) : Result :=
  .next (s.packetOf via (.sillToken origin gen at_.step at_.pound completed) (fun s => s.tokenArrives origin.toNat gen at_.step at_.pound.toNat completed))

/-! ## End of a pound -/

/-- The work at the end of a pound: events of operations that are done, and regions that close. -/
def State.sillWork (s : State) (w : Now) : State :=
  let s := s.tickTo w.ticks
  let pound := s.sch.pound
  let s := s.postOpEvents w.slot (fun op => decide (w.g.lastPound op ≤ pound))
  let s := ((List.range w.g.regions.length).foldl (fun s i => s.closeRegion i) s).answerAsked
  s.digestHeld w.slot w.g (some pound)

/-- A pound ends: the work of the sill, then the fault that waits for it, or the next pound. -/
def State.endPound (s : State) (w : Now) : State :=
  let pound := s.sch.pound
  let s := s.sillWork w
  if (s.slot w.slot).sillFault then (s.faultNow w.slot).startDeferred
  else { s with sch := { clearSill s.sch with state := .boundary, pound := pound + 1, tickIn := 0, phase := 0, phaseOpen := false } }

def execPoundEnd (s : State) : Result :=
  match s.nowAt with
  | none => .next s
  | some w =>
    if s.sch.state = .inPound ∧ s.sch.phaseOpen = false ∧ s.sch.phase + 1 = w.fold ∧ w.ticks ≤ s.sch.tickIn
        ∧ (w.g.modules ≤ 1 ∨ s.sch.completed = true) then
      .next (s.endPound w)
    else .next s

/-! ## The step boundary (07:R183) -/

/-- The counts of the step go to NUM_STEP and are added to the totals (03:R87). -/
def NumSlot.close (x : NumSlot) (step : BitVec 40) : NumSlot :=
  { total := x.total.add x.current, stepValid := true, stepId := step, last := x.current, current := .zero }

/-- Region counts at a boundary (09:R253). -/
def Slot.closeCounts (sl : Slot) : Slot :=
  { sl with
    regionLast := sl.regionStep, regionStep := []
    regionTotal := sl.regionStep.foldl (fun t x => sset 0 t x.1 (sget 0 t x.1 + x.2)) sl.regionTotal }

/-- Barge b of the region count table. One whose elements are not two for each REGIONS record is accepted: its surplus elements are zero, the rows that it has no elements for are dropped (log entry 183). -/
def Slot.countBarge (sl : Slot) (g : Image) (l : Layout) (b : Nat) : Bytes :=
  (l.bargePositions b).flatMap (fun p => match l.posIndex p with
    | none => leBytes 8 0
    | some i => match g.regions[i / 2]? with
      | none => leBytes 8 0
      | some r => leBytes 8 (sget 0 (if i % 2 = 0 then sl.regionLast else sl.regionTotal) r.tensor).toNat)

def State.writeCounts (s : State) (n : Nat) (g : Image) : State :=
  let s := s.modSlot n Slot.closeCounts
  match g.countTable with
  | none => s
  | some m => match g.lay m.tensor with
    | none => s
    | some l => (List.range l.elemBarges).foldl (fun s b =>
        s.tensorWrite n g m.tensor (b * 4096) ((s.slot n).countBarge g l b) (s.slot n).step.toNat) s

def sat32 (x : Word) : Nat := min x.toNat (2 ^ 32 - 1)

/-- The event of 03:R90. -/
def State.threshEvent (s : State) (n : Nat) : State :=
  let c := (s.numSlot n).last
  let sum := c.satW.toNat + c.satA.toNat + c.satG.toNat + c.satO.toNat
  if s.num.thresh ≠ 0 ∧ s.num.thresh.toNat < sum then
    s.post 0x2001 (srcSlot n) (some n) (payload [(0, 4, sat32 c.satW), (4, 4, sat32 c.satA), (8, 4, sat32 c.satG), (12, 4, sat32 c.satO)])
  else s

/-- Item 1: the digest records and the totals. -/
def State.boundaryRecords (s : State) (n : Nat) (g : Image) : State :=
  let s := (s.landStep n).writeDigests n
  let s := s.modSlot n (fun sl => { sl with digests := [], opEvents := [] })
  let s := s.setNumSlot n ((s.numSlot n).close (s.slot n).step)
  (s.writeCounts n g).threshEvent n

/-- Item 5: a paused context is IDLE, and no context executes until the target's step starts. -/
def State.pause (s : State) (n : Nat) : State :=
  let s := s.modSlot n (fun sl => { sl with state := .idle })
  let s := s.post 0x1002 (srcSlot n) (some n) (payload [(0, 8, (s.slot n).step.toNat), (8, 1, n)])
  { s with sch := { clearSill s.sch with exec := none, state := SchState.idle, begun := false, pound := 0 } }

/-- Item 5; a pause for overdue tests is as if CTX_RUN named no slot, until it is written again (15:R406). -/
def State.switchOver (s : State) (n : Nat) (forTests : Bool) : State :=
  if s.runTarget = some n ∧ forTests = false then s
  else
    let s := s.pause n
    let s : State := if forTests then { s with ctx := { s.ctx with target := 0xF } } else s
    let s := match s.runTarget with
      | some m => if m ≠ n ∧ (s.slot m).state ≠ SlotState.idle then s.targetEvent m else s
      | none => s
    s.startDeferred

/-- Items 2 and 3: the switches that are due, then the step number, whose last value faults the context (01:R28). -/
def State.boundarySwitch (s : State) (n : Nat) (g : Image) : State × Bool :=
  let step := (s.slot n).step
  let s := s.weightSwitch n g (step.toNat + 1)
  if step.toNat = 2 ^ 40 - 1 then ((s.faultSlot n).startDeferred, false)
  else (s.modSlot n (fun sl => { sl with step := step + 1 }), true)

def State.boundary (s : State) (n : Nat) (g : Image) : State :=
  let s := s.boundaryRecords n g
  let x := s.boundarySwitch n g
  if x.2 then
    let s := x.1
    let s := { s with sch := { s.sch with begun := false, pound := 0 } }
    let y := s.boundaryTests
    y.1.switchOver n y.2
  else x.1

def execStepBoundary (s : State) : Result :=
  match s.nowAt with
  | none => .next s
  | some w =>
    if s.sch.begun ∧ s.sch.state = .boundary ∧ s.sch.pound = w.g.pounds.length then .next (s.boundary w.slot w.g) else .next s

/-! ## Lay-by checks (07:R187, R188) -/

/-- An absent lay-by entry: its cause, die, physical cell and entry number, and the stack of an absent burst. -/
structure Absent where
  cause : HoldCause
  die : Nat
  cell : Nat
  entry : Nat
  stack : Nat
  deriving DecidableEq, Repr

/-- Bursts that are due at a tick of the pound and have not come. -/
def State.absentMem (s : State) (w : Now) (rho : Nat) : List Absent :=
  (sortBy (fun a b => decide (a ≤ b)) (s.boundKeys w.slot)).flatMap (fun key => (s.cell key).layby.filterMap (fun e => match e.2 with
    | none => none
    | some b => if b.slot.toNat = w.slot ∧ b.stale = false ∧ b.release = rho ∧ b.data = none then
        some ⟨.mem, key / 68, key % 68, e.1, stackOf b.device⟩ else none))

/-- The barge that a lay-by slot must hold, where it does not. -/
def State.absentSlot (s : State) (w : Now) (h : Home) (key : Nat) (collective : Bool) (number index : Nat) : Option Absent :=
  let there := (s.linkSlot key).any (fun v => v.slot.val == w.slot && v.collective == collective && v.number == number && v.index == index)
  if there then none else some ⟨.link, 24 + h.die, 0xFF, key % 2 ^ 40, 0⟩

/-- The tick of the pound at which a route is released: in the phase of its cell, or of the cell that sends (11:R285). -/
def routeTick (w : Now) (r : LinkRoute) : Nat := w.g.routePhase w.fold r * w.len + r.tick

def State.absentRoutes (s : State) (w : Now) (rho : Nat) : List Absent :=
  (w.g.linkRoutes.filter (fun r => r.dst == s.position w.slot && r.pound == s.sch.pound && routeTick w r == rho)).flatMap (fun r =>
    match (s.slot w.slot).home false r.number with
    | none => []
    | some h => (List.range (w.g.bargesOf r)).filterMap (fun i =>
        s.absentSlot w h (slotKey h.die (h.slotOf i)) false r.number i))

def collTick (w : Now) (r : CollRec) : Nat := (w.fold - 1) * w.len + r.releaseTick

/-- The blocks of a collective's result that this module holds. -/
def State.collBlocks (s : State) (n : Nat) (g : Image) (c : Nat) : List (Nat × Nat) :=
  match g.collOp c with
  | none => []
  | some o => match g.lay o.dst with
    | none => []
    | some l => l.blocks.filterMap (fun b => (s.localBlock n g o.dst b).map (fun i => (b, i)))

def State.absentColls (s : State) (w : Now) (rho : Nat) : List Absent :=
  (w.g.colls.filter (fun r => r.releasePound == s.sch.pound && collTick w r == rho && r.members.contains (s.position w.slot))).flatMap (fun r =>
    match (s.slot w.slot).home true r.coll with
    | none => []
    | some h =>
      if w.g.collKind r = 4 then (s.absentSlot w h (slotKey h.die (surveySlot w.slot r.coll)) true r.coll 0).toList
      else (s.collBlocks w.slot w.g r.coll).filterMap (fun b =>
        s.absentSlot w h (slotKey h.die (h.slotOf b.2)) true r.coll b.1))

def State.absentSill (s : State) (w : Now) (rho : Nat) : List Absent :=
  if 1 < w.g.modules ∧ rho = w.ticks ∧ s.sch.completed = false then [⟨.sill, 0xFF, 0xFF, 0, 0⟩] else []

/-- The first absent entry of those due at ρ, in the order MEM, LINK, SILL. -/
def State.absent (s : State) (w : Now) (rho : Nat) : Option Absent :=
  (s.absentMem w rho ++ s.absentRoutes w rho ++ s.absentColls w rho ++ s.absentSill w rho).head?

/-- The check before tick ρ − 64. -/
def execLaybyCheck (tick : Nat) (s : State) : Result :=
  match s.nowAt with
  | none => .next s
  | some w =>
    if s.sch.state = .inPound ∧ s.sch.tickIn ≤ tick ∧ tick < w.ticks then
      let s := s.tickTo tick
      match s.absent w (tick + 64) with
      | none => .next s
      | some a => .next { s with sch := { s.sch with state := .holding, hold := some ⟨tick, a.cause, 0, s.now⟩ } }
    else .next s

/-! ## Holds (07:R188 to R193) -/

def Sch.countQuantum (c : Sch) (k : HoldCause) : Sch :=
  match k with
  | .mem => { c with holdMem := c.holdMem + 1 }
  | .link => { c with holdLink := c.holdLink + 1 }
  | .sill => { c with holdSill := c.holdSill + 1 }
  | .thermal => { c with holdThermal := c.holdThermal + 1, leftT := c.leftT - 1 }
  | .power => { c with holdPower := c.holdPower + 1, leftP := c.leftP - 1 }

def HoldCause.isData (k : HoldCause) : Bool :=
  match k with
  | .mem => true
  | .link => true
  | .sill => true
  | .thermal => false
  | .power => false

/-- Ticks resume. -/
def State.resume (s : State) : State :=
  let s := s.endHold
  { s with sch := { s.sch with state := .inPound } }

/-- A throttle quantum ends: the next one, or tick 0. -/
def State.throttleNext (s : State) (h : Hold) : State :=
  if 0 < s.sch.leftT then { s with sch := { s.sch with hold := some { h with cause := .thermal } } }
  else if 0 < s.sch.leftP then { s with sch := { s.sch with hold := some { h with cause := .power } } }
  else s.resume

/-- A data quantum ends: the entries are checked again. -/
def State.dataNext (s : State) (w : Now) (h : Hold) : State :=
  let q := h.quanta + 1
  let s := { s with sch := { s.sch with longest := if s.sch.longest.toNat < q then BitVec.ofNat 64 q else s.sch.longest } }
  match s.absent w (h.tick + 64) with
  | none => s.resume
  | some a => { s with sch := { s.sch with hold := some { h with cause := a.cause, quanta := q } } }

def execHoldQuantumEnd (s : State) : Result :=
  match s.nowAt, s.sch.hold with
  | some w, some h =>
    let s := { s with sch := s.sch.countQuantum h.cause }
    .next (if h.cause.isData then s.dataNext w h else s.throttleNext h)
  | _, _ => .next s

def causeCode (k : HoldCause) : Nat :=
  match k with
  | .mem => 1
  | .link => 2
  | .sill => 3
  | .thermal => 4
  | .power => 5

/-- The payload of 0x5007. -/
def holdPayload (step pound tick : Nat) (a : Absent) : BitVec 128 :=
  BitVec.ofNat 128 (fld step 40 0 + fld pound 20 40 + fld (causeCode a.cause) 4 60 + fld tick 26 64 + fld a.die 8 96 + fld a.cell 8 104 + fld a.entry 16 112)

/-- The hold limit in ns. -/
def Sch.limitNs (c : Sch) : Nat := max 1000 c.limitUs.toNat * 1000

/-- Quanta of a data hold count to their cause (07:R190). -/
def Sch.addQuanta (c : Sch) (k : HoldCause) (n : Nat) : Sch :=
  match k with
  | .mem => { c with holdMem := c.holdMem + BitVec.ofNat 64 n }
  | .link => { c with holdLink := c.holdLink + BitVec.ofNat 64 n }
  | .sill => { c with holdSill := c.holdSill + BitVec.ofNat 64 n }
  | .thermal => c
  | .power => c

/-- The quanta of a hold that ends at the limit: it ends with the first quantum whose end lies beyond it (07:R178, R191; a quantum is 256 periods of the nominal tick clock). -/
def Hold.quantaAtLimit (h : Hold) (c : Sch) : Nat := max (h.quanta + 1) (c.limitNs * 3 / 256 + 1)

/-- The quanta that the hold has lasted at its limit count: the one in progress to its own cause, the rest to that of the entry still absent. -/
def Sch.countToLimit (c : Sch) (h : Hold) (k : HoldCause) : Sch :=
  let q := h.quantaAtLimit c
  let c := (c.addQuanta h.cause 1).addQuanta k (q - h.quanta - 1)
  { c with longest := if c.longest.toNat < q then BitVec.ofNat 64 q else c.longest }

/-- The hold has lasted longer than SCH_HOLD_LIMIT: its quanta count, the context faults at the gap, and cause MEM resets the base die (07:R191, 13:R342). -/
def State.limitHold (s : State) (w : Now) (h : Hold) (a : Absent) : State :=
  let s := s.reach (h.start + h.quantaAtLimit s.sch * 256 / 3)
  let s := { s with sch := s.sch.countToLimit h a.cause }
  let s := s.post 0x5007 srcSched (some w.slot) (holdPayload (s.slot w.slot).step.toNat s.sch.pound h.tick a)
  let s := s.faultNow w.slot
  let s := match a.cause with
    | .mem => if s.dieState (16 + a.stack) = 0 then s.startDie (16 + a.stack) else s
    | _ => s
  s.startDeferred

def execHoldLimit (s : State) : Result :=
  match s.nowAt, s.sch.hold with
  | some w, some h =>
    if h.cause.isData then
      match s.absent w (h.tick + 64) with
      | none => .next s
      | some a => .next (s.limitHold w h a)
    else .next s
  | _, _ => .next s

/-! ## Releases (07:R188) -/

def State.releaseEntry (s : State) (w : Now) (die cell entry : Nat) : State :=
  match sget none (s.cell (cellKey die cell)).layby entry with
  | none => s
  | some b =>
    if b.data.isSome ∧ b.slot.toNat = w.slot then (s.tickTo b.release).releaseMem (cellKey die cell) entry else s

/-- The pound and the tick at which a link slot's barge is released: barge k of a send 64 k ticks after the release point (11:R298), of a collective's result by its number among the local barges. -/
def State.slotRelease (s : State) (w : Now) (v : LinkSlot) : Option (Nat × Nat) :=
  if v.collective then (w.g.coll v.number).map (fun r =>
    (r.releasePound, collTick w r + 64 * (s.localBlock w.slot w.g ((w.g.collOp v.number).elim 0 (fun o => o.dst)) v.index).getD 0))
  else (w.g.route v.number).map (fun r => (r.pound, routeTick w r + 64 * v.index))

def State.releaseSlotOf (s : State) (w : Now) (die i : Nat) : State :=
  match s.linkSlot (slotKey die i) with
  | none => s
  | some v =>
    match s.slotRelease w v with
    | none => s
    | some at_ => if v.slot.val = w.slot ∧ at_.1 = s.sch.pound then (s.tickTo at_.2).releaseLink die i at_.2 else s

/-- An entry is released at its ρ. The release of the sill is the end of the pound. -/
def execLaybyRelease (entry : LaybyRef) (s : State) : Result :=
  match s.nowAt with
  | none => .next s
  | some w =>
    if s.sch.state = .inPound then
      match entry with
      | .mem d c e => .next (s.releaseEntry w d.val c.val e.val)
      | .link d i => .next (s.releaseSlotOf w d.val i)
      | .sill => .next s
    else .next s

end Sys2Proof.Machine
end

