-- ==== Sys2Proof/Machine/HostDma.lean ====
section
/-! DEFINITION. Host DMA (14:R371, R372, 10:R270): the 16 channels, raw and barge-mode transfers, hops 6 and 7, and how a transfer ends. -/

namespace Sys2Proof.Machine

open Sys2Proof

/-- GLB_DMA_STATUS (14:Table 14.26). -/
def DmaChan.status (c : DmaChan) : Nat :=
  bitN c.busy * 2 ^ 63 + bitN c.done * 2 ^ 62 + fld c.error.toNat 4 58 + bitN c.ue * 2 ^ 57 + fld c.checkFails.toNat 24 32 + fld c.firstFail.toNat 32 0

/-- GLB_DMA_CTRL as it reads (14:Table 14.25). -/
def DmaChan.ctrl (c : DmaChan) : Nat :=
  fld c.len.toNat 32 32 + fld c.slot.toNat 3 13 + bitN c.base * 2 ^ 12 + bitN c.irq * 2 ^ 9 + bitN c.barge * 2 ^ 8 + bitN c.dir * 2 ^ 4

/-- A transfer ends: DONE, its ERROR, and with IRQ an event (14:R372). -/
def State.endChan (s : State) (c err : Nat) : State :=
  let ch := { s.chan c with busy := false, done := true, error := BitVec.ofNat 4 err, aborting := false }
  let s := s.setChan c ch
  if ch.curIrq then s.post (if err = 0 then 0x0020 else 0x0021) srcHost none (payload [(0, 8, c), (8, 8, ch.status)]) else s

/-- Every channel that is BUSY ends with an ERROR (14:R368, R370). -/
def State.endBusy (s : State) (err : Nat) : State := (List.range 16).foldl (fun s c => if (s.chan c).busy then s.endChan c err else s) s

/-- What START finds wrong at once: misaligned, then the EMPTY slot, then the range (14:R371). -/
def State.startError (s : State) (c : DmaChan) : Option Nat :=
  let n := c.len.toNat * (if c.barge then 4096 else 64)
  if c.dev.toNat % (if c.barge then 4096 else 64) ≠ 0 ∨ c.host.toNat % 64 ≠ 0 then some 2
  else if c.barge ∧ c.dir = false ∧ c.base = false ∧ (s.slot c.slot.toNat).state = .empty then some 3
  else if !s.hostRange c.dev.toNat n then some 1
  else none

/-- START takes the fields as they stand. -/
def DmaChan.begin (c : DmaChan) : DmaChan :=
  { c with
    busy := true, done := false, error := 0, ue := false, checkFails := 0, firstFail := 0, curLen := c.len.toNat, curSlot := c.slot
    curBase := c.base, curIrq := c.irq, curBarge := c.barge, curDir := c.dir, curHost := c.host.toNat, curDev := c.dev.toNat, record := 0
    aborting := false }

def State.startChan (s : State) (c : Nat) : State :=
  let ch := s.chan c
  let s1 := s.setChan c ch.begin
  match s.startError ch with
  | some e => s1.endChan c e
  | none => s1

def dmaOffset (c : Nat) : Nat := 0x1000 + c * 0x40

/-- A write of GLB_DMA_CTRL: its fields, then ABORT of a transfer in progress, then START of an idle channel. -/
def State.dmaCtrl (s : State) (c : Nat) (v : Word) : State :=
  let ch := { s.chan c with
    len := v.extractLsb' 32 32, slot := v.extractLsb' 13 3, base := v.getLsbD 12, irq := v.getLsbD 9, barge := v.getLsbD 8, dir := v.getLsbD 4 }
  let s := s.setChan c { ch with aborting := ch.aborting || (ch.busy && v.getLsbD 1) }
  if v.getLsbD 0 ∧ ch.busy = false then s.startChan c else s

def execHostDmaStart (m : Master) (channel : Fin 16) (value : Word) (s : State) : Result :=
  .next (s.command m (dmaOffset channel.val) (fun s => s.dmaCtrl channel.val (value ||| 1)))

def execHostDmaAbort (m : Master) (channel : Fin 16) (value : Word) (s : State) : Result :=
  .next (s.command m (dmaOffset channel.val) (fun s => s.dmaCtrl channel.val (value ||| 2)))

/-- A record that fails hop 6 or 7 (14:R372, 10:R265). -/
def State.recordFails (s : State) (c hop : Nat) (tag : BitVec 256) : State :=
  let ch := s.chan c
  let s := s.setChan c { ch with
    checkFails := if ch.checkFails = 0xFFFFFF then ch.checkFails else ch.checkFails + 1
    firstFail := if ch.checkFails = 0 then BitVec.ofNat 32 ch.record else ch.firstFail }
  (s.towFail hop).failedHopTag hop srcHost tag

/-- The tag of a barge that the host die seals for a context, or for a base (10:R270). -/
def State.hostSeal (s : State) (c : DmaChan) (p : Bytes) (tag : BitVec 256) : BitVec 256 :=
  let t := setTag (setTag tag.toNat 42 40 (if c.curBase then 0 else c.curSlot.toNat)) 39 32 (if c.curBase then 0 else (s.gen c.curSlot.toNat).toNat)
  sealTag p (setTag (setTag t 171 152 s.node) 227 212 sourceHost)

/-- A record of a write: checked at hop 6, zero outside the logical shape (06:R155), re-sealed, stored by its base die. -/
def State.recordIn (s : State) (c : Nat) (data : Bytes) : State :=
  let ch := s.chan c
  let p := data.take 4096
  let tag := BitVec.ofNat 256 (leNat (data.drop 4096))
  let p' := (s.layoutFor ch.curSlot.toNat (tagTensor tag)).elim p (fun l => l.maskBarge (tagBlock tag) p)
  if tagOk p tag then s.landBargeAs (ch.curBase || s.inBase (ch.curDev + ch.record * 4096)) ⟨ch.curDev + ch.record * 4096, p', s.hostSeal ch p' tag, none⟩ else s.recordFails c 6 tag

/-- A record of a read: delivered as stored, checked at hop 7. -/
def State.recordOut (s : State) (c : Nat) : State :=
  let ch := s.chan c
  let a := ch.curDev + ch.record * 4096
  let x := s.readWords hostReader (a / 64) 64
  let tag := x.1.mem.bargeTag a
  let s := x.1.modChan c (fun ch => { ch with ue := ch.ue || x.2.2 })
  let s := if tagOk x.2.1 tag then s else s.recordFails c 7 tag
  s.emit (.hostWrite (ch.curHost + ch.record * 4128) (x.2.1 ++ leBytes 32 tag.toNat))

/-- The next record of a barge-mode transfer; after ABORT the transfer ends. -/
def execBargeModeRecord (channel : Fin 16) (data : Bytes) (s : State) : Result :=
  let c := channel.val
  let ch := s.chan c
  if ch.busy = false ∨ ch.curBarge = false ∨ ch.curLen ≤ ch.record then .next s
  else if ch.aborting then .next (s.endChan c 4)
  else if ch.curDir = false ∧ data.length ≠ 4128 then .next s
  else
    let s := if ch.curDir then s.recordOut c else s.recordIn c data
    .next (s.modChan c (fun ch => { ch with record := ch.record + 1 }))

/-- The first n bytes of a raw transfer move. -/
def State.rawMove (s : State) (c n : Nat) (data : Bytes) : State :=
  let ch := s.chan c
  if ch.curDir then
    let x := s.readRange hostReader ch.curDev n
    (x.1.modChan c (fun ch => { ch with ue := ch.ue || x.2.2 })).emit (.hostWrite ch.curHost x.2.1)
  else s.rawWrite ch.curDev (data.take n)

/-- A transfer ends: a raw one moves its bytes, after ABORT a free number of whole 4 KiB of them. -/
def execHostDmaDone (channel : Fin 16) (data : Bytes) (s : State) : Result :=
  let c := channel.val
  let ch := s.chan c
  let n := ch.curLen * 64
  if ch.busy = false then .next s
  else if ch.curBarge then
    if ch.aborting then .next (s.endChan c 4) else if ch.record = ch.curLen then .next (s.endChan c 0) else .next s
  else if ch.curDir = false ∧ data.length ≠ n then .next s
  else if ch.aborting then
    let x := s.draw
    .next ((x.1.rawMove c (min n (x.2.toNat % (n / 4096 + 1) * 4096)) data).endChan c 4)
  else .next ((s.rawMove c n data).endChan c 0)

end Sys2Proof.Machine
end

