-- ==== Sys2Proof/Machine/Ownership.lean ====
section
/-! DEFINITION. Ownership (14:R365 to R370): the messages, the lease, the handover window, what a change of owner does, and the resets of the PCIe function. -/

namespace Sys2Proof.Machine

open Sys2Proof

def ownOffset : Nat := 0x10000

def ownerCode (o : Option Master) : Nat := o.elim 0 masterCode
def masterNodeOf (o : Option Master) : Nat := o.elim 0 masterNode

/-- May a master claim the module, or take a handover (14:R366)? -/
def Own.allowed (o : Own) (m : Master) : Bool :=
  match m with
  | .host => o.allowHost
  | .mc => true
  | .peer n => o.allowPeer && n == o.peerNode

/-- The sender's copy of OWN_RESULT (14:Table 14.10). -/
def State.ownResult (s : State) (m : Master) (msg result : Nat) : State :=
  let r : OwnResult := ⟨BitVec.ofNat 4 msg, BitVec.ofNat 4 result⟩
  match m with
  | .host => { s with own := { s.own with resultHost := r } }
  | .mc => { s with own := { s.own with resultMc := r } }
  | .peer _ => { s with own := { s.own with resultPeer := r } }

/-- An ownership event: OWNER after, the second master, EPOCH after, and the node of the peer that either names (14:Table 14.27). -/
def State.ownEvent (s : State) (code : Nat) (second : Option Master) : State :=
  let node := if ownerCode s.own.owner = 3 then masterNodeOf s.own.owner else masterNodeOf second
  s.post code srcOwn none (payload [(0, 1, ownerCode s.own.owner), (1, 1, ownerCode second), (2, 1, s.own.epoch.toNat), (4, 4, node)])

def leaseNs : Nat := 2000 * msNs
def windowNs : Nat := 100 * msNs

/-- A change of owner and its effects (14:R365, R368): the ring is disabled, BUSY host DMA ends with ERROR 5, host shards end with ABORT. -/
def State.changeOwner (s : State) (new : Option Master) (token : BitVec 32) (code : Nat) : State :=
  let before := s.own.owner
  let s := { s with own := { s.own with
      owner := new, token := if new.isSome then token else 0, epoch := s.own.epoch + 1, handover := none
      leaseEnd := if new.isSome then s.now + leaseNs else 0 } }
  let s := { s with evt := { s.evt with ring := none } }
  ((s.endBusy 5).abortHostShards).ownEvent code before

/-- The fields of 14:Table 14.11. -/
def msgToken (v : Word) : BitVec 32 := v.extractLsb' 32 32
def msgTarget (v : Word) : Option Master :=
  match (v.extractLsb' 0 2).toNat with
  | 1 => some .host
  | 2 => some .mc
  | 3 => some (.peer (v.extractLsb' 12 20))
  | _ => none

/-! ## The messages (14:Table 14.5) -/

/-- CLAIM: refused with a RESULT, or the master owns the module. -/
def State.claim (s : State) (m : Master) (v : Word) : State :=
  if msgToken v = 0 then s.ownResult m 1 4
  else match s.own.owner with
    | none => if s.own.allowed m then (s.changeOwner (some m) (msgToken v) 0x8001).ownResult m 1 1 else s.ownResult m 1 3
    | some x =>
      if x = m then s.ownResult m 1 7
      else if m = .mc ∧ v.getLsbD 2 then (s.changeOwner (some m) (msgToken v) 0x8006).ownResult m 1 1
      else s.ownResult m 1 2

/-- Is a handover to this master pending, within its 100 ms? -/
def State.handoverTo (s : State) (m : Master) : Bool := s.own.handover.any (fun h => decide (h.target = m ∧ s.now < h.stop))

def State.accept (s : State) (m : Master) (v : Word) : State :=
  if !s.handoverTo m then s.ownResult m 2 5
  else if msgToken v = 0 then s.ownResult m 2 4
  else (s.changeOwner (some m) (msgToken v) 0x8004).ownResult m 2 1

/-- A command of the owner: dropped with RESULT 2 from another master, with RESULT 4 under a wrong token (14:R366). -/
def State.ownerCommand (s : State) (m : Master) (msg offset : Nat) (v : Word) (f : State → State) : State :=
  if !s.isOwner m then (s.drop m 0 offset).ownResult m msg 2
  else if msgToken v = 0 ∨ msgToken v ≠ s.own.token then (s.drop m 0 offset).ownResult m msg 4
  else f s

/-- Is such a command dropped? -/
def State.ownerDrops (s : State) (m : Master) (v : Word) : Bool := !s.isOwner m || msgToken v == 0 || msgToken v != s.own.token

def State.heartbeat (s : State) (m : Master) (v : Word) : State :=
  s.ownerCommand m 3 (ownOffset + 0x30) v (fun s => State.ownResult { s with own := { s.own with leaseEnd := s.now + leaseNs } } m 3 1)

def State.handover (s : State) (m : Master) (v : Word) : State :=
  s.ownerCommand m 4 (ownOffset + 0x38) v (fun s =>
    match msgTarget v with
    | none => s.ownResult m 4 6
    | some t =>
      if s.own.owner = some t ∨ s.own.allowed t = false then s.ownResult m 4 6
      else (State.ownEvent { s with own := { s.own with handover := some ⟨t, s.now + windowNs⟩ } } 0x8003 (some t)).ownResult m 4 1)

def State.releaseOwner (s : State) (m : Master) (v : Word) : State :=
  s.ownerCommand m 5 (ownOffset + 0x40) v (fun s => (s.changeOwner none 0 0x8007).ownResult m 5 1)

/-- A message reaches the module, and its path answers where it has an answer. -/
def State.message (s : State) (m : Master) (drops : Bool) (f : State → State) : State :=
  if s.reaches m then (f s).answerWrite m (if drops then 1 else 0) else s

def execOwnClaim (m : Master) (value : Word) (s : State) : Result := .next (s.message m false (fun s => s.claim m value))
def execOwnAccept (m : Master) (value : Word) (s : State) : Result := .next (s.message m false (fun s => s.accept m value))
def execOwnHeartbeat (m : Master) (value : Word) (s : State) : Result :=
  .next (s.message m (s.ownerDrops m value) (fun s => s.heartbeat m value))
def execOwnHandover (m : Master) (value : Word) (s : State) : Result :=
  .next (s.message m (s.ownerDrops m value) (fun s => s.handover m value))
def execOwnRelease (m : Master) (value : Word) (s : State) : Result :=
  .next (s.message m (s.ownerDrops m value) (fun s => s.releaseOwner m value))

/-! ## Expiry -/

def execLeaseExpiry (s : State) : Result :=
  if s.own.owner.isSome then .next ((s.reach s.own.leaseEnd).changeOwner none 0 0x8002) else .next s

def execHandoverExpiry (s : State) : Result :=
  match s.own.handover with
  | none => .next s
  | some h =>
    let s := s.reach h.stop
    .next (State.ownEvent { s with own := { s.own with handover := none } } 0x8005 (some h.target))

/-! ## Resets of the PCIe function (14:R370) -/

/-- The function's configuration state after a function reset (14:Table 14.2): BAR2 at its size of 1 GiB, MSI-X disabled with its table as it resets, D0. -/
def Glb.functionReset (g : Glb) : Glb :=
  { g with bar2Size := 2 ^ 30, msix := [], msixPending := false, msixEnable := false, msixMask := false, d3 := false }

/-- A function reset: the configuration state, BUSY channels with ERROR 6, host shards with ABORT, the PCIe host's ownership. -/
def State.functionReset (s : State) : State :=
  let s : State := { s with glb := s.glb.functionReset }
  let s := (s.endBusy 6).abortHostShards
  if s.own.owner = some .host then s.changeOwner none 0 0x8007 else s

/-- Is the host die on, so that the PCIe function exists? -/
def execFunctionReset (s : State) : Result := if s.reachable then .next s.functionReset else .next s

def execPerstOrHotReset (s : State) : Result :=
  if s.own.pcieReset then .next (s.warmReset 5 0) else if s.reachable then .next s.functionReset else .next s

def execPcieLinkDown (s : State) : Result := if s.reachable then .next (s.endBusy 6) else .next s

end Sys2Proof.Machine
end

