-- ==== Sys2Proof/Machine/Events.lean ====
section
/-! DEFINITION. The event controller (14:R376 to R382): the ring, its notifications, sideband inputs with their storm masks, and watched wake sources. -/

namespace Sys2Proof.Machine

open Sys2Proof

def evtOffset : Nat := 0x20000

/-- An event record as stored (14:Table 14.15). -/
def EvRec.pack (r : EvRec) : Nat :=
  fld r.payload.toNat 128 128 + fld r.code.toNat 16 112 + fld r.gen.toNat 8 104 + fld r.slot.toNat 3 101 + bitN r.slotValid * 2 ^ 100 +
  bitN r.coalesced * 2 ^ 99 + bitN r.phase * 2 ^ 98 + fld r.severity.toNat 4 92 + fld r.source.toNat 16 64 + fld r.aoTime.toNat 64 0

/-! ## Notifications (14:R378) -/

/-- What a 4-byte word of the MSI-X table reads as before it is written: the mask bit of a vector control is 1, as PCI Express resets it (PRESUMED, log 25). -/
def msixDefault (i : Nat) : BitVec 32 := if i % 4 = 3 then 1 else 0

def Glb.msixWord (g : Glb) (i : Nat) : BitVec 32 := sget (msixDefault i) g.msix i

def Glb.setMsixWord (g : Glb) (i : Nat) (v : BitVec 32) : Glb := { g with msix := sset (msixDefault i) g.msix i v }

/-- Vector 0 is not to be sent: MSI-X is not enabled, or the function or the vector (bit 0 of its vector control) is masked. -/
def Glb.vectorMasked (g : Glb) : Bool := !g.msixEnable || g.msixMask || (g.msixWord 3).getLsbD 0

/-- The owner is told that the ring is not empty. A vector of the host that is masked, or whose MSI-X is not enabled, becomes pending (log entry 25). -/
def State.notify (s : State) : State :=
  match s.own.owner with
  | none => s
  | some .host => if s.glb.vectorMasked then { s with glb := { s.glb with msixPending := true } } else s.emit (.notify .host)
  | some m => s.emit (.notify m)

/-- A pending vector 0 that is no longer masked is sent. -/
def State.sendPending (s : State) : State :=
  if s.glb.msixPending && !s.glb.vectorMasked then State.emit { s with glb := { s.glb with msixPending := false } } (.notify .host) else s

/-! ## The ring (14:R376, R377) -/

def Ring.size (r : Ring) : Nat := 2 ^ r.sizeLog2

/-- Free slots: (HEAD − TAIL − 1) mod N. -/
def Evt.free (e : Evt) (r : Ring) : Nat := (e.head.toNat + 2 * r.size - e.tail.toNat - 1) % r.size

/-- Writes a record at TAIL and advances it; a record into an empty ring notifies. -/
def State.putRecord (s : State) (r : Ring) (x : EvRec) : State :=
  let wasEmpty := s.evt.head == s.evt.tail
  let b := leBytes 32 ({ x with phase := s.evt.phase } : EvRec).pack
  let a := r.base + s.evt.tail.toNat * 32
  let s := if r.device then
      s.writeWord (a / 64) (patch (s.mem.rawWord (a / 64)) (a % 64) b) (some 0)
    else s.emit (.hostWrite a b)
  let t := (s.evt.tail.toNat + 1) % r.size
  let s := { s with evt := { s.evt with tail := BitVec.ofNat 16 t, phase := if t = 0 then !s.evt.phase else s.evt.phase } }
  if wasEmpty then s.notify else s

/-- The pending source whose record comes next: ascending AO time, then ascending source. -/
def Evt.nextPending (e : Evt) : Option (Nat × EvRec) :=
  (e.pend.filterMap (fun x => x.2.map (fun r => (x.1, r)))).foldl (fun a x => match a with
    | none => some x
    | some y => if x.2.aoTime.toNat < y.2.aoTime.toNat then some x else a) none

def Evt.pendingCount (e : Evt) : Nat := e.pend.countP (fun x => x.2.isSome)

/-- The overflow record, for which one slot is kept (14:R377). -/
def State.overflow (s : State) (r : Ring) : State :=
  let p := payload [(0, 8, s.evt.pendingCount), (8, 8, s.evt.coalesced.toNat)]
  let x := s.eventRecord 0x0001 0x000 none 2 p
  State.putRecord { s with evt := { s.evt with overflows := s.evt.overflows + 1 } } r x

/-- Can a record be written to the ring now: not in A3, where the control and host dies are off, nor into a stack in self-refresh (14:R382, 16:Table 16.1)? -/
def State.ringOpen (s : State) (r : Ring) : Bool := s.ao.railsOn && s.pwr.state != .a3 && !(r.device && (s.stack (stackOf r.base)).selfRefresh)

def State.ringWrite (s : State) : State :=
  match s.evt.ring, s.evt.nextPending with
  | some r, some x =>
    if s.ringOpen r = false then s else
    let n := s.evt.free r
    if 2 ≤ n then State.putRecord { s with evt := { s.evt with pend := sset none s.evt.pend x.1 none } } r x.2
    else if n = 1 then s.overflow r
    else s
  | _, _ => s

def execRingRecordWrite (s : State) : Result := .next s.ringWrite

def startRing (e : Evt) (r : Ring) : Evt := { e with err := 0, ring := some r, head := 0, tail := 0, phase := true }

/-- ENABLE under the rules of 14:R376, or ERR. A LOC 1 ring is released and allocated anew. -/
def State.enableRing (s : State) : State :=
  let n := s.evt.sizeLog2.toNat
  let fail (e : Nat) : State := { s with evt := { s.evt with err := BitVec.ofNat 4 e } }
  if n < 12 ∨ 16 < n then fail 1
  else if s.evt.loc = false then
    if s.own.owner ≠ some .host then fail 2
    else if s.evt.base.toNat % 4096 ≠ 0 then fail 4
    else { s with evt := startRing s.evt ⟨n, false, s.evt.base.toNat⟩ }
  else
    let free : State := { s with evt := { s.evt with ring := none } }
    match free.allocateAll [] [⟨1, 2 ^ n * 32⟩] with
    | some [(ks, o)] => { s with evt := startRing s.evt ⟨n, true, ks.headD 0 * stackBytes + o⟩ }
    | _ => fail 3

def State.disableRing (s : State) : State := { s with evt := { s.evt with ring := none } }

/-- A write of EVT_CTRL: DISABLE before ENABLE. -/
def State.evtCtrl (s : State) (v : Word) : State :=
  let s := { s with evt := { s.evt with sizeLog2 := v.extractLsb' 8 5, loc := v.getLsbD 2 } }
  if v.getLsbD 1 then s.disableRing else if v.getLsbD 0 then s.enableRing else s

def execEnable (m : Master) (value : Word) (s : State) : Result := .next (s.command m evtOffset (fun s => s.evtCtrl (value ||| 1)))
def execDisable (m : Master) (value : Word) (s : State) : Result := .next (s.command m evtOffset (fun s => s.evtCtrl (value ||| 2)))

/-- A write of EVT_HEAD: accepted within the filled range, else counted with KIND 2; without a ring ignored. -/
def State.headWrite (s : State) (m : Master) (v : Word) : State :=
  match s.evt.ring with
  | none => s
  | some r =>
    let h := v.toNat % 65536
    let n := r.size
    if n ≤ h ∨ (s.evt.tail.toNat + n - s.evt.head.toNat) % n < (h + n - s.evt.head.toNat) % n then s.bad m 2 (evtOffset + 0x18)
    else
      let s := { s with evt := { s.evt with head := BitVec.ofNat 16 h } }
      if s.evt.head ≠ s.evt.tail then s.notify else s

def execEvtHeadWrite (m : Master) (value : Word) (s : State) : Result :=
  .next (s.command m (evtOffset + 0x18) (fun s => s.headWrite m value))

/-! ## Sideband inputs (14:R380, R381, 16:R430) -/

/-- Inputs 0 to 5 have a contact. -/
def sidebandListed (n : Nat) : Bool := decide (n < 6)

def srcSideband (n : Nat) : Nat := 0x040 + n
def srcComparator (m : Nat) : Nat := 0x050 + m

/-- An activation: counted, and an occurrence, or the start of a storm mask. -/
def State.activate (s : State) (n : Nat) : State :=
  let times := sget [] s.evt.sbTimes n
  let count := sget 0 s.evt.sbCount n + 1
  let storm := decide (64 ≤ times.length) && decide (s.now < times.getD 63 0 + msNs)
  let s := { s with evt := { s.evt with
      sbTimes := sset [] s.evt.sbTimes n ((s.now :: times).take 64), sbCount := sset 0 s.evt.sbCount n count
      sbMasked := if storm then s.evt.sbMasked ||| (1 <<< n) else s.evt.sbMasked } }
  if storm then s.post 0x0011 (srcSideband n) none (payload [(0, 1, n)])
  else s.post 0x0010 (srcSideband n) none (payload [(0, 8, count.toNat)])

/-- LEVEL of EVT_SB_STATE (14:Table 14.20): the inputs whose accepted level is the active one by ACTIVE_LOW; inputs without a contact have none (log entry 193). -/
def Evt.sbLevel (e : Evt) : BitVec 16 := (e.sbPin ^^^ e.sbActiveLow) &&& 0x003F

/-- The level of an input's contact changes and is accepted. -/
def Evt.sbFlip (e : Evt) (n : Nat) : Evt := { e with sbPin := e.sbPin ^^^ BitVec.twoPow 16 n }

/-- An enabled input's change to the active level is accepted. Under a storm mask the activation is ignored, but the level stands. -/
def State.sidebandActive (s : State) (n : Nat) : State :=
  if s.ao.railsOn ∧ sidebandListed n ∧ s.evt.sbEnable.getLsbD n ∧ s.evt.sbLevel.getLsbD n = false then
    let masked := s.evt.sbMasked.getLsbD n
    let s := { s with evt := s.evt.sbFlip n }
    if masked then s else s.activate n
  else s

def execSidebandActivation (n : Fin 16) (s : State) : Result := .next (s.sidebandActive n.val)

/-- A 16-bit set without one member. -/
def without16 (x : BitVec 16) (n : Nat) : BitVec 16 := x &&& ~~~(BitVec.twoPow 16 n)

def execSidebandInputInactive (n : Fin 16) (s : State) : Result :=
  if s.ao.railsOn ∧ s.evt.sbEnable.getLsbD n.val ∧ s.evt.sbLevel.getLsbD n.val = true then .next { s with evt := s.evt.sbFlip n.val }
  else .next s

/-- A storm mask ends 100 ms after its activation; the history is cleared. -/
def execStormMaskEnd (n : Fin 16) (s : State) : Result :=
  if s.evt.sbMasked.getLsbD n.val then
    let s := s.reach ((sget [] s.evt.sbTimes n.val).headD 0 + 100 * msNs)
    .next { s with evt := { s.evt with sbMasked := without16 s.evt.sbMasked n.val, sbTimes := sset [] s.evt.sbTimes n.val [] } }
  else .next s

end Sys2Proof.Machine
end

