-- ==== Sys2Proof/Machine/Power.lean ====
section
/-! DEFINITION. Power (16): states and transitions, cell starts and stretch, the always-on comparators and the main rails, sensors, throttle requests, the thermal trip and the flow warning. -/

namespace Sys2Proof.Machine

open Sys2Proof

def pwrOffset : Nat := 0x30000

/-! ## Requests and conditions (16:Table 16.2, R413) -/

/-- A traffic-generator run is in progress. -/
def State.generatorRuns (s : State) : Bool := s.stks.any (fun t => t.2.gens.any (fun g => g.2.busy))

/-- An entry of some epoch or base is ARRIVING. -/
def State.shardArrives (s : State) : Bool :=
  allHandles.any (fun h => (s.handle h).state == .filling &&
    (List.range (s.handle h).count).any (fun i => (s.shard (s.handle h) i).state == stArriving))

/-- REASON of a request for A2 or A3, 0 where its conditions hold. -/
def State.sleepReason (s : State) (req : Nat) : Nat :=
  let states := (List.range 8).map (fun n => (s.slot n).state)
  if states.any (fun st => st == .loading || st == .active || st == .draining) then 1
  else if s.glb.dma.any (fun c => c.2.busy) then 2
  else if s.shardArrives then 3
  else if !s.tst.running.isEmpty || s.generatorRuns then 4
  else if req = 3 ∧ states.any (fun st => st != .empty) = true then 5
  else 0

/-- Does a request name a state to enter from the present one? -/
def State.sleepsFrom (s : State) (req : Nat) : Bool :=
  match req, s.pwr.state with
  | 2, .a0 => true
  | 2, .a1 => true
  | 3, .a0 => true
  | 3, .a1 => true
  | 3, .a2 => true
  | _, _ => false

/-- A request acted on outside a transition. -/
def State.actOn (s : State) (req : Nat) : State :=
  if s.sleepsFrom req then
    let r := s.sleepReason req
    if r = 0 then
      { s with pwr := { s.pwr with trans := some ⟨s.pwr.state, if req = 2 then PowerState.a2 else PowerState.a3, 0x1FF⟩ } }
    else
      State.post { s with pwr := { s.pwr with req := 0, reason := BitVec.ofNat 3 r } } 0x6008 srcPower none (payload [(0, 1, r), (1, 1, req)])
  else if req < 2 then s.beginExit 0x1FF
  else s

/-- A write of REQ: 1 acts as 0. During a transition it waits, and the last value written stands. -/
def State.powerReq (s : State) (req : BitVec 2) : State :=
  let s := { s with pwr := { s.pwr with req := req } }
  if s.pwr.trans.isSome then { s with pwr := { s.pwr with laterReq := some req } } else s.actOn req.toNat

def execReqA0 (m : Master) (s : State) : Result := .next (s.command m pwrOffset (fun s => s.powerReq 0))
def execReqA2 (m : Master) (s : State) : Result := .next (s.command m pwrOffset (fun s => s.powerReq 2))
def execReqA3 (m : Master) (s : State) : Result := .next (s.command m pwrOffset (fun s => s.powerReq 3))

/-- No context executes: the tick clock is to stop. -/
def execEnterA1 (s : State) : Result :=
  if s.running ∧ s.pwr.state = .a0 ∧ s.pwr.trans = none ∧ s.sch.exec = none ∧ s.tst.running = [] ∧ s.generatorRuns = false then
    .next { s with pwr := { s.pwr with trans := some ⟨.a0, .a1, 0x1FC⟩ } }
  else .next s

/-- A context is due to execute, or a test or generator run needs the tick clock. -/
def execExitA1 (s : State) : Result :=
  if s.pwr.state = .a1 ∧ s.pwr.trans = none ∧ (s.dueSlot.isSome = true ∨ s.tst.running ≠ [] ∨ s.generatorRuns = true) then
    .next { s with pwr := { s.pwr with trans := some ⟨.a1, .a0, 0x1FD⟩ } }
  else .next s

/-- An exit from L1.2 that the host starts: PCIe is held in L1.2 in A3. -/
def execL12Exit (s : State) : Result :=
  let inA3 := match s.pwr.trans with
    | some t => t.new == .a3
    | none => s.pwr.state == .a3
  if s.ao.railsOn ∧ inA3 = true then .next (s.beginExit 0x1FE) else .next s

/-! ## What a transition leaves -/

def Cell.ungate (from_ to_ : BitVec 3) (c : Cell) : Cell := if c.power = from_ then { c with power := to_ } else c

/-- Ports into electrical idle, or off; those of a link die that does not run stay out of service. -/
def State.idlePorts (s : State) (st : PortState) : State :=
  State.rebuild ((List.range 36).foldl (fun s q =>
    s.modPort q (fun p => p.to (if p.ctlEnable && !p.held && s.dieState (24 + q / 6) == 0 then st else .disabled))) s)

/-- Every trained stack into self-refresh; its last interface training has completed all the same (09:Table 9.5). -/
def Stack.sleep (t : Stack) : Stack := if t.trained then { t with selfRefresh := true } else t

/-- Entry to A2 (16:R413): ports, cells, stacks. -/
def State.enterA2 (s : State) : State :=
  let s := s.idlePorts .detect
  { s with cells := smap .reset (fun c => { c with power := 0 }) s.cells, stks := smap .reset Stack.sleep s.stks }

/-- Entry to A3: the cells are off, and lose their scratchpads; the sensors without always-on supply are unpowered, so that their readings are invalid (16:R422). -/
def State.enterA3 (s : State) : State :=
  let s := s.idlePorts .disabled
  let s : State := { s with pwr := { s.pwr with
    sensors := s.pwr.sensors.filter (fun x => decide (40 ≤ x.1 ∧ x.1 ≤ 45)), flowSince := none, flowPosted := false } }
  { s with cells := smap .reset (fun c => { c.kept with inReset := c.inReset }) s.cells, stks := smap .reset Stack.sleep s.stks }

/-- Interface training of every stack whose base die runs (09:R247). -/
def State.trainAll (s : State) (lanes : List (Fin 8 × Fin 32 × Nat)) : State :=
  ((List.range 8).filter (fun k => s.dieState (16 + k) == 0)).foldl (fun s k => s.trainStack k (s.stack k).inService ((lanes.filter (fun x => x.1.val == k)).map (fun x => (x.2.1.val, x.2.2)))) s

/-- The ROM's measurement of the retained firmware differs: WAIT, with the other dies held in reset (16:R413, 15:R388). -/
def State.romDiffers (s : State) : State := State.holdDies { s with sec := { s.sec with boot := .wait, busy := false } }

def State.leaveA3 (s : State) (romMatches : Bool) (lanes : List (Fin 8 × Fin 32 × Nat)) : State :=
  if !s.running then s
  else if romMatches then (s.idlePorts .detect).trainAll lanes
  else s.romDiffers

/-- What the end of a transition does. -/
def State.settle (s : State) (t : Transition) (romMatches : Bool) (lanes : List (Fin 8 × Fin 32 × Nat)) : State :=
  match t.old, t.new with
  | .a0, .a1 => { s with cells := smap .reset (Cell.ungate 2 1) s.cells }
  | .a1, .a0 => { s with cells := smap .reset (Cell.ungate 1 2) s.cells }
  | _, .a2 => s.enterA2
  | _, .a3 => s.enterA3
  | .a2, _ => if s.running then s.trainAll lanes else s
  | .a3, _ => s.leaveA3 romMatches lanes
  | _, _ => s

/-- A transition completes: STATE, its event, and then the wake that came during an entry; a REQ written meanwhile is acted on outside a transition, so after the exit that a wake begins (log entry 195). -/
def State.completeTransition (s : State) (t : Transition) (romMatches : Bool) (lanes : List (Fin 8 × Fin 32 × Nat)) : State :=
  let wake := s.pwr.laterWake
  let req := s.pwr.laterReq
  let s : State := { s with pwr := { s.pwr with state := t.new, trans := none, laterWake := none, laterReq := none } }
  let s := (s.settle t romMatches lanes).stateChanged t
  let s := match wake with
    | none => s
    | some c => s.beginExit c
  let s := match req with
    | none => s
    | some r => if s.pwr.trans.isSome then { s with pwr := { s.pwr with laterReq := some r } } else s.actOn r.toNat
  -- tests that fell due in A2 start in A0
  s.startDeferred

def execPowerTransitionComplete (romMatches : Bool) (lanes : List (Fin 8 × Fin 32 × Nat)) (s : State) : Result :=
  match s.pwr.trans with
  | none => .next s
  | some t => .next (s.completeTransition t romMatches lanes)

/-! ## Cell starts (16:R414) -/

/-- The phase that comes next in the executing context: its phase number and pound. -/
def State.comingPhase (s : State) (w : Now) : Nat × Nat :=
  if s.sch.state = .boundary then (0, s.sch.pound)
  else if s.sch.phase + 1 < w.fold then (s.sch.phase + 1, s.sch.pound)
  else if s.sch.pound + 1 < w.g.pounds.length then (0, s.sch.pound + 1) else (0, 0)

/-- Does a cell issue work in a phase of a pound? -/
def State.worksAt (s : State) (w : Now) (key phase pound : Nat) : Bool :=
  (s.slot w.slot).place.bindings.any (fun b => cellKey b.die b.cell == key && b.phase == phase &&
    w.g.instrs.any (fun r => r.cell == b.logical && r.pound == pound && r.engine != 0))

/-- Will a cell want a shadow in the coming phase (13:R328)? -/
def State.wantsNext (s : State) (w : Now) (phase pound d c : Nat) : Bool :=
  let x := s.cell (cellKey d c)
  let n := x.workedPhases.toNat + (if x.worked then 1 else 0)
  (x.role == .enabled || x.role == .audit) && s.worksAt w (cellKey d c) phase pound && (x.late || n % 64 == c % 64)

/-- The spares of a die that are due to serve as shadows in the coming phase. -/
def State.sparesDue (s : State) (w : Now) (d : Nat) : List Nat :=
  let p := s.comingPhase w
  let want := (List.range 68).filter (s.wantsNext w p.1 p.2 d)
  let free := (List.range 68).filter (fun c => s.isSpare d c && (s.cell (cellKey d c)).shadowOf.isNone && !(s.cell (cellKey d c)).inReset)
  (free.take want.length).map (cellKey d)

/-- The cells under test. -/
def State.testCells (s : State) : List Nat :=
  (s.tst.running.filter (fun j => s.classOf j.id == 1)).map (fun j => cellKey j.unit.toNat j.cell.toNat)

/-- The cells that are to run: those of the executing or the due context, the spares due as shadows, and those under test. -/
def State.toRun (s : State) : List Nat :=
  let bound := match s.sch.exec with
    | some n => s.boundKeys n.val
    | none => match s.dueSlot with
      | some n => s.boundKeys n
      | none => []
  let spares := match s.nowAt with
    | some w => (List.range 16).flatMap (s.sparesDue w)
    | none => []
  sortBy (fun a b => decide (a ≤ b)) ((bound ++ spares ++ s.testCells).eraseDups)

/-- The waiting starts, in ascending die order, then in ascending cell order. -/
def State.waiting (s : State) : List Nat := s.toRun.filter (fun k => (s.cell k).power == 0 && (!(s.cell k).inReset || s.testCells.contains k))

/-- The starts that began within the last microsecond. -/
def Pwr.last (p : Pwr) (now : Nat) : List (Nat × Nat) := p.recent.filter (fun x => decide (now < x.1 + 1000))

def Pwr.dieLimit (p : Pwr) : Nat := if p.halved then 2 else 4
def Pwr.moduleLimit (p : Pwr) : Nat := if p.halved then 8 else 16

/-- May a start begin on a die now? -/
def State.budgetFor (s : State) (d : Nat) : Bool :=
  let l := s.pwr.last s.now
  decide (l.length < s.pwr.moduleLimit) && decide (l.countP (fun x => x.2 == d) < s.pwr.dieLimit)

/-- The start that comes next: the first waiting one that the budget lets begin. -/
def State.nextStart (s : State) : Option Nat := s.waiting.find? (fun k => s.budgetFor (k / 68))

/-- Are cells started now: in A0, or on the way there from A2 or A3? -/
def State.startsNow (s : State) : Bool :=
  match s.pwr.trans with
  | none => s.pwr.state == .a0
  | some t => t.new == .a0 && t.old != .a1

/-- The droop that a die measured during a start. -/
def State.droop (s : State) (d mV : Nat) : State :=
  if mV ≤ 30 then s else
  let s : State := { s with pwr := { s.pwr with lastDroop := s.now } }
  if s.pwr.halved then s
  else State.post { s with pwr := { s.pwr with halved := true, halvings := s.pwr.halvings + 1 } } 0x6009 srcPower none
    (payload [(0, 1, d), (2, 2, mV)])

def State.start (s : State) (k mV : Nat) : State :=
  let s := s.modCell k (fun c => { c with power := 2 })
  let s : State := { s with pwr := { s.pwr with starts := s.pwr.starts + 1, recent := s.pwr.last s.now ++ [(s.now, k / 68)] } }
  s.droop (k / 68) mV

/-- A waiting cell start begins: the one that is next in order. -/
def execCellStart (die : Fin 16) (cell : Fin 68) (droop : Nat) (s : State) : Result :=
  if s.startsNow ∧ s.nextStart = some (cellKey die.val cell.val) then .next (s.start (cellKey die.val cell.val) droop) else .next s

/-- 1 ms without a start droop has passed. -/
def execStartLimitRestore (s : State) : Result :=
  if s.pwr.halved then
    let s := s.reach (s.pwr.lastDroop + msNs)
    .next { s with pwr := { s.pwr with halved := false } }
  else .next s

/-! ## Stretch (16:R416, 07:R177) -/

/-- Does the tick clock run? -/
def State.tickRuns (s : State) : Bool := s.ao.railsOn && s.pwr.state == .a0

def execDroopTrip (die : Fin 16) (s : State) : Result :=
  if s.tickRuns ∧ s.dieState die.val = 0 then
    let t := s.pwr.tripped.filter (fun d => d != die.val)
    .next { s with pwr := { s.pwr with stretching := true, tripped := t ++ [die.val] } }
  else .next s

/-- Every detector has been clear for 64 periods: the stretched periods are counted. -/
def execStretchEnd (periods : Nat) (s : State) : Result :=
  if s.pwr.stretching then
    let n := s.sch.stretch + BitVec.ofNat 64 periods
    .next { s with pwr := { s.pwr with stretching := false, tripped := [] }, sch := { s.sch with stretch := n } }
  else .next s

/-! ## The always-on domain (16:R417 to R419) -/

/-- An occurrence while the main domains may be off: then its record reaches only the error log. -/
def State.postAlways (s : State) (code source : Nat) (p : BitVec 128) : State :=
  if s.ao.railsOn then s.post code source none p else s.logRecord (s.eventRecord code source none (severity code) p)

/-- Is a watched port not UP (16:Table 16.4, comparator 6)? -/
def State.signalWatched (s : State) : Bool := (List.range 36).any (fun q => s.pwr.sigdet.getLsbD q && (s.port q).state != .up)

/-- Can the condition of a comparator have become false past its hysteresis, with this reading (16:Table 16.4)? For 4, 5 and 6 only the pin knows. -/
def State.mayClear (s : State) (m : Nat) (reading : BitVec 32) : Bool :=
  let v := reading.toInt
  match m with
  | 0 => decide (46500 ≤ v ∧ v ≤ 58500)
  | 1 => decide (3150 ≤ v)
  | 2 => decide (v + 2000 ≤ Int.ofNat (s.pwr.inletLim.toNat * 1000))
  | 3 => decide (v + 2000 ≤ Int.ofNat (s.pwr.outletLim.toNat * 1000))
  | 7 => s.pwr.aoCmp == 0 || decide (s.now < s.pwr.aoCmp.toNat)
  | _ => true

/-- Can the condition of a comparator hold with this reading of its sensor (16:Table 16.4)? For 4 and 5 only the pin knows. -/
def State.mayOccur (s : State) (m : Nat) (reading : BitVec 32) : Bool :=
  let v := reading.toInt
  match m with
  | 0 => decide (v < 46000 ∨ 59000 < v)
  | 1 => decide (v < 3100)
  | 2 => decide (Int.ofNat (s.pwr.inletLim.toNat * 1000) < v)
  | 3 => decide (Int.ofNat (s.pwr.outletLim.toNat * 1000) < v)
  | 6 => s.signalWatched
  | 7 => s.pwr.aoCmp != 0
  | _ => true

/-- The occurrence's event and further action. Comparator 0 cuts the main rails: its record reaches only the log. Comparator 7 clears its compare value, so that its condition is false again. -/
def State.occur (s : State) (m : Nat) (reading : BitVec 32) : State :=
  let src := srcComparator m
  match m with
  | 0 =>
    let s := s.logRecord (s.eventRecord 0x6010 src none (severity 0x6010) (payload [(0, 1, 0), (4, 4, reading.toNat)]))
    if s.ao.railsOn then s.mainOff else s
  | 7 =>
    let s := s.reach s.pwr.aoCmp.toNat
    let s : State := { s with pwr := { s.pwr with aoCmp := 0 }, ao := { s.ao with cmpActive := s.ao.cmpActive &&& 0x7F } }
    s.postAlways 0x6011 src (payload [(0, 1, 7)])
  | _ =>
    if m < 4 then s.postAlways 0x6010 src (payload [(0, 1, m), (4, 4, reading.toNat)])
    else s.postAlways 0x6011 src (payload [(0, 1, m)])

/-- An enabled comparator's condition becomes true. -/
def State.comparatorTrue (s : State) (m : Nat) (reading : BitVec 32) : State :=
  if s.ao.aoPower ∧ (m < 2 ∨ s.pwr.cmpEn.getLsbD m = true) ∧ s.ao.cmpActive.getLsbD m = false ∧ s.mayOccur m reading = true then
    State.occur { s with ao := { s.ao with cmpActive := s.ao.cmpActive ||| BitVec.twoPow 8 m } } m reading
  else s

def execComparatorOccurrence (m : Fin 8) (reading : BitVec 32) (s : State) : Result := .next (s.comparatorTrue m.val reading)

/-- A comparator's condition becomes false. -/
def execComparatorConditionClears (c : CmpClear) (s : State) : Result :=
  if s.ao.aoPower ∧ s.mayClear c.m.val c.reading = true then
    .next { s with ao := { s.ao with cmpActive := s.ao.cmpActive &&& ~~~(BitVec.twoPow 8 c.m.val) } }
  else .next s

/-- What a comparator of a sensor reads: the reading that its sensor holds (16:Table 16.4). -/
def State.heldReading (s : State) (m : Nat) : BitVec 32 :=
  (s.sensor (match m with | 0 => 42 | 1 => 45 | 2 => 40 | _ => 41)).value

/-- An occurrence of a source, as the always-on domain latches it: of a sideband input or a comparator as its own command has it; of any other source with a record that is free, since the source alone does not say which of its events it is (log entry 200). -/
def State.occursAt (s : State) (source : Nat) : State :=
  if 0x40 ≤ source ∧ source < 0x50 then s.sidebandActive (source - 0x40)
  else if 0x50 ≤ source ∧ source < 0x58 then s.comparatorTrue (source - 0x50) (s.heldReading (source - 0x50))
  else
    let x := s.draw
    let y := x.1.draw
    let z := y.1.draw
    z.1.post (x.2.toNat % 65536) source none (y.2 ++ z.2)

/-- An occurrence of a watched source in A2 or A3 is latched and starts a wake (14:R382, 16:R412). -/
def execWake (source : BitVec 9) (s : State) : Result :=
  if s.ao.railsOn ∧ s.asleep ∧ s.evt.watches source.toNat then .next (s.occursAt source.toNat) else .next s

/-- The main input has stayed in range for 10 ms with always-on power good. -/
def execMainPowerRestore (s : State) : Result := if s.mayPower then .next (s.poweredOn 3 6) else .next s

/-- The always-on domain as it starts afresh: AO time 0, SRAM, cursors, marks and log cleared, main rails off. -/
def AlwaysOn.fresh (power : Bool) : AlwaysOn := { AlwaysOn.reset with resetKind := 0, resetCause := 0, railsOn := false, aoPower := power }

/-- Always-on power is lost: everything but the fuses is. -/
def State.allOff (s : State) : State := { s.mainOff with ao := AlwaysOn.fresh false, pwr := .reset, evt := .reset }

def execAlwaysOnPowerLoss (s : State) : Result := if s.ao.aoPower then .next s.allOff else .next s

def execAlwaysOnPowerApplied (s : State) : Result :=
  if s.ao.aoPower then .next s else .next { s with ao := AlwaysOn.fresh true }

/-! ## Sensors (16:R421, R422) -/

def State.setSensor (s : State) (n : Nat) (r : Reading) : State := { s with pwr := { s.pwr with sensors := sset ⟨false, 0⟩ s.pwr.sensors n r } }

/-- Is a sensor powered and sampled now: 40 to 45 from the always-on supply, the others in A0 to A2; a junction sensor, and a stack's sensor, while the rail of its die is on? -/
def State.sensorPowered (s : State) (n : Nat) : Bool :=
  if 40 ≤ n ∧ n ≤ 45 then s.ao.aoPower
  else s.ao.railsOn && s.pwr.state != .a3 && !(decide (n < 40) && s.dieState (if n < 32 then n else n - 16) == 2)

/-- The coolant flow estimate (16:R426), where it is valid: Pm in mW, the rise in m°C, the heat capacity in J/(L·K). -/
structure Flow where
  power : Nat
  rise : Nat
  cp : Nat
  deriving DecidableEq, Repr

/-- F in mL/min is 60,000 · Pm / (CP · rise): its integer part, whether it is exact, and whether it lies below 2.0 L/min. -/
def Flow.milli (f : Flow) : Nat := 60000 * f.power / (f.cp * f.rise)
def Flow.exact (f : Flow) : Bool := 60000 * f.power % (f.cp * f.rise) == 0
def Flow.low (f : Flow) : Bool := decide (60000 * f.power < 2000 * (f.cp * f.rise))

def State.flow (s : State) : Option Flow :=
  match (s.sensor 44).int, (s.sensor 40).int, (s.sensor 41).int with
  | some p, some i, some o =>
    if 1000000 ≤ p ∧ 2000 ≤ o - i then some ⟨p.toNat, (o - i).toNat, if s.pwr.cp = 0 then 4180 else s.pwr.cp.toNat⟩ else none
  | _, _, _ => none

/-- The value that sensor 46 shows: no rule says how F is rounded to whole mL/min, so an inexact one goes either way. -/
def State.flowReading (s : State) : State × Reading :=
  match s.flow with
  | none => (s, ⟨false, 0⟩)
  | some f =>
    if f.exact then (s, ⟨true, BitVec.ofNat 32 f.milli⟩)
    else
      let x := s.draw
      (x.1, ⟨true, BitVec.ofNat 32 (f.milli + x.2.toNat % 2)⟩)

/-- The start and the end of a low-flow interval at a sample. -/
def Pwr.flowSample (p : Pwr) (low : Bool) (now : Nat) : Pwr :=
  if low then { p with flowSince := some (p.flowSince.getD now) } else { p with flowSince := none, flowPosted := false }

/-- A sample of F. It is invalid where the reference test of sensor 46 has failed (16:R422). -/
def State.sampleFlow (s : State) : State × Reading :=
  let low := s.flow.any Flow.low && !s.pwr.sensorBad.contains 46
  State.flowReading { s with pwr := s.pwr.flowSample low s.now }

/-- What a new reading brings: HOT of a stack above 85 °C and below 80 °C (09:R246), the fall of the main input below 20 V (16:R425). -/
def State.applySample (s : State) (n : Nat) (r : Reading) : State :=
  match r.int with
  | none => s
  | some v =>
    if 32 ≤ n ∧ n < 40 then
      if 85000 < v then s.modStack (n - 32) (fun t => { t with hot := true })
      else if v < 80000 then s.modStack (n - 32) (fun t => { t with hot := false }) else s
    else if n = 42 ∧ v < 20000 then { s with ao := { s.ao with inputFell := true } }
    else s

/-- A powered sensor's reading that changes from valid to invalid posts 0x6006. -/
def State.storeSample (s : State) (n : Nat) (r : Reading) : State :=
  let was := (s.sensor n).valid
  let s := s.setSensor n r
  if was && !r.valid then s.postAlways 0x6006 srcPower (payload [(0, 1, n)]) else s

/-- A sample: `none` where the reading lies outside the sensor's range. -/
def execSensorSample (n : Fin 82) (reading : Option (BitVec 32)) (s : State) : Result :=
  if n.val = 47 then .next s
  else if s.sensorPowered n.val then
    let given : Reading := match reading with
      | some v => ⟨true, v⟩
      | none => ⟨false, 0⟩
    let x := if n.val = 46 then s.sampleFlow else (s, given)
    let r : Reading := if s.pwr.sensorBad.contains n.val then ⟨false, 0⟩ else x.2
    .next ((x.1.storeSample n.val r).applySample n.val r)
  else
    let s := s.setSensor n.val ⟨false, 0⟩
    .next (if n.val = 46 then { s with pwr := s.pwr.flowSample false s.now } else s)

/-- F has been valid and low at every sample for 10 s: 0x6005, once for the interval. -/
def execFlowWarning (s : State) : Result :=
  match s.pwr.flowSince with
  | none => .next s
  | some t =>
    if s.pwr.flowPosted ∨ (s.sensor 46).valid = false ∨ s.sensorPowered 46 = false then .next s else
    let s := s.reach (t + 10000 * msNs)
    let f := (s.sensor 46).value.toNat
    .next (State.post { s with pwr := { s.pwr with flowPosted := true } } 0x6005 srcPower none (payload [(0, 4, f)]))

/-! ## Throttle requests (16:R423, R424) -/

/-- The hottest valid reading of a group. -/
def State.hottest (s : State) (first count : Nat) : Option Int :=
  ((List.range count).filterMap (fun i => (s.sensor (first + i)).int)).foldl (fun a v => some (match a with
    | none => v
    | some w => max w v)) none

/-- Doubles, halves or keeps a request. -/
def throttle (old : BitVec 16) (up down : Bool) : BitVec 16 :=
  if up then BitVec.ofNat 16 (min 65535 (max 1 (2 * old.toNat)))
  else if down then BitVec.ofNat 16 (old.toNat / 2) else old

def thermalUp (h d : Option Int) : Bool := h.any (fun v => decide (105000 ≤ v)) || d.any (fun v => decide (95000 ≤ v))
def thermalDown (h d : Option Int) : Bool := h.any (fun v => decide (v < 100000)) && d.any (fun v => decide (v < 90000))

def execThermalUpdate (s : State) : Result :=
  if s.tickRuns then
    let h := s.hottest 0 32
    let d := s.hottest 32 8
    let old := s.sch.thermalQ
    let t := throttle old (thermalUp h d) (thermalDown h d)
    let s : State := { s with sch := { s.sch with thermalQ := t } }
    .next (if old = 0 ∧ t ≠ 0 then s.post 0x6001 srcPower none (payload [(0, 2, t.toNat)]) else s)
  else .next s

/-- PWR_CAP in force, in mW. -/
def Pwr.capMilli (p : Pwr) : Nat := min 3600 (max 1200 p.cap.toNat) * 1000

/-- The average of some readings, kept exact: their sum and their number, which is not 0. -/
structure Mean where
  sum : Int
  count : Nat
  deriving DecidableEq, Repr

def Mean.above (m : Mean) (x : Nat) : Bool := decide (Int.ofNat (x * m.count) < m.sum)
def Mean.below (m : Mean) (x : Nat) : Bool := decide (m.sum < Int.ofNat (x * m.count))

/-- The average over the last 1 ms of a sensor that is sampled every 1 ms (16:R421): the reading held, with any further ones of that time; missing where the held one is not valid. -/
def State.meanOf (s : State) (n : Nat) (further : List Nat) : Option Mean :=
  (s.sensor n).int.map (fun v => ⟨v + Int.ofNat further.sum, further.length + 1⟩)

def powerUp (cap : Nat) (power current : Option Mean) : Bool := power.any (·.above cap) || current.any (·.above 76000)
def powerDown (cap : Nat) (power current : Option Mean) : Bool :=
  power.any (fun p => ({ p with sum := 100 * p.sum } : Mean).below (95 * cap)) && current.any (·.below 72000)

/-- Pm in mW of sensor 44 and Im in mA of sensor 43. -/
def execPowerUpdate (power current : List Nat) (s : State) : Result :=
  if s.ao.railsOn ∧ s.pwr.state ≠ .a3 then
    let old := s.sch.powerQ
    let pm := s.meanOf 44 power
    let im := s.meanOf 43 current
    let p := throttle old (powerUp s.pwr.capMilli pm im) (powerDown s.pwr.capMilli pm im)
    let s : State := { s with sch := { s.sch with powerQ := p } }
    .next (if old = 0 ∧ p ≠ 0 then s.post 0x6002 srcPower none (payload [(0, 2, p.toNat)]) else s)
  else .next s

/-! ## The thermal trip (16:R425) -/

/-- A trip detector reaches 115 °C: the rails go off, THERMTRIP_N goes low, 0x6003 reaches only the log. -/
def execThermtrip (die : Fin 32) (s : State) : Result :=
  if s.ao.railsOn then
    let s := s.logRecord (s.eventRecord 0x6003 srcPower none (severity 0x6003) (payload [(0, 1, die.val)]))
    let s := (s.emit .thermtrip).mainOff
    .next { s with ao := { s.ao with tripLatched := true, inputFell := false } }
  else .next s

end Sys2Proof.Machine
end

