-- ==== Sys2Proof/Machine/Security.lean ====
section
/-! DEFINITION. Start-up and security (15): signed objects, the boot states, test packs, attestation, fuses, lifecycle and scan. -/

namespace Sys2Proof.Machine

open Sys2Proof

def secOffset : Nat := 0x40000

/-! ## Identification registers (14:Tables 14.23, 14.24) -/

def roleCode (r : Role) : Nat :=
  match r with
  | .spare => 0
  | .enabled => 1
  | .audit => 2
  | .out => 3

def State.glbId (s : State) : Nat :=
  fld 0x3216 16 48 + fld 1 8 40 + fld s.fuses.grade.toNat 4 36 + fld s.fuses.stepMajor.toNat 4 32 + fld s.fuses.stepMinor.toNat 4 28

/-- The capabilities of the PCIe function (14:Table 14.2). -/
inductive PcieCapability where
  | pciExpress
  | powerManagement
  | msix
  | aer
  | resizableBar
  /-- Device Serial Number, which is GLB_UID. -/
  | serialNumber (uid : Word)
  | secondaryPciExpress
  | physicalLayer16
  | physicalLayer32
  | physicalLayer64
  | laneMargining
  | dataLinkFeature
  | l1Substates
  deriving DecidableEq, Repr

/-- What the PCIe function presents of itself in configuration space (14:R357, Table 14.2). -/
structure PcieIdentity where
  vendor : BitVec 16
  device : BitVec 16
  revision : BitVec 8
  /-- 0x0001 for grade F, 0x0002 for grade S; the spec names no other grade. -/
  subsystem : BitVec 16
  classCode : BitVec 24
  maxPayload : Nat
  maxReadRequest : Nat
  bar0Size : Nat
  bar2Size : Nat
  bar2Prefetchable : Bool
  msixVectors : Nat
  msixTable : Nat
  msixPba : Nat
  msixEnable : Bool
  msixMask : Bool
  interruptPin : Nat
  physicalFunctions : Nat
  virtualFunctions : Nat
  d3hot : Bool
  capabilities : List PcieCapability
  deriving DecidableEq, Repr

def State.pcieIdentity (s : State) : PcieIdentity :=
  { vendor := 0x1F6B, device := 0x3216, revision := BitVec.ofNat 8 (s.glbId / 2 ^ 28), subsystem := BitVec.ofNat 16 (s.fuses.grade.toNat + 1),
    classCode := 0x120000, maxPayload := 512, maxReadRequest := 4096, bar0Size := 2 ^ 26, bar2Size := s.glb.bar2Size, bar2Prefetchable := true, msixVectors := 4
    msixTable := 0x3FF0000, msixPba := 0x3FF8000, msixEnable := s.glb.msixEnable, msixMask := s.glb.msixMask, interruptPin := 0, physicalFunctions := 1
    virtualFunctions := 0, d3hot := s.glb.d3
    capabilities := [.pciExpress, .powerManagement, .msix, .aer, .resizableBar, .serialNumber s.fuses.uid, .secondaryPciExpress, .physicalLayer16,
      .physicalLayer32, .physicalLayer64, .laneMargining, .dataLinkFeature, .l1Substates] }

/-- How many cells of the module have a property. -/
def State.countCells (_s : State) (p : Nat → Nat → Bool) : Nat :=
  ((List.range 16).map (fun d => (List.range 68).countP (p d))).sum

def State.runningDies (s : State) : Nat := (List.range 16).countP (fun d => s.dieState d == 0)

/-- GLB_ROSTER; before start-up has formed a roster no cell is enabled or spare (log entry 7). -/
def State.glbRoster (s : State) : Nat :=
  let role (d c : Nat) : Role := (s.cell (cellKey d c)).role
  fld s.runningDies 8 48 + fld (s.countCells (fun d c => role d c == .out)) 16 32 +
  (if s.running then fld (s.countCells s.isSpare) 16 16 + fld (s.countCells (fun d c => role d c == .enabled || role d c == .audit)) 16 0 else 0)

/-! ## Signed objects (15:R386, R387) -/

/-- The header of a signed object (15:Table 15.2), bit 0 first. -/
structure ObjHead where
  pubkey : Nat
  uidBind : Nat
  length : Nat
  version : Nat
  svn : Nat
  keySlot : Nat
  type : Nat
  format : Nat
  entry : Nat
  rsvd : Nat
  magic : Nat
  deriving DecidableEq, Repr

def objHead (b : Bytes) : ObjHead :=
  let x := leNat (b.take 128)
  { pubkey := bits x 1023 512, uidBind := bits x 511 448, length := bits x 447 416, version := bits x 415 384, svn := bits x 383 376
    keySlot := bits x 375 368, type := bits x 367 360, format := bits x 359 352, entry := bits x 351 320, rsvd := bits x 319 32, magic := bits x 31 0 }

def sigBytes : Nat := 29792

/-- The body of an object, between its header and its signature. -/
def objBody (b : Bytes) : Bytes := (b.drop 128).take (b.length - 128 - sigBytes)

/-- The bounds of LENGTH for a TYPE (15:R387 item 1). -/
def lengthOk (type n : Nat) : Bool :=
  match type with
  | 1 => decide (29920 ≤ n ∧ n ≤ 2 ^ 21)
  | 2 => decide (29920 ≤ n ∧ n ≤ 2 ^ 20)
  | 3 => n == 29921
  | 4 => decide (29920 ≤ n ∧ n ≤ 2 ^ 16)
  | 5 => decide (29920 ≤ n ∧ n ≤ 2 ^ 16)
  | _ => false

/-- Reserved bits are zero; ENTRY is zero but for firmware. -/
def ObjHead.reservedZero (h : ObjHead) : Bool := h.rsvd == 0 && (h.type == 1 || h.entry == 0)

def Fuses.keyHash (f : Fuses) (k : Nat) : BitVec 512 :=
  match k with
  | 0 => f.keyHash0
  | 1 => f.keyHash1
  | 2 => f.keyHash2
  | _ => 0

/-- A key slot is programmed and not revoked. -/
def Fuses.slotGood (f : Fuses) (k : Nat) : Bool := decide (k < 3) && f.keyHash k != 0 && !f.revoked.getLsbD k

/-- A key slot is programmed. -/
def Fuses.slotProg (f : Fuses) (k : Nat) : Bool := decide (k < 3) && f.keyHash k != 0

/-- Item 3: the slot is good and holds the hash of the signer's key. Firmware in MANUFACTURE may be signed by any programmed slot (`any`), a revoked one too (15:Table 15.6; log entry 198). -/
def Fuses.keyOk (f : Fuses) (any : Bool) (h : ObjHead) : Bool :=
  (f.slotGood h.keySlot || (any && f.slotProg h.keySlot)) && shake512 (leBytes 64 h.pubkey) == f.keyHash h.keySlot

/-- Item 6. -/
def signatureOk (h : ObjHead) (b : Bytes) : Bool :=
  Config.slhVerify (leBytes 64 h.pubkey) (BitVec.ofNat 8 h.type) (b.take (b.length - sigBytes)) (b.drop (b.length - sigBytes))

/-- The REASON of the first item of 15:R387 that fails for an object of the expected TYPE, 0 where all hold. -/
def State.verify (s : State) (type : Nat) (b : Bytes) : Nat :=
  let h := objHead b
  if h.magic ≠ 0x5746484B ∨ h.format ≠ 1 ∨ h.reservedZero = false ∨ h.length ≠ b.length ∨ lengthOk h.type b.length = false then 2
  else if h.type ≠ type then 3
  else if s.fuses.keyOk (type == 1 && s.sec.life == 0) h = false then 4
  else if h.uidBind ≠ 0 ∧ h.uidBind ≠ s.fuses.uid.toNat then 5
  else if h.svn < s.fuses.svn then 6
  else if signatureOk h b = false then 7
  else 0

/-- An object fetched at once: `none`, or a length other than SEC_OBJ_LEN, is a fetch error. -/
def State.fetched (s : State) (object : Option Bytes) : Option Bytes := object.filter (fun b => b.length == s.sec.objLen.toNat)

/-- SEC_STATUS after a command: its code, its REASON. -/
def State.secResult (s : State) (cmd reason : Nat) : State :=
  { s with sec := { s.sec with lastCmd := BitVec.ofNat 4 cmd, reason := BitVec.ofNat 8 reason } }

/-! ## The boot states (15:R388 to R390) -/

/-- A reset that is none of 13:Table 13.3 ends when the boot ROM has started: the error log says so (13:R348, R352). -/
def State.resetEnds (s : State) : State := if s.ao.resetKind = 1 ∧ s.ao.resetCause ≠ 5 then s else s.logReset 0x5011 (if s.ao.resetKind = 1 then 31 else 30)

/-- The ROM is ready: the fuses are read. A control-die SRAM that fails its MBIST makes the ROM enter FAILED. -/
def execRomReady (mbistPass : Bool) (s : State) : Result :=
  if s.ao.railsOn ∧ s.sec.boot = .rom then
    if mbistPass then .next (State.resetEnds { s with sec := { s.sec with boot := .wait } }) else .next s.enterFailed
  else .next s

/-- A refused LOAD_FW: counted, posted and logged. -/
def State.fwRefused (s : State) (reason : Nat) : State :=
  let s := s.secResult 1 reason
  State.post { s with sec := { s.sec with fwFails := s.sec.fwFails + 1 } } 0x7002 srcSec none (payload [(0, 1, reason)])

def State.loadFw (s : State) : State :=
  if s.sec.busy ∨ s.sec.boot ≠ .wait then s.fwRefused 1
  else
    let s := s.secResult 1 0
    { s with sec := { s.sec with busy := true, boot := .fetch, fetchLen := s.sec.objLen.toNat } }

def execLoadFw (m : Master) (s : State) : Result := .next (s.command m (secOffset + 8) (fun s => s.loadFw))

/-! ### INIT: self-test, identity, training (15:R389, R396, R403) -/

/-- The 96 derivation bytes of the identity key. -/
def idBytes (f : Fuses) (svn : Nat) : Bytes := shake256 96 ([0x49, 0x44] ++ leBytes 32 f.seed.toNat ++ [BitVec.ofNat 8 svn])

/-- The identity, unless SEED_LOCK bars the seed or the module is in RETURN (15:Table 15.6). -/
def State.derive (s : State) (svn : Nat) : State :=
  if s.sec.seedLock ∨ s.sec.life = 2 then s else
  let b := idBytes s.fuses svn
  { s with sec := { s.sec with
      idSeed := BitVec.ofNat 768 (leNat b), idKey := BitVec.ofNat 512 (leNat ((Config.slhPublicKey b).take 64)) } }

/-- A failed boot test: which test and with what result is free. -/
def State.bootFailure (s : State) (unit cell : Nat) : State :=
  let x := s.draw
  let y := x.1.draw
  let s := y.1
  State.post { s with tst := { s.tst with fails := s.tst.fails + 1 } } 0x7011 srcTest none
    (payload [(0, 4, x.2.toNat), (4, 1, unit), (5, 1, cell), (8, 8, y.2.toNat)])

/-- How many units the boot self-test runs a record on: in-service units of classes 1, 2, 3 (KIND 1 and 2), 6, 7 and 8. -/
def State.bootUnits (s : State) (r : TestRec) : Nat :=
  if !s.steppingOk r then 0 else
  match r.cls.toNat with
  | 1 => s.countCells (fun d c => s.dieState d != 2 && !s.ao.oos.contains (cellKey d c))
  | 2 => (List.range 8).countP (fun k => s.dieState (16 + k) != 2)
  | 3 => (List.range 6).countP (fun k => s.dieState (24 + k) != 2)
  | 6 => 17
  | 7 => 81
  | 8 => 1
  | _ => 0

/-- The dies leave reset: those whose rail is off stay off, base and link dies that fail their test stay in reset with state 3. -/
def State.releaseDies (s : State) (bad : List (Fin 32)) : State :=
  let s := (List.range 30).foldl (fun s d =>
    if s.dieState d = 2 then s else s.setDieState d (if 16 ≤ d ∧ bad.any (fun x => x.val == d) = true then 3 else 0)) s
  (bad.filter (fun d => decide (16 ≤ d.val ∧ d.val < 30) && s.dieState d.val == 3)).foldl (fun s d => s.bootFailure d.val 0) s

/-- The cells leave reset, those marked out of service excepted; cells that fail their test go out of service. -/
def State.releaseCells (s : State) (bad : List (Fin 16 × Fin 68)) : State :=
  let s := (List.range 16).foldl (fun s d =>
    if s.dieState d = 0 then s.dieCells d (fun k c => { c with inReset := s.ao.oos.contains k }) else s) s
  (bad.filter (fun x => s.dieState x.1.val == 0 && !s.ao.oos.contains (cellKey x.1.val x.2.val))).foldl (fun s x =>
    (s.bootFailure x.1.val x.2.val).cellOut (cellKey x.1.val x.2.val)) s

def State.releaseSensors (s : State) (bad : List (Fin 82)) : State :=
  (bad.filter (fun n => n.val != 47)).foldl (fun s n =>
    let s := s.bootFailure n.val 0
    State.storeSample { s with pwr := { s.pwr with sensorBad := s.pwr.sensorBad.filter (fun k => k != n.val) ++ [n.val] } } n.val ⟨false, 0⟩) s

/-- PLLs 2 to 16 that fail their boot test; PLLs 0 and 1 are essential. -/
def State.pllFailures (s : State) (bad : List (Fin 17)) : State :=
  ((bad.eraseDups).filter (fun k => decide (2 ≤ k.val))).foldl (fun s k => s.bootFailure k.val 0) s

/-- Interface training, and the zero-fill of the stacks in service after a power-on reset: a stack in self-refresh has kept its contents (09:R247, R248). -/
def State.startStacks (s : State) (lanes : List (Fin 8 × Fin 32 × Nat)) : State :=
  (List.range 8).foldl (fun s k =>
    if s.dieState (16 + k) = 0 then
      let asleep := (s.stack k).selfRefresh
      let s := s.trainStack k true ((lanes.filter (fun x => x.1.val == k)).map (fun x => (x.2.1.val, x.2.2)))
      if s.ao.resetKind = 1 ∨ asleep ∨ !(s.stack k).inService then s else s.zeroStack k
    else s) s

/-- Ports leave DISABLED (11:Table 11.5). -/
def State.startPorts (s : State) : State :=
  (List.range 36).foldl (fun s q =>
    if s.dieState (24 + q / 6) = 0 then s.modPort q (fun p => if p.ctlEnable then p.to .detect else p) else s) s

/-- The firmware starts at ENTRY, and brings up the package. -/
def State.beginInit (s : State) (b : Bytes) (found : BootFindings) : State :=
  let h := objHead b
  let s : State := { s with sec := { s.sec with
      boot := .init, reason := 0, fwVersion := BitVec.ofNat 32 h.version, fwSvn := BitVec.ofNat 8 h.svn, keySlot := BitVec.ofNat 2 h.keySlot
      fwMeas := shake512 b } }
  let table := (Config.builtinTests (objBody b)).map testRec
  let runs := (table.map s.bootUnits).sum
  let s : State := { s with tst := { s.tst with table := table, runs := s.tst.runs + BitVec.ofNat 64 runs } }
  let s := ((((s.derive h.svn).releaseDies found.badDies).releaseCells found.badCells).releaseSensors found.badSensors).pllFailures found.badPlls
  (s.startStacks found.lanes).startPorts

/-- LOAD_FW ends with a refusal: back in WAIT. -/
def State.fwBack (s : State) (reason : Nat) : State := State.fwRefused { s with sec := { s.sec with boot := .wait, busy := false, object := [] } } reason

/-- The verification of the fetched object ends: it is started at ENTRY or refused. -/
def State.fwVerified (s : State) (found : BootFindings) : State :=
  let b := s.sec.object
  let r := s.verify 1 b
  if r = 0 then State.beginInit { s with sec := { s.sec with object := [] } } b found else s.fwBack r

/-- The object arrives and is in verification; its verification ends with the same command or with the next one. -/
def execFwFetchComplete (fetch : FwFetch) (found : BootFindings) (s : State) : Result :=
  match s.sec.boot with
  | .fetch => match fetch.object.filter (fun b => b.length == s.sec.fetchLen) with
    | none => .next (s.fwBack 8)
    | some b =>
      let s : State := { s with sec := { s.sec with boot := .verify, object := b } }
      .next (if fetch.verified then s.fwVerified found else s)
  | .verify => .next (s.fwVerified found)
  | .rom => .next s
  | .wait => .next s
  | .init => .next s
  | .running => .next s
  | .failed => .next s

/-- Start-up completes, or an essential die (30, 31) or PLL (32, 33 for 0, 1) has failed. -/
def execInitComplete (essentialFailed : Option (Fin 34)) (s : State) : Result :=
  if s.sec.boot = .init then
    match essentialFailed with
    | none =>
      let s := s.formRoster.noSpareEvents
      let s : State := { s with tst := s.tst.heldFrom (s.tst.table.map (·.id)) s.now }
      .next (State.post { s with sec := { s.sec with boot := .running, busy := false } } 0x7001 srcSec none
        (payload [(0, 4, s.sec.fwVersion.toNat), (4, 1, s.sec.fwSvn.toNat)]))
    | some k =>
      if k.val < 30 then .next s
      else if k.val < 32 then .next ((s.bootFailure k.val 0).essential k.val 0xFF)
      else .next ((s.bootFailure (k.val - 32) 0).essential 0xFF (k.val - 32))
  else .next s

/-! ## Test packs (15:R398 to R400) -/

/-- The records of a pack, as numbers; a body that does not hold the n records of its header gives none. -/
def packRecords (body : Bytes) : Option (List Nat) :=
  let n := leNat (body.take 4)
  if body.length = 16 + 64 * n ∧ (body.drop 4).take 12 = List.replicate 12 0 then
    some ((List.range n).map (fun i => leNat ((body.drop (16 + 64 * i)).take 64)))
  else none

/-- Is a record one that a pack may hold? -/
def packRecordOk (x : Nat) : Bool :=
  let r := testRec x
  decide (0x10000 ≤ r.id.toNat) && bits x 255 0 == 0 && pairOk r.kind.toNat r.cls.toNat

/-- A record replaces a held one with its TEST_ID, or is added. -/
def addRecord (t : List TestRec) (r : TestRec) : List TestRec :=
  if t.any (fun q => q.id == r.id) then t.map (fun q => if q.id = r.id then r else q) else t ++ [r]

/-- The test table with a pack's records, none where the pack is refused with REASON 10. -/
def packTable (t : List TestRec) (body : Bytes) : Option (List TestRec) :=
  match packRecords body with
  | none => none
  | some l =>
    if l.all packRecordOk then
      let u := (l.map testRec).foldl addRecord t
      if u.length ≤ 4096 then some u else none
    else none

def State.packRefused (s : State) (reason : Nat) : State := (s.secResult 2 reason).post 0x7004 srcSec none 0

/-- The tests that a pack brings. -/
def packIds (body : Bytes) : List (BitVec 32) := ((packRecords body).getD []).map (fun x => (testRec x).id)

/-- The pack's chain: SHAKE256 of the old chain and the measurement. -/
def extendChain (chain : BitVec 512) (object : Bytes) : BitVec 512 := shake512 (leBytes 64 chain.toNat ++ leBytes 64 (shake512 object).toNat)

def State.loadPack (s : State) (object : Option Bytes) : State :=
  if s.sec.busy ∨ s.sec.boot ≠ .running then s.packRefused 1 else
  match s.fetched object with
  | none => s.packRefused 8
  | some b =>
    let r := s.verify 2 b
    if r ≠ 0 then s.packRefused r else
    match packTable s.tst.table (objBody b) with
    | none => s.packRefused 10
    | some t =>
      let s := s.secResult 2 0
      State.post { s with
        sec := { s.sec with packChain := extendChain s.sec.packChain b }, tst := { s.tst with table := t, packs := s.tst.packs + 1 }.heldFrom (packIds (objBody b)) s.now } 0x7003 srcSec none 0

def execLoadPack (m : Master) (object : Option Bytes) (s : State) : Result :=
  .next (s.command m (secOffset + 8) (fun s => s.loadPack object))

/-! ## Attestation (15:R397) -/

def reportBytes : Nat := 51600

/-- The role map of a die. -/
def State.roleBytes (s : State) (d : Nat) : Bytes :=
  leBytes 17 ((List.range 68).foldl (fun a c => a + roleCode (s.cell (cellKey d c)).role * 4 ^ c) 0)

/-- The entry of a slot. -/
def State.slotBytes (s : State) (n : Nat) : Bytes :=
  let sl := s.slot n
  if sl.state = .empty then List.replicate 136 0
  else [BitVec.ofNat 8 (slotCode sl.state), s.gen n] ++ List.replicate 6 0 ++ leBytes 64 sl.progDigest.toNat ++ leBytes 64 sl.structDigest.toNat

/-- Bytes 0 to 1,743 of the report (15:Table 15.7). -/
def State.reportBody (s : State) : Bytes :=
  leBytes 4 0x5441484B ++ leBytes 4 reportBytes ++ leBytes 64 s.sec.nonce.toNat ++ leBytes 8 s.fuses.uid.toNat ++ leBytes 8 s.glbId ++
  leBytes 8 s.glbRoster ++ leBytes 8 s.flt.dieState.toNat ++ [BitVec.ofNat 8 s.sec.life.toNat, BitVec.ofNat 8 s.fuses.svn, s.sec.fwSvn, s.tst.packs] ++
  List.replicate 4 0 ++ leBytes 8 s.ao.time.toNat ++ leBytes 8 s.sec.reportSeq.toNat ++ leBytes 64 s.sec.idKey.toNat ++
  leBytes 64 s.fuses.romMeas.toNat ++ leBytes 64 s.sec.fwMeas.toNat ++ leBytes 64 s.sec.packChain.toNat ++
  (List.range 16).flatMap s.roleBytes ++ (List.range 8).flatMap s.slotBytes

/-- Why an ATTEST is refused, 0 where it is admitted. -/
def State.attestReason (s : State) : Nat :=
  let a := s.sec.reportAddr.toNat
  if s.sec.seedLock then 11
  else if s.sec.busy ∨ s.sec.boot ≠ .running then 1
  else if s.sec.life = 2 then 9
  else if a % 4096 ≠ 0 ∨ validRange a reportBytes = false ∨ clearOfDump a reportBytes = false then 12
  else 0

def State.attest (s : State) : State :=
  let r := s.attestReason
  let x := s.secResult 3 r
  if r ≠ 0 then x else
  { x with sec := { x.sec with busy := true, report := some ⟨s.sec.reportAddr.toNat, s.reportBody⟩ } }

def execAttest (m : Master) (s : State) : Result := .next (s.command m (secOffset + 8) (fun s => s.attest))

/-- The report is signed with the identity key and written. -/
def State.writeReport (s : State) (r : Report) : State :=
  let sig := Config.slhSign (leBytes 96 s.sec.idSeed.toNat) 0xA0 r.body
  let n := reportBytes - r.body.length
  let s := s.writeOwn r.addr (r.body ++ (sig ++ List.replicate n 0).take n)
  State.post { s with sec := { s.sec with busy := false, report := none, reportSeq := s.sec.reportSeq + 1 } } 0x7008 srcSec none 0

def execAttestReportWritten (s : State) : Result :=
  match s.sec.report with
  | none => .next s
  | some r => .next (s.writeReport r)

/-! ## Fuses: security version, key slots, lifecycle (15:R391 to R394) -/

def State.commitSvn (s : State) : State :=
  if s.sec.busy then s.secResult 4 1 else
  let s := s.secResult 4 0
  State.post { s with fuses := { s.fuses with svn := max s.fuses.svn (min 64 s.sec.fwSvn.toNat) } } 0x7005 srcSec none 0

def execCommitSvn (m : Master) (s : State) : Result := .next (s.command m (secOffset + 8) (fun s => s.commitSvn))

def State.revoke (s : State) (object : Option Bytes) : State :=
  if s.sec.busy then s.secResult 5 1 else
  match s.fetched object with
  | none => s.secResult 5 8
  | some b =>
    let r := s.verify 3 b
    if r ≠ 0 then s.secResult 5 r else
    let k := leNat ((objBody b).take 1)
    if 3 ≤ k ∨ k = (objHead b).keySlot then s.secResult 5 4 else
    let s := s.secResult 5 0
    State.post { s with fuses := { s.fuses with revoked := s.fuses.revoked ||| BitVec.twoPow 3 k } } 0x7006 srcSec none 0

def execRevoke (m : Master) (object : Option Bytes) (s : State) : Result := .next (s.command m (secOffset + 8) (fun s => s.revoke object))

/-- A transition is fused; the lifecycle in force stays until the next reset. -/
def State.fuseLife (s : State) (ret : Bool) : State :=
  let f : Fuses := if ret then { s.fuses with ret := true } else { s.fuses with field := true }
  (State.secResult { s with fuses := f } 6 0).post 0x7007 srcSec none 0

def State.lifecycle (s : State) (object : Option Bytes) : State :=
  if s.sec.busy then s.secResult 6 1
  else if s.sec.life = 0 then s.fuseLife false
  else if s.sec.life = 2 then s.secResult 6 9
  else match s.fetched object with
    | none => s.secResult 6 8
    | some b =>
      let r := s.verify 4 b
      if r ≠ 0 then s.secResult 6 r
      else if (objHead b).uidBind ≠ s.fuses.uid.toNat then s.secResult 6 5
      else s.fuseLife true

def execLifecycle (m : Master) (object : Option Bytes) (s : State) : Result := .next (s.command m (secOffset + 8) (fun s => s.lifecycle object))

/-! ## Scan (15:R395) -/

/-- The secrets and the firmware are cleared, SEED_LOCK and SCAN_EN set. -/
def Sec.scanned (c : Sec) : Sec :=
  { c with
    busy := false, idKey := 0, idSeed := 0, fwMeas := 0, fwVersion := 0, fwSvn := 0, keySlot := 0, packChain := 0, nonce := 0, report := none
    seedLock := true, scanEn := true }

def State.scan (s : State) : State :=
  if s.sec.busy then s.secResult 7 1
  else if s.sec.life = 1 then s.secResult 7 9
  else
    let s := s.secResult 7 0
    let s : State := { s with sec := s.sec.scanned, tst := { s.tst with busy := false, table := [], packs := 0, deferred := [], running := [] } }
    (s.post 0x7014 srcSec none 0).enterFailed

def execScan (m : Master) (s : State) : Result := .next (s.command m (secOffset + 8) (fun s => s.scan))

end Sys2Proof.Machine
end

