-- ==== Sys2Proof/Machine/Registers.lean ====
section
/-! DEFINITION. The register space (14:R358 to R364): the value of every register, its writable fields, full and 4-byte writes, BAR2, the vendor-defined commands and the management protocols. -/

namespace Sys2Proof.Machine

open Sys2Proof

/-! ## Values of registers, block by block. Offsets that a table does not list read as zero (14:R362). -/

/-- The number of the 64-bit register at `base + 8k`, where the offset is one of `n` of them. -/
def indexIn (off base n : Nat) : Option Nat := if base ≤ off ∧ off < base + 8 * n then some ((off - base) / 8) else none

/-- Word k of a wide value (00:R7). -/
def wordOf (x k : Nat) : Nat := x / 2 ^ (64 * k) % 2 ^ 64

def AccessLast.value (x : AccessLast) : Nat := fld x.master.toNat 2 62 + fld x.kind.toNat 2 60 + x.addr.toNat

/-- GLB (14:R384). -/
def State.readGlb (s : State) (off : Nat) : Nat :=
  match off with
  | 0x00 => s.glbId
  | 0x08 => s.fuses.uid.toNat
  | 0x10 => s.glbRoster
  | 0x18 => s.glb.bar2Base.toNat
  | 0x20 => s.glb.badAccess.toNat
  | 0x28 => s.glb.badLast.value
  | _ =>
    match indexIn off 0x1000 128 with
    | none => 0
    | some i =>
      let c := s.chan (i / 8)
      match i % 8 with
      | 0 => c.ctrl
      | 1 => c.host.toNat
      | 2 => c.dev.toNat
      | 3 => c.status
      | _ => 0

/-- Whole units left until a time, rounded up. -/
def leftUntil (now stop unit : Nat) : Nat := (stop - now + (unit - 1)) / unit

/-- OWN_LEASE (14:Table 14.8). -/
def State.ownLease (s : State) : Nat :=
  let h := match s.own.handover with
    | none => 0
    | some h => fld (masterNode h.target) 20 44 + fld (masterCode h.target) 2 42 + fld (leftUntil s.now h.stop msNs) 10 32
  h + (if s.own.owner.isSome then fld (leftUntil s.now s.own.leaseEnd msNs) 12 0 else 0)

def OwnResult.value (r : OwnResult) : Nat := r.msg.toNat * 16 + r.result.toNat

def State.readOwn (s : State) (m : Master) (off : Nat) : Nat :=
  match off with
  | 0x00 => fld s.own.token.toNat 32 32 + fld s.own.epoch.toNat 8 24 + fld (masterNodeOf s.own.owner) 20 4 + ownerCode s.own.owner
  | 0x08 => s.ownLease
  | 0x10 => fld s.own.peerNode.toNat 20 44 + bitN s.own.pcieReset * 4 + bitN s.own.allowPeer * 2 + bitN s.own.allowHost
  | 0x18 => match m with
    | .host => s.own.resultHost.value
    | .mc => s.own.resultMc.value
    | .peer _ => s.own.resultPeer.value
  | 0x48 => s.own.droppedHost.toNat
  | 0x50 => s.own.droppedMc.toNat
  | 0x58 => s.own.droppedPeer.toNat
  | 0x60 => s.own.dropLast.value
  | _ => 0

/-- EVT_PENDINGk. -/
def Evt.pendingWord (e : Evt) (k : Nat) : Nat :=
  (List.range 64).foldl (fun a i => if (sget none e.pend (64 * k + i)).isSome then a + 2 ^ i else a) 0

/-- EVT_WAKE_SELk (14:Table 14.21). -/
def Evt.wakeWord (e : Evt) (k : Nat) : Nat :=
  (List.range 4).foldl (fun a i => a + bitN (e.wakeEn.getLsbD (4 * k + i)) * 2 ^ (16 * i + 15) + (sget 0 e.wakeSrc (4 * k + i)).toNat * 2 ^ (16 * i)) 0

def Evt.read (e : Evt) (off : Nat) : Nat :=
  match off with
  | 0x00 => fld e.err.toNat 4 60 + fld e.sizeLog2.toNat 5 8 + bitN e.ring.isSome * 8 + bitN e.loc * 4
  | 0x08 => e.base.toNat
  | 0x10 => match e.ring with
    | some r => if r.device then r.base else 0
    | none => 0
  | 0x18 => e.head.toNat
  | 0x20 => e.tail.toNat
  | 0x28 => e.coalesced.toNat
  | 0x30 => e.masked.toNat
  | 0x38 => e.overflows.toNat
  | 0x40 => fld e.sbEnable.toNat 16 16 + e.sbActiveLow.toNat
  | 0x48 => fld e.sbMasked.toNat 16 16 + e.sbLevel.toNat
  | _ =>
    match indexIn off 0x100 8, indexIn off 0x140 8, indexIn off 0x180 4 with
    | some k, _, _ => e.pendingWord k
    | _, some k, _ => wordOf e.mask.toNat k
    | _, _, some k => e.wakeWord k
    | _, _, _ => 0

def State.readPwr (s : State) (off : Nat) : Nat :=
  let p := s.pwr
  match off with
  | 0x00 => fld (powerCode p.state) 2 62 + fld p.reason.toNat 3 56 + p.req.toNat
  | 0x08 => p.cap.toNat
  | 0x10 => p.cp.toNat
  | 0x18 => s.ao.time.toNat
  | 0x20 => p.aoCmp.toNat
  | 0x28 => fld p.outletLim.toNat 8 24 + fld p.inletLim.toNat 8 16 + p.cmpEn.toNat
  | 0x30 => s.ao.cmpActive.toNat
  | 0x38 => p.sigdet.toNat
  | 0x40 => fld p.wakeFrom.toNat 2 62 + fld p.wakeSource.toNat 9 52 + p.wakeUs.toNat
  | 0x48 => p.starts.toNat
  | 0x50 => p.halvings.toNat
  | _ =>
    match indexIn off 0x100 82 with
    | some n => bitN (s.sensor n).valid * 2 ^ 63 + (s.sensor n).value.toNat
    | none => 0

def bootCode (b : Boot) : Nat :=
  match b with
  | .rom => 0
  | .wait => 1
  | .fetch => 2
  | .verify => 3
  | .init => 4
  | .running => 5
  | .failed => 6

/-- SEC_LIFECYCLE (15:Table 15.13): LIFECYCLE as fused. -/
def State.secLifecycle (s : State) : Nat :=
  let f := s.fuses
  let prog := (List.range 3).foldl (fun a k => a + bitN (f.keyHash k != 0) * 2 ^ k) 0
  fld f.life.toNat 2 62 + fld prog 3 59 + fld f.revoked.toNat 3 56 + fld s.sec.fwSvn.toNat 8 48 + fld f.svn 8 40 + bitN s.sec.scanEn * 2 + bitN s.sec.seedLock

def State.readSec (s : State) (off : Nat) : Nat :=
  let c := s.sec
  match off with
  | 0x00 => bitN c.busy * 2 ^ 63 + fld (bootCode c.boot) 4 52 + fld c.lastCmd.toNat 4 48 + fld c.reason.toNat 8 40 + fld c.keySlot.toNat 2 32 + c.fwVersion.toNat
  | 0x10 => c.objAddr.toNat
  | 0x18 => c.objLen.toNat
  | 0x20 => s.secLifecycle
  | 0x28 => c.reportAddr.toNat
  | 0x30 => c.reportSeq.toNat
  | 0x38 => c.fwFails.toNat
  | _ =>
    match indexIn off 0x40 40 with
    | none => 0
    | some i => match i / 8 with
      | 0 => wordOf c.nonce.toNat (i % 8)
      | 1 => wordOf s.fuses.romMeas.toNat (i % 8)
      | 2 => wordOf c.fwMeas.toNat (i % 8)
      | 3 => wordOf c.packChain.toNat (i % 8)
      | _ => if c.seedLock then 0 else wordOf c.idKey.toNat (i % 8)

def Tst.read (t : Tst) (off : Nat) : Nat :=
  match off with
  | 0x08 => bitN t.busy * 2 ^ 63 + fld t.result.toNat 3 60 + fld t.testId.toNat 32 16 + fld t.unit.toNat 8 8 + t.cell.toNat
  | 0x10 => t.signature.toNat
  | 0x18 => t.limitMin.toNat
  | 0x20 => fld t.deferred.length 16 0 + fld (t.deferred.countP t.isOverdue) 16 32
  | 0x28 => t.runs.toNat
  | 0x30 => t.fails.toNat
  | 0x38 => t.forced.toNat
  | 0x40 => fld t.table.length 16 0 + fld t.packs.toNat 8 16
  | _ => 0

def foldBits (f : Nat) : Nat := if f = 2 then 1 else if f = 4 then 2 else 0

/-- The registers of a slot (08:Table 8.13). -/
def State.readSlot (s : State) (n off : Nat) : Nat :=
  let sl := s.slot n
  match off with
  | 0x00 => fld (slotCode sl.state) 4 60 + bitN sl.started * 2 ^ 59 + bitN sl.wmode * 2 ^ 58 + fld (foldBits sl.place.fold) 2 56 + fld (s.gen n).toNat 8 48 + sl.step.toNat
  | 0x10 => wordOf sl.seed.toNat 0
  | 0x18 => wordOf sl.seed.toNat 1
  | 0x20 => bitN (sl.wreq != sl.wmode) * 2 + bitN sl.wreq
  | 0x28 => sl.xferAddr.toNat
  | 0x30 => sl.placeAddr.toNat
  | _ =>
    match indexIn off 0x40 8, indexIn off 0x80 8 with
    | some k, _ => wordOf sl.progDigest.toNat k
    | _, some k => wordOf sl.structDigest.toNat k
    | _, _ => 0

def State.readCtx (s : State) (off : Nat) : Nat :=
  let c := s.ctx
  match off with
  | 0x00 => c.loadAddr.toNat
  | 0x08 => c.loadLen.toNat
  | 0x10 => c.seedLo.toNat
  | 0x18 => c.seedHi.toNat
  | 0x28 => bitN c.busy * 2 ^ 63 + fld c.slot.toNat 3 56 + fld c.reason.toNat 8 48 + fld c.section_.toNat 16 32 + c.record.toNat
  | 0x30 => c.target.toNat
  | _ => if 0x1000 ≤ off ∧ off < 0x1800 then s.readSlot ((off - 0x1000) / 0x100) (off % 0x100) else 0

def schCode (st : SchState) : Nat :=
  match st with
  | .idle => 0
  | .inPound => 1
  | .holding => 2
  | .boundary => 3

def holdCode (c : HoldCause) : Nat :=
  match c with
  | .mem => 1
  | .link => 2
  | .sill => 3
  | .thermal => 4
  | .power => 5

/-- The index of the current pound: at the boundary after the last pound, the last. -/
def State.currentPound (s : State) : Nat :=
  match s.execImage with
  | some (_, g) => min s.sch.pound (g.pounds.length - 1)
  | none => s.sch.pound

def State.schStatus (s : State) : Nat :=
  fld (s.sch.hold.elim 0 (fun h => holdCode h.cause)) 4 40 + fld (s.sch.exec.elim 0 (fun n => n.val)) 3 34 + fld (schCode s.sch.state) 2 32 + fld s.currentPound 32 0

def State.schPound (s : State) : Nat :=
  match s.execImage with
  | some (n, g) => fld (foldBits (s.slot n).place.fold) 2 40 + fld s.sch.phase 2 32 + fld (g.poundLen s.currentPound) 25 0
  | none => 0

def State.readSch (s : State) (m : Master) (off : Nat) : Nat :=
  let c := s.sch
  match off with
  | 0x00 => s.schStatus
  | 0x08 => c.tick.toNat
  | 0x10 => match m with
    | .host => c.tickAoHost.toNat
    | .mc => c.tickAoMc.toNat
    | .peer _ => c.tickAoPeer.toNat
  | 0x18 => s.schPound
  | 0x20 => c.holdMem.toNat
  | 0x28 => c.holdLink.toNat
  | 0x30 => c.holdThermal.toNat
  | 0x38 => c.holdPower.toNat
  | 0x40 => c.holdSill.toNat
  | 0x48 => c.holdNs.toNat
  | 0x50 => c.stretch.toNat
  | 0x58 => c.longest.toNat
  | 0x60 => fld c.powerQ.toNat 16 16 + c.thermalQ.toNat
  | 0x68 => c.limitUs.toNat
  | _ => 0

/-- WLD_ROOT (12:Table 12.9). -/
def Slot.rootValue (sl : Slot) : Nat :=
  bitN sl.rootPending * 2 ^ 16 + fld sl.epochCur.toNat 2 14 + fld sl.baseCur.toNat 3 11 + fld sl.epochReq.toNat 2 7 + fld sl.baseReq.toNat 3 4

def handleCode (h : HandleState) : Nat :=
  match h with
  | .free => 0
  | .filling => 1
  | .ready => 2

def Slot.epochsValue (sl : Slot) : Nat := (List.range 4).foldl (fun a k => a + handleCode (sget .none sl.epochs k).state * 4 ^ k) 0

def State.readWld (s : State) (off : Nat) : Nat :=
  let w := s.wld
  match off with
  | 0x00 => w.tableAddr.toNat
  | 0x08 => w.tableCount.toNat
  | 0x18 => bitN w.busy * 2 ^ 63 + w.reason.toNat
  | 0x20 => w.timeout.toNat
  | 0x28 => bitN w.serveEnable * 2 ^ 8 + fld w.serveSlot.toNat 4 4 + bitN w.serveBase * 8 + w.serveHandle.toNat
  | _ =>
    match indexIn off 0x100 16, indexIn off 0x200 4 with
    | some i, _ => if i % 2 = 0 then (s.slot (i / 2)).rootValue else (s.slot (i / 2)).epochsValue
    | _, some b => fld (s.baseRefs b) 8 8 + handleCode (sget .none w.bases b).state
    | _, _ => 0

/-- The record of the error log that FLT_LOG_SEL names; index 0 is its header (13:R352; the first next index: log entry 128). -/
def State.logEntry (s : State) : Nat :=
  if s.flt.logSel = 0 then s.ao.logCount.toNat + s.ao.logNext.toNat * 2 ^ 64
  else (sget none s.ao.log s.flt.logSel.toNat).elim 0 EvRec.pack

def Flt.resetStatus (f : Flt) : Nat :=
  bitN (!f.resets.isEmpty) * 2 ^ 63 + fld f.level.toNat 3 60 + fld f.die.toNat 5 55 + fld f.cell.toNat 7 48 + f.result.toNat

def State.readFlt (s : State) (off : Nat) : Nat :=
  let f := s.flt
  match off with
  | 0x00 => f.dieState.toNat
  | 0x10 => f.resetStatus
  | 0x18 => fld s.ao.resetKind.toNat 4 60 + fld s.ao.resetCause.toNat 8 52 + s.ao.resetUs.toNat
  | 0x20 => f.wdtMs.toNat
  | 0x30 => bitN s.dumpPresent * 2 ^ 63 + f.nextPage.toNat
  | 0x38 => f.dumpSeq.toNat
  | 0x40 => f.logSel.toNat
  | 0x80 => f.shadowPass.toNat
  | 0x88 => f.shadowMismatch.toNat
  | 0x90 => f.shadowLate.toNat
  | 0x98 => f.shadowNoSpare.toNat
  | 0xA0 => f.hangs.toNat
  | 0xA8 => f.plankDrops.toNat
  | 0xB0 => f.staleMem.toNat
  | 0xB8 => f.staleLink.toNat
  | _ =>
    match indexIn off 0x48 4, indexIn off 0x108 8 with
    | some k, _ => wordOf s.logEntry k
    | _, some h => (sget 0 f.towFail (h + 1)).toNat
    | _, _ => 0

/-- The six counters of a set, in the order of 03:Table 3.5. -/
def Counts.at (c : Counts) (k : Nat) : Nat :=
  match k with
  | 0 => c.satW.toNat
  | 1 => c.satA.toNat
  | 2 => c.satG.toNat
  | 3 => c.satO.toNat
  | 4 => c.oobRead.toNat
  | 5 => c.oobWrite.toNat
  | _ => 0

/-- The index of a master's read copies. -/
def copyIndex (m : Master) : Nat := masterCode m - 1

def State.readNum (s : State) (m : Master) (off : Nat) : Nat :=
  if off = 0x800 then s.num.thresh.toNat
  else if 0x800 ≤ off then 0 else
  let n := off / 0x100
  let x := s.numSlot n
  let copy := (sget none s.num.copies (8 * copyIndex m + n)).getD .zero
  match indexIn (off % 0x100) 0 6, indexIn (off % 0x100) 0x48 6 with
  | some k, _ => x.total.at k
  | _, some k => copy.at k
  | _, _ => if off % 0x100 = 0x40 then bitN x.stepValid * 2 ^ 40 + x.stepId.toNat else 0

def TrafficGen.status (g : TrafficGen) : Nat :=
  bitN g.busy * 2 ^ 63 + bitN g.done * 2 ^ 62 + bitN g.pass * 2 ^ 61 + fld g.sideFail.toNat 8 32 + g.errors.toNat

/-- Repair lanes in use in a stack: at most two in each channel. -/
def State.repaired (s : State) (k : Nat) : Nat := ((List.range 32).map (fun c => min 2 (sget 0 s.ao.repairs (k * 32 + c)))).sum

/-- MEM_STATUS (09:Table 9.5). -/
def State.memStatus (s : State) (k : Nat) : Nat :=
  let t := s.stack k
  fld (s.repaired k) 8 8 + bitN t.hot * 16 + bitN t.dump * 8 + bitN (t.gens.any (fun g => g.2.busy)) * 4 + bitN t.trained * 2 + bitN t.inService

def State.readMem (s : State) (k off : Nat) : Nat :=
  let t := s.stack k
  match off with
  | 0x00 => s.memStatus k
  | 0x08 => t.chanOos.toNat
  | 0x10 => t.ce.toNat
  | 0x18 => t.ue.toNat
  | 0x20 => fld t.lastErr.type.toNat 2 62 + fld t.lastErr.source.toNat 2 60 + t.lastErr.addr.toNat
  | 0x28 => fld t.periodH.toNat 8 32 + t.thresh.toNat
  | 0x30 => t.sweeps.toNat
  | 0x38 => t.rfm.toNat
  | 0x40 => t.addRetired.toNat
  | 0x48 => t.addPeak.toNat
  | 0x50 => (s.retiredOf k).length
  | _ =>
    match indexIn off 0x1000 256 with
    | none => 0
    | some i =>
      let g := s.tg k (i / 8)
      match i % 8 with
      | 0 => fld g.pattern.toNat 4 8 + fld g.mode.toNat 2 6
      | 1 => fld g.pcs.toNat 2 62 + fld g.last.toNat 23 32 + g.first.toNat
      | 2 => g.seed.toNat
      | 3 => g.status
      | 4 => g.failAddr.toNat
      | 5 => g.failLanes.toNat
      | _ => 0

def portCode (st : PortState) : Nat :=
  match st with
  | .disabled => 0
  | .detect => 1
  | .train => 2
  | .discover => 3
  | .up => 4
  | .failed => 5

def Port.read (p : Port) (i : Nat) : Nat :=
  match i with
  | 0 => p.maxWidth.toNat * 4 + bitN p.ctlEnable
  | 1 => fld p.lanesUp.toNat 4 8 + fld p.width.toNat 2 6 + portCode p.state
  | 2 => p.partner.toNat
  | 3 => fld p.loss.toNat 16 48 + fld p.cable.toNat 16 32 + p.delta.toNat
  | 4 => p.retry.toNat
  | 5 => p.fecCorr.toNat
  | 6 => p.fecUncorr.toNat
  | 7 => p.downs.toNat
  | _ => 0

def State.upMask (s : State) (k : Nat) : Nat := (List.range 6).foldl (fun a q => a + bitN ((s.port (k * 6 + q)).state == .up) * 2 ^ q) 0

def State.readLnk (s : State) (k off : Nat) : Nat :=
  let l := s.lnk
  match off with
  | 0x00 => if k = 0 then l.node.toNat else 0
  | 0x08 => fld (slotsUsed s.allHomes k) 13 32 + s.upMask k
  | 0x10 => if k = 0 then fld l.budgetId.toNat 32 32 + fld l.budgetKind.toNat 2 30 + l.budgetDeficit.toNat else 0
  | 0x18 => if k = 0 then bitN l.lostValid * 2 ^ 36 + fld l.lostPosition.toNat 16 20 + l.lostNode.toNat else 0
  | 0x20 => (sget 0 l.innetWords k).toNat
  | 0x28 => (sget 0 l.laybyPeak k).toNat
  | _ =>
    match indexIn off 0x100 48 with
    | some i => (s.port (k * 6 + i / 8)).read (i % 8)
    | none => 0

/-- DIE_CELL_STATE (05:Table 5.6). -/
def State.cellState (s : State) (key : Nat) : Nat :=
  let c := s.cell key
  let b := s.boundTo key
  bitN c.suspect * 2 ^ 11 + fld (b.elim 0 (·.1)) 3 8 + bitN b.isSome * 2 ^ 7 + fld c.power.toNat 3 4 + roleCode c.role

def DmaLast.value (d : DmaLast) : Nat := fld d.type.toNat 2 62 + fld d.channel.toNat 3 59 + fld d.descr.toNat 15 44 + fld d.reason.toNat 4 40 + d.block.toNat

/-- The registers of a cell (05:Table 5.5, 10:Table 10.5, 13:Table 13.14). -/
def State.readCell (s : State) (key off : Nat) : Nat :=
  let c := s.cell key
  match off with
  | 0x00 => s.cellState key
  | 0x08 => c.auditTiles.toNat
  | 0x10 => c.auditFail.toNat
  | 0x18 => c.auditSkip.toNat
  | 0x20 => c.vecDupFail.toNat
  | 0x28 => c.sparseMetaErr.toNat
  | 0x30 => c.surveyErr.toNat
  | 0x40 => c.towFail.toNat
  | 0x48 => c.towStale.toNat
  | 0x50 => c.dmaRefused.toNat
  | 0x58 => c.dmaLast.value
  | 0x60 => c.dmaBursts.toNat
  | 0x68 => c.spadCe.toNat
  | 0x70 => c.spadUe.toNat
  | 0x78 => c.workedPhases.toNat
  | _ => 0

def msixBase : Nat := 0x3FF0000
def pbaBase : Nat := 0x3FF8000

/-- The value that a master reads at a BAR0 offset, a multiple of 8 (14:Table 14.3). -/
def State.regValue (s : State) (m : Master) (off : Nat) : Nat :=
  if off < 0x10000 then s.readGlb off
  else if off < 0x20000 then s.readOwn m (off - 0x10000)
  else if off < 0x30000 then s.evt.read (off - 0x20000)
  else if off < 0x40000 then s.readPwr (off - 0x30000)
  else if off < 0x50000 then s.readSec (off - 0x40000)
  else if off < 0x60000 then s.tst.read (off - 0x50000)
  else if off < 0x70000 then s.readCtx (off - 0x60000)
  else if off < 0x80000 then s.readSch m (off - 0x70000)
  else if off < 0x90000 then s.readWld (off - 0x80000)
  else if off < 0xA0000 then s.readFlt (off - 0x90000)
  else if off < 0xB0000 then s.readNum m (off - 0xA0000)
  else if off < 0x100000 then 0
  else if off < 0x180000 then s.readMem ((off - 0x100000) / 0x10000) (off % 0x10000)
  else if off < 0x200000 then 0
  else if off < 0x260000 then s.readLnk ((off - 0x200000) / 0x10000) (off % 0x10000)
  else if off < 0x300000 then 0
  else if off < 0x400000 then
    (if off % 0x10000 / 0x100 < 68 then s.readCell (cellKey ((off - 0x300000) / 0x10000) (off % 0x10000 / 0x100)) (off % 0x100) else 0)
  else if off = pbaBase then bitN s.glb.msixPending
  else match indexIn off msixBase 8 with
    | some i => (s.glb.msixWord (2 * i)).toNat + (s.glb.msixWord (2 * i + 1)).toNat * 2 ^ 32
    | none => 0

/-! ## Reads -/

def numOffset (n : Nat) : Nat := 0xA0000 + n * 0x100 + 0x40
def schTickOffset : Nat := 0x70008

/-- A read of NUM_STEP_ID latches the slot's step counters for the master (03:R89). -/
def State.latchNum (s : State) (m : Master) (n : Nat) : State :=
  { s with num := { s.num with copies := sset none s.num.copies (8 * copyIndex m + n) (some (s.numSlot n).last) } }

/-- A read of SCH_TICK latches the AO time for the master (07:R204). -/
def State.latchTick (s : State) (m : Master) : State :=
  match m with
  | .host => { s with sch := { s.sch with tickAoHost := s.ao.time } }
  | .mc => { s with sch := { s.sch with tickAoMc := s.ao.time } }
  | .peer _ => { s with sch := { s.sch with tickAoPeer := s.ao.time } }

/-- A register read: its value, and what it latches. -/
def State.regRead (s : State) (m : Master) (off : Nat) : State × Nat :=
  if !s.answers off then (s, 0) else
  let v := s.regValue m off
  if off = schTickOffset then (s.latchTick m, v)
  else if 0xA0000 ≤ off ∧ off < 0xA0800 ∧ off % 0x100 = 0x40 then (s.latchNum m ((off - 0xA0000) / 0x100), v)
  else (s, v)

/-- The answer of a read of `n` bytes. -/
def State.answerRead (s : State) (m : Master) (poison : Bool) (d : Bytes) : State :=
  match m with
  | .host => s.emit (.completion poison d)
  | _ => s.emit (.answer m 0 poison d)

def ones (n : Nat) : Bytes := List.replicate n 0xFF

/-- A bad access: counted, and answered with all ones on PCIe and with code 2 elsewhere. -/
def State.badRead (s : State) (m : Master) (kind addr n : Nat) : State :=
  let s := s.bad m kind addr
  match m with
  | .host => s.emit (.completion false (ones n))
  | _ => s.emit (.answer m 2 false [])

def State.badWrite (s : State) (m : Master) (kind addr : Nat) : State := (s.bad m kind addr).answerWrite m 2

/-! ## Writable fields (14:R358): the spans that a write can change, and the WO registers, which act on any write -/

def regIn (off base n : Nat) : Option Nat := if base ≤ off ∧ off < base + n then some (off - base) else none

def fullField : List (Nat × Nat) := [(63, 0)]

def wakeSpans : List (Nat × Nat) := (List.range 4).flatMap (fun i => [(16 * i + 15, 16 * i + 15), (16 * i + 8, 16 * i)])

/-- The writable fields of the blocks that always answer. -/
def alwaysSpans (off : Nat) : List (Nat × Nat) :=
  match off with
  | 0x00018 => fullField
  | 0x10010 => [(63, 44), (2, 2), (1, 1), (0, 0)]
  | 0x20000 => [(12, 8), (2, 2), (1, 1), (0, 0)]
  | 0x20008 => fullField
  | 0x20018 => [(15, 0)]
  | 0x20040 => [(31, 16), (15, 0)]
  | 0x30000 => [(1, 0)]
  | 0x30008 => fullField
  | 0x30010 => fullField
  | 0x30020 => fullField
  | 0x30028 => [(31, 24), (23, 16), (7, 0)]
  | 0x30038 => [(35, 0)]
  | 0x40010 => fullField
  | 0x40018 => fullField
  | 0x40028 => fullField
  | 0x50018 => [(31, 0)]
  | 0x90020 => [(31, 0)]
  | 0x90040 => [(10, 0)]
  | _ =>
    match regIn off 0x1000 0x400, indexIn off 0x20140 8, indexIn off 0x20180 4, indexIn off 0x40040 8 with
    | some i, _, _, _ =>
      (match i % 0x40 with
       | 0x00 => [(63, 32), (15, 13), (12, 12), (9, 9), (8, 8), (4, 4), (1, 1), (0, 0)]
       | 0x08 => fullField
       | 0x10 => fullField
       | _ => [])
    | _, some _, _, _ => fullField
    | _, _, some _, _ => wakeSpans
    | _, _, _, some _ => fullField
    | _, _, _, _ => []

/-- The writable fields of the blocks that answer while the module runs. -/
def runningSpans (off : Nat) : List (Nat × Nat) :=
  match off with
  | 0x60000 => fullField
  | 0x60008 => fullField
  | 0x60010 => fullField
  | 0x60018 => fullField
  | 0x60030 => [(3, 0)]
  | 0x70068 => [(31, 0)]
  | 0x80000 => fullField
  | 0x80008 => fullField
  | 0x80020 => fullField
  | 0x80028 => [(8, 8), (7, 4), (3, 3), (1, 0)]
  | 0xA0800 => fullField
  | 0x200000 => [(19, 0)]
  | _ =>
    match regIn off 0x61000 0x800, regIn off 0x80100 0x80, regIn off 0x100000 0x80000, regIn off 0x200000 0x60000 with
    | some i, _, _, _ => if i % 0x100 = 0x20 then [(0, 0)] else if i % 0x100 = 0x28 then fullField else []
    | _, some i, _, _ => if i % 0x10 = 0 then [(8, 7), (6, 4)] else []
    | _, _, some i, _ =>
      let r := i % 0x10000
      if r = 0x28 then [(39, 32), (31, 0)]
      else if 0x1000 ≤ r ∧ r < 0x1800 then
        (match r % 0x40 with
         | 0x00 => [(11, 8), (7, 6), (1, 1), (0, 0)]
         | 0x08 => [(63, 62), (54, 32), (22, 0)]
         | 0x10 => fullField
         | _ => [])
      else []
    | _, _, _, some i =>
      let r := i % 0x10000
      if 0x100 ≤ r ∧ r < 0x280 ∧ r % 0x40 = 0 then [(3, 2), (1, 1), (0, 0)] else []
    | _, _, _, _ => []

/-- The writable fields of the MSI-X table: each entry's address halves, its data, its mask bit. -/
def msixSpans (off : Nat) : List (Nat × Nat) :=
  match indexIn off msixBase 8 with
  | some i => if i % 2 = 0 then [(31, 0), (63, 32)] else [(31, 0), (32, 32)]
  | none => []

def regSpans (off : Nat) : List (Nat × Nat) := alwaysSpans off ++ runningSpans off ++ msixSpans off

/-- The WO registers: a write performs the action, with the fields of a half that was not written taken as zero. -/
def isWriteOnly (off : Nat) : Bool :=
  off == 0x40008 || off == 0x50000 || off == 0x60020 || off == 0x80010 || off == 0x90008 || off == 0x90028 || off == 0x90068 ||
  decide (0x61000 ≤ off ∧ off < 0x61800 ∧ off % 0x100 = 8)

/-- The ownership messages and the owner's commands (14:Table 14.6). -/
def isMessage (off : Nat) : Bool := decide (0x10020 ≤ off ∧ off ≤ 0x10040)

/-- Does a span lie wholly in a half of the register? -/
def inHalf (half : Nat) (x : Nat × Nat) : Bool := decide (32 * half ≤ x.2 ∧ x.1 < 32 * half + 32)

/-- What a 4-byte write makes of a register: the fields wholly in the half from the value, the others as they stand. -/
def halfMerge (cur : Nat) (spans : List (Nat × Nat)) (half v : Nat) : Nat :=
  (spans.filter (inHalf half)).foldl (fun a x => setBits a x.1 x.2 (bits (v * 2 ^ (32 * half)) x.1 x.2)) cur

/-! ## Full writes, block by block, after the gate -/

def State.writeGlb (s : State) (off : Nat) (v : Word) : State :=
  if off = 0x18 then { s with glb := { s.glb with bar2Base := v &&& ~~~(BitVec.ofNat 64 (2 ^ 30 - 1)) } }
  else match regIn off 0x1000 0x400 with
    | none => s
    | some i =>
      let c := i / 0x40
      match i % 0x40 with
      | 0x00 => s.dmaCtrl c v
      | 0x08 => s.modChan c (fun ch => { ch with host := v })
      | 0x10 => s.modChan c (fun ch => { ch with dev := v.extractLsb' 0 40 })
      | _ => s

/-- OWN_POLICY (14:Table 14.9). -/
def State.writePolicy (s : State) (v : Word) : State :=
  { s with own := { s.own with peerNode := v.extractLsb' 44 20, pcieReset := v.getLsbD 2, allowPeer := v.getLsbD 1, allowHost := v.getLsbD 0 } }

/-- EVT_WAKE_SELk. -/
def Evt.writeWake (e : Evt) (k : Nat) (v : Word) : Evt :=
  (List.range 4).foldl (fun e i =>
    let n := 4 * k + i
    let en := v.getLsbD (16 * i + 15)
    { e with
      wakeEn := without16 e.wakeEn n ||| (if en then BitVec.twoPow 16 n else 0), wakeSrc := sset 0 e.wakeSrc n (v.extractLsb' (16 * i) 9) }) e

/-- EVT_MASKk. -/
def Evt.writeMask (e : Evt) (k : Nat) (v : Word) : Evt :=
  { e with mask := BitVec.ofNat 512 (setBits e.mask.toNat (64 * k + 63) (64 * k) v.toNat) }

def State.writeEvt (s : State) (m : Master) (off : Nat) (v : Word) : State :=
  match off with
  | 0x00 => s.evtCtrl v
  | 0x08 => { s with evt := { s.evt with base := v } }
  | 0x18 => s.headWrite m v
  | 0x40 => { s with evt := { s.evt with sbEnable := v.extractLsb' 16 16, sbActiveLow := v.extractLsb' 0 16 } }
  | _ =>
    match indexIn off 0x140 8, indexIn off 0x180 4 with
    | some k, _ => { s with evt := s.evt.writeMask k v }
    | _, some k => { s with evt := s.evt.writeWake k v }
    | _, _ => s

def State.writePwr (s : State) (off : Nat) (v : Word) : State :=
  match off with
  | 0x00 => s.powerReq (v.extractLsb' 0 2)
  | 0x08 => { s with pwr := { s.pwr with cap := v } }
  | 0x10 => { s with pwr := { s.pwr with cp := v } }
  | 0x20 => { s with pwr := { s.pwr with aoCmp := v } }
  | 0x28 => { s with pwr := { s.pwr with outletLim := v.extractLsb' 24 8, inletLim := v.extractLsb' 16 8, cmpEn := v.extractLsb' 0 8 ||| 3 } }
  | 0x38 => { s with pwr := { s.pwr with sigdet := v.extractLsb' 0 36 } }
  | _ => s

/-- SEC_CMD (15:Table 15.11), with what the fetch of its signed object gives. -/
def State.secCmd (s : State) (c : Nat) (object : Option Bytes) : State :=
  match c with
  | 1 => s.loadFw
  | 2 => s.loadPack object
  | 3 => s.attest
  | 4 => s.commitSvn
  | 5 => s.revoke object
  | 6 => s.lifecycle object
  | 7 => s.scan
  | _ => s

def State.writeSec (s : State) (off : Nat) (v : Word) : State :=
  match off with
  | 0x10 => { s with sec := { s.sec with objAddr := v } }
  | 0x18 => { s with sec := { s.sec with objLen := v } }
  | 0x28 => { s with sec := { s.sec with reportAddr := v } }
  | _ =>
    match indexIn off 0x40 8 with
    | some k => { s with sec := { s.sec with nonce := BitVec.ofNat 512 (setBits s.sec.nonce.toNat (64 * k + 63) (64 * k) v.toNat) } }
    | none => s

def State.writeTst (s : State) (off : Nat) (v : Word) : State :=
  match off with
  | 0x00 => s.testCmd v
  | 0x18 => { s with tst := { s.tst with limitMin := v.extractLsb' 0 32 } }
  | _ => s

def State.writeSlot (s : State) (n off : Nat) (v : Word) : State :=
  match off with
  | 0x08 => match (v.extractLsb' 0 4).toNat with
    | 1 => s.unloadSlot n
    | 2 => s.exportSlot n
    | 3 => s.restoreSlot n
    | _ => s
  | 0x20 => s.modSlot n (fun sl => { sl with wreq := v.getLsbD 0 })
  | 0x28 => s.modSlot n (fun sl => { sl with xferAddr := v })
  | _ => s

def State.writeCtx (s : State) (off : Nat) (v : Word) : State :=
  match off with
  | 0x00 => { s with ctx := { s.ctx with loadAddr := v } }
  | 0x08 => { s with ctx := { s.ctx with loadLen := v } }
  | 0x10 => { s with ctx := { s.ctx with seedLo := v } }
  | 0x18 => { s with ctx := { s.ctx with seedHi := v } }
  | 0x20 => (s.beginExit 0x1FF).beginLoad
  | 0x30 => s.writeRun v
  | _ => if 0x1000 ≤ off ∧ off < 0x1800 then s.writeSlot ((off - 0x1000) / 0x100) (off % 0x100) v else s

/-- WLD_CMD (12:Table 12.6). -/
def State.wldCmd (s : State) (v : Word) : State :=
  match (v.extractLsb' 0 3).toNat with
  | 1 => s.openHandle (cmdHandle v) (cmdSlot v)
  | 2 => if !cmdNames v then s.wldReason 0x06 else s.submitEntry (cmdHandle v) (v.extractLsb' 32 32).toNat
  | 3 => if !cmdNames v then s.wldReason 0x06 else s.freeHandle (cmdHandle v)
  | _ => s

def State.writeWld (s : State) (off : Nat) (v : Word) : State :=
  match off with
  | 0x00 => { s with wld := { s.wld with tableAddr := v } }
  | 0x08 => { s with wld := { s.wld with tableCount := v } }
  | 0x10 => s.wldCmd v
  | 0x20 => { s with wld := { s.wld with timeout := v } }
  | 0x28 => { s with wld := { s.wld with
      serveEnable := v.getLsbD 8, serveSlot := v.extractLsb' 4 4, serveBase := v.getLsbD 3, serveHandle := v.extractLsb' 0 2 } }
  | _ =>
    match indexIn off 0x100 16 with
    | some i => if i % 2 = 0 then s.rootWrite (i / 2) v else s
    | none => s

def State.writeFlt (s : State) (off : Nat) (v : Word) : State :=
  match off with
  | 0x08 => s.resetCmd v
  | 0x20 => { s with flt := { s.flt with wdtMs := v.extractLsb' 0 32 } }
  | 0x28 => s.returnCell (v.extractLsb' 0 4).toNat (v.extractLsb' 4 7).toNat
  | 0x40 => { s with flt := { s.flt with logSel := v.extractLsb' 0 11 } }
  | 0x68 => s.logClear
  | _ => s

def State.writeMem (s : State) (k off : Nat) (v : Word) : State :=
  if off = 0x28 then s.modStack k (fun t => { t with periodH := v.extractLsb' 32 8, thresh := v.extractLsb' 0 32 })
  else match regIn off 0x1000 0x800 with
    | none => s
    | some i =>
      let c := i / 0x40
      match i % 0x40 with
      | 0x00 => s.tgWrite k c v
      | 0x08 => s.setTg k c { s.tg k c with pcs := v.extractLsb' 62 2, last := v.extractLsb' 32 23, first := v.extractLsb' 0 23 }
      | 0x10 => s.setTg k c { s.tg k c with seed := v }
      | _ => s

def State.writeLnk (s : State) (k off : Nat) (v : Word) : State :=
  if off = 0 ∧ k = 0 then s.nodeWrite v
  else match regIn off 0x100 0x180 with
    | some i => if i % 0x40 = 0 then s.portWrite (k * 6 + i / 0x40) v else s
    | none => s

/-- Two words of the MSI-X table; a vector 0 that is pending and no longer masked is sent. -/
def State.writeMsix (s : State) (i : Nat) (v : Word) : State :=
  let hi := if i % 2 = 0 then v.extractLsb' 32 32 else v.extractLsb' 32 32 &&& 1
  let s : State := { s with glb := (s.glb.setMsixWord (2 * i) (v.extractLsb' 0 32)).setMsixWord (2 * i + 1) hi }
  s.sendPending

/-- A full write of a register by the owner. -/
def State.writeBlock (s : State) (m : Master) (off : Nat) (v : Word) : State :=
  if off < 0x10000 then s.writeGlb off v
  else if off < 0x20000 then (if off = 0x10010 then s.writePolicy v else s)
  else if off < 0x30000 then s.writeEvt m (off - 0x20000) v
  else if off < 0x40000 then s.writePwr (off - 0x30000) v
  else if off < 0x50000 then s.writeSec (off - 0x40000) v
  else if off < 0x60000 then s.writeTst (off - 0x50000) v
  else if off < 0x70000 then s.writeCtx (off - 0x60000) v
  else if off < 0x80000 then (if off = 0x70068 then { s with sch := { s.sch with limitUs := v.extractLsb' 0 32 } } else s)
  else if off < 0x90000 then s.writeWld (off - 0x80000) v
  else if off < 0xA0000 then s.writeFlt (off - 0x90000) v
  else if off = 0xA0800 then { s with num := { s.num with thresh := v } }
  else if off < 0x100000 then s
  else if off < 0x180000 then s.writeMem ((off - 0x100000) / 0x10000) (off % 0x10000) v
  else if off < 0x200000 then s
  else if off < 0x260000 then s.writeLnk ((off - 0x200000) / 0x10000) (off % 0x10000) v
  else match indexIn off msixBase 8 with
    | some i => s.writeMsix i v
    | none => s

/-- The value that a write of a whole write-only register, or of half 0 or 1 of it, gives (14:R358). -/
def halfValue (half : Option Nat) (v : Word) : Word :=
  match half with
  | none => v
  | some h => BitVec.ofNat 64 (v.toNat % 2 ^ 32 * 2 ^ (32 * h))

/-- A write of the whole register, or of half 0 or 1 of it. -/
def State.writeReg (s : State) (m : Master) (off : Nat) (half : Option Nat) (d : RegData) : State :=
  let v := d.value
  if off = secOffset + 8 then s.secCmd ((halfValue half v).extractLsb' 0 4).toNat d.object else
  match half with
  | none => s.writeBlock m off v
  | some h =>
    if isWriteOnly off then s.writeBlock m off (halfValue half v)
    else if (regSpans off).any (inHalf h) then
      s.writeBlock m off (BitVec.ofNat 64 (halfMerge (s.regValue m off) (regSpans off) h (v.toNat % 2 ^ 32)))
    else s

/-- An ownership message or an owner's command by its offset. -/
def State.messageAt (s : State) (m : Master) (off : Nat) (v : Word) : State :=
  match off with
  | 0x10020 => s.message m false (fun s => s.claim m v)
  | 0x10028 => s.message m false (fun s => s.accept m v)
  | 0x10030 => s.message m (s.ownerDrops m v) (fun s => s.heartbeat m v)
  | 0x10038 => s.message m (s.ownerDrops m v) (fun s => s.handover m v)
  | _ => s.message m (s.ownerDrops m v) (fun s => s.releaseOwner m v)

/-- A well-formed write that reaches the module: `addr` is its BAR0 offset. -/
def State.busWrite (s : State) (m : Master) (addr : Nat) (half : Option Nat) (d : RegData) : State :=
  let off := addr / 8 * 8
  if isMessage off then s.messageAt m off (halfValue half d.value)
  else if s.isOwner m then (if s.answers off then s.writeReg m off half d else s).answerWrite m 0
  else (s.drop m 0 addr).answerWrite m 1

def bar0Bytes : Nat := 0x4000000

/-- Is a vendor-defined register access well-formed (14:R363)? -/
def vendorOk (off : Nat) : Bool := off % 8 == 0 && decide (off < bar0Bytes)

def State.vendorWrite (s : State) (m : Master) (off : Nat) (d : RegData) : State :=
  if !s.reachable then s
  else if vendorOk off then s.busWrite m off none d
  else s.badWrite m 0 off

/-! ## The commands -/

/-- A register write: on PCIe of 4 or 8 bytes, on the other paths of 8. -/
def execRegisterWrite (m : Master) (offset : Nat) (wide : Bool) (data : RegData) (s : State) : Result :=
  if !s.reaches m then .next s else
  match m with
  | .host =>
    if bar0Bytes ≤ offset then .next s
    else if offset % (if wide then 8 else 4) ≠ 0 then .next (s.bad m 0 offset)
    else .next (s.busWrite m offset (if wide then none else some (offset / 4 % 2)) data)
  | _ => .next (s.vendorWrite m offset data)

/-- An access of a wrong size or alignment; a read of it answers with ones. -/
def execBar0BadAccess (m : Master) (offset : Nat) (write : Bool) (s : State) : Result :=
  if !s.reaches m then .next s
  else .next (if write then s.badWrite m 0 offset else s.badRead m 0 offset 8)

def State.readAt (s : State) (m : Master) (off : Nat) : State :=
  let r := s.regRead m off
  r.1.answerRead m false (leBytes 8 r.2)

def execNumStepIdRead (m : Master) (slot : Fin 8) (s : State) : Result :=
  if s.reaches m then .next (s.readAt m (numOffset slot.val)) else .next s

def execSchTickRead (m : Master) (s : State) : Result := if s.reaches m then .next (s.readAt m schTickOffset) else .next s

/-- A register read: of 8 bytes, or on PCIe of the 4 bytes of either half. -/
def execRegisterRead (m : Master) (at_ : RegRead) (s : State) : Result :=
  let offset := at_.offset
  if !s.reaches m then .next s else
  match m with
  | .host =>
    if bar0Bytes ≤ offset then .next s
    else if at_.wide then (if offset % 8 = 0 then .next (s.readAt m offset) else .next (s.badRead m 0 offset 8))
    else if offset % 4 = 0 then
      let r := s.regRead m (offset / 8 * 8)
      .next (r.1.answerRead m false (leBytes 4 (r.2 / 2 ^ (32 * (offset / 4 % 2)))))
    else .next (s.badRead m 0 offset 4)
  | _ => if vendorOk offset then .next (s.readAt m offset) else .next (s.badRead m 0 offset 8)

def execVendorRegisterWrite (m : Master) (offset : Nat) (data : RegData) (s : State) : Result := .next (s.vendorWrite m offset data)

/-- Is a device-memory access one that the module carries out (14:R359, 15:R388)? -/
def State.memoryOk (s : State) (addr n : Nat) : Bool := s.running && s.hostRange addr n

def State.memRead (s : State) (m : Master) (addr n : Nat) : State :=
  let x := s.readRange hostReader addr n
  x.1.answerRead m x.2.2 x.2.1

/-- A write of device memory passes the gate. -/
def State.memWrite (s : State) (m : Master) (addr : Nat) (d : Bytes) : State :=
  if s.isOwner m then (s.rawWrite addr d).answerWrite m 0 else (s.drop m 1 addr).answerWrite m 1

/-- What a configuration write leaves (14:Table 14.2). -/
def Glb.configured (g : Glb) (c : ConfigWrite) : Glb :=
  match c with
  | .resizeBar2 k => { g with bar2Size := 2 ^ (30 + k.val) }
  | .powerState d3hot => { g with d3 := d3hot }
  | .msixControl enable mask => { g with msixEnable := enable, msixMask := mask }

/-- The PCIe host has written the function's configuration space before its access. Configuration requests are answered in D3hot too, but not in A3, where the host die is off. -/
def State.configure (s : State) (m : Master) (c : Option ConfigWrite) : State :=
  match c with
  | some w => if m = .host ∧ s.reachable = true then State.sendPending { s with glb := s.glb.configured w } else s
  | none => s

/-- An access through the window of the PCIe host, where it lies within its size. One of no bytes is the configuration write alone. -/
def execBar2Access (m : Master) (range : ByteRange) (write : Option Bytes) (config : Option ConfigWrite) (s₀ : State) : Result :=
  let s := s₀.configure m config
  let addr := s.glb.bar2Base.toNat + range.offset
  let n := match write with
    | some d => d.length
    | none => range.bytes
  if m ≠ .host ∨ s.reaches .host = false ∨ n = 0 ∨ s.glb.bar2Size < range.offset + n then .next s
  else match write with
    | none => if s.memoryOk addr n then .next (s.memRead m addr n) else .next (s.badRead m 1 addr n)
    | some d => if s.memoryOk addr n then .next (s.memWrite m addr d) else .next (s.bad m 1 addr)

/-- The read-modify-write of a waiting piece (09:R434). -/
def State.mergeSub (s : State) (x : SubWrite) : State :=
  let w := x.addr / 64
  let r := s.readWord hostReader w
  if r.2.2 then r.1 else r.1.writeWord w (patch r.2.1 (x.addr % 64) x.data) none

def execHostReadModifyWrite (i : Nat) (s : State) : Result :=
  match s.flight.subs[i]? with
  | none => .next s
  | some x => .next (State.mergeSub { s with flight := { s.flight with subs := s.flight.subs.eraseIdx i } } x)

/-- Is the length of a vendor-defined memory access allowed? -/
def vendorLength (n : Nat) : Bool := decide (1 ≤ n ∧ n ≤ 1024)

def execMemoryRead (m : Master) (addr : Word) (length : Nat) (s : State) : Result :=
  if !s.reachable then .next s
  else if vendorLength length && s.memoryOk addr.toNat length then .next (s.memRead m addr.toNat length)
  else .next (s.badRead m 1 addr.toNat length)

def execMemoryWrite (m : Master) (addr : Word) (data : Bytes) (s : State) : Result :=
  if !s.reachable then .next s
  else if vendorLength data.length && s.memoryOk addr.toNat data.length then .next (s.memWrite m addr.toNat data)
  else .next (s.badWrite m 1 addr.toNat)

/-! ## MCTP control and PLDM (14:R363, R364): other standards lay out the answers -/

def foreign (request n : Nat) : Bytes := (List.range n).map (Config.foreignByte request)

/-- The supported control messages are answered; an assignment sets the endpoint identifier. -/
def execMctpControlMessage (msg : MctpControl) (s : State) : Result :=
  if !s.reachable then .next s else
  match msg with
  | .assignEndpoint eid => .next (State.emit { s with glb := { s.glb with eid := eid } } (.mctp (foreign (1 * 256 + eid.toNat) 4)))
  | .getVersion t => .next (s.emit (.mctp (foreign (4 * 256 + t.toNat) 6)))
  | .getMessageTypes => .next (s.emit (.mctp (foreign (5 * 256) 4)))
  | .enterDynamicAddress a => .next { s with glb := { s.glb with i3cAddr := some a } }

/-- Numeric sensor n + 1 is sensor n (16:R421): its value follows the bytes that the standard lays out. -/
def execPldmRequest (msg : PldmRequest) (s : State) : Result :=
  if !s.reachable then .next s else
  match msg with
  | .discovery code => .next (s.emit (.pldm (foreign (0x10000 + code.toNat) 8)))
  | .sensorReading n =>
    let r := s.sensor (n.toNat - 1)
    let head := foreign (0x20000 + n.toNat * 2 + bitN r.valid) 8
    .next (s.emit (.pldm (head ++ (if n = 0 ∨ 82 < n.toNat then [] else leBytes 4 r.value.toNat))))

end Sys2Proof.Machine
end

