-- ==== Sys2Proof/Machine/Dispatch.lean ====
section
/-! DEFINITION. The dispatch of the commands: one arm for each row of the opcode table, each a direct call of its meaning. -/

namespace Sys2Proof.Machine

open Sys2Proof

def exec (i : Instr) (s : State) : Host.Outcome State Fault Refusal :=
  match i with
  | .ctxLoad m => Sys2Proof.Machine.execCtxLoad m s
  | .loadComplete => Sys2Proof.Machine.execLoadComplete s
  | .ctxRunWrite m value => Sys2Proof.Machine.execCtxRunWrite m value s
  | .unload m slot => Sys2Proof.Machine.execUnload m slot s
  | .exportBlock m slot => Sys2Proof.Machine.execExportBlock m slot s
  | .restoreBlock m slot => Sys2Proof.Machine.execRestoreBlock m slot s
  | .drainHorizon slot => Sys2Proof.Machine.execDrainHorizon slot s
  | .weightModeRequest m slot split => Sys2Proof.Machine.execWeightModeRequest m slot split s
  | .stepStart => Sys2Proof.Machine.execStepStart s
  | .poundStart => Sys2Proof.Machine.execPoundStart s
  | .phaseStart => Sys2Proof.Machine.execPhaseStart s
  | .shadowClose diffs => Sys2Proof.Machine.execShadowClose diffs s
  | .phaseEnd hung => Sys2Proof.Machine.execPhaseEnd hung s
  | .sillLeadReached => Sys2Proof.Machine.execSillLeadReached s
  | .sillToken via origin gen at_ completed => Sys2Proof.Machine.execSillToken via origin gen at_ completed s
  | .poundEnd => Sys2Proof.Machine.execPoundEnd s
  | .stepBoundary => Sys2Proof.Machine.execStepBoundary s
  | .laybyCheck tick => Sys2Proof.Machine.execLaybyCheck tick s
  | .holdQuantumEnd => Sys2Proof.Machine.execHoldQuantumEnd s
  | .holdLimit => Sys2Proof.Machine.execHoldLimit s
  | .laybyRelease entry => Sys2Proof.Machine.execLaybyRelease entry s
  | .fabricTransferLate n => Sys2Proof.Machine.execFabricTransferLate n s
  | .matrixProduct k rows cols => Sys2Proof.Machine.execMatrixProduct k rows cols s
  | .tileEnd k => Sys2Proof.Machine.execTileEnd k s
  | .vectorChain k lanesDiffer => Sys2Proof.Machine.execVectorChain k lanesDiffer s
  | .softmax k lanesDiffer => Sys2Proof.Machine.execSoftmax k lanesDiffer s
  | .rmsNormalisation k lanesDiffer => Sys2Proof.Machine.execRmsNormalisation k lanesDiffer s
  | .layerNormalisation k lanesDiffer => Sys2Proof.Machine.execLayerNormalisation k lanesDiffer s
  | .crossEntropy k lanesDiffer => Sys2Proof.Machine.execCrossEntropy k lanesDiffer s
  | .dropOut r => Sys2Proof.Machine.execDropOut r s
  | .initialisation r => Sys2Proof.Machine.execInitialisation r s
  | .sampling r => Sys2Proof.Machine.execSampling r s
  | .routing r => Sys2Proof.Machine.execRouting r s
  | .optimizerUpdate k lanesDiffer => Sys2Proof.Machine.execOptimizerUpdate k lanesDiffer s
  | .conversion r => Sys2Proof.Machine.execConversion r s
  | .reduction k surveys => Sys2Proof.Machine.execReduction k surveys s
  | .reductionClose r => Sys2Proof.Machine.execReductionClose r s
  | .layoutCopy k => Sys2Proof.Machine.execLayoutCopy k s
  | .gather k => Sys2Proof.Machine.execGather k s
  | .scatterStore k => Sys2Proof.Machine.execScatterStore k s
  | .scatterAdd k => Sys2Proof.Machine.execScatterAdd k s
  | .collective coll => Sys2Proof.Machine.execCollective coll s
  | .dmaDescriptorWrite k => Sys2Proof.Machine.execDmaDescriptorWrite k s
  | .descriptorIssue die cell channel => Sys2Proof.Machine.execDescriptorIssue die cell channel s
  | .burstSlot die cell tick => Sys2Proof.Machine.execBurstSlot die cell tick s
  | .inPackageSend k => Sys2Proof.Machine.execInPackageSend k s
  | .inPackageDelivery n => Sys2Proof.Machine.execInPackageDelivery n s
  | .linkSend k => Sys2Proof.Machine.execLinkSend k s
  | .memoryReadReturn die cell entry => Sys2Proof.Machine.execMemoryReadReturn die cell entry s
  | .correctedWriteBack n => Sys2Proof.Machine.execCorrectedWriteBack n s
  | .wholeBargeWrite n => Sys2Proof.Machine.execWholeBargeWrite n s
  | .partialWrite n => Sys2Proof.Machine.execPartialWrite n s
  | .accumulatingBurst n => Sys2Proof.Machine.execAccumulatingBurst n s
  | .adderContribution stack => Sys2Proof.Machine.execAdderContribution stack s
  | .regionClose region => Sys2Proof.Machine.execRegionClose region s
  | .dredgeSweep stack => Sys2Proof.Machine.execDredgeSweep stack s
  | .refresh stack => Sys2Proof.Machine.execRefresh stack s
  | .refreshManagement stack => Sys2Proof.Machine.execRefreshManagement stack s
  | .tgStart m stack channel value => Sys2Proof.Machine.execTgStart m stack channel value s
  | .tgAbort m stack channel value => Sys2Proof.Machine.execTgAbort m stack channel value s
  | .tgRunDone stack channel => Sys2Proof.Machine.execTgRunDone stack channel s
  | .portEnable m port value => Sys2Proof.Machine.execPortEnable m port value s
  | .portDisable m port value => Sys2Proof.Machine.execPortDisable m port value s
  | .retrain m port value => Sys2Proof.Machine.execRetrain m port value s
  | .laneDetected port lane => Sys2Proof.Machine.execLaneDetected port lane s
  | .trainingDone port lanes loss => Sys2Proof.Machine.execTrainingDone port lanes loss s
  | .discovery port record roundTrips => Sys2Proof.Machine.execDiscovery port record roundTrips s
  | .echo port stamp turnaround receive loss => Sys2Proof.Machine.execEcho port stamp turnaround receive loss s
  | .remeasure port => Sys2Proof.Machine.execRemeasure port s
  | .signalLoss port => Sys2Proof.Machine.execSignalLoss port s
  | .portRetry port => Sys2Proof.Machine.execPortRetry port s
  | .laneLoss port lane => Sys2Proof.Machine.execLaneLoss port lane s
  | .portWidening port lanes => Sys2Proof.Machine.execPortWidening port lanes s
  | .linkTimeout port => Sys2Proof.Machine.execLinkTimeout port s
  | .acknowledge port seq resend => Sys2Proof.Machine.execAcknowledge port seq resend s
  | .bargePacket port head payload tag codewords => Sys2Proof.Machine.execBargePacket port head payload tag codewords s
  | .forwardingTableUpdate links => Sys2Proof.Machine.execForwardingTableUpdate links s
  | .lnkNodeWrite m value => Sys2Proof.Machine.execLnkNodeWrite m value s
  | .join via position node ctx digest => Sys2Proof.Machine.execJoin via position node ctx digest s
  | .lossNotice via node position at_ => Sys2Proof.Machine.execLossNotice via node position at_ s
  | .memberLost position => Sys2Proof.Machine.execMemberLost position s
  | .remoteReadRequest via slot route tensor range => Sys2Proof.Machine.execRemoteReadRequest via slot route tensor range s
  | .openHandle m value => Sys2Proof.Machine.execOpenHandle m value s
  | .submit m value => Sys2Proof.Machine.execSubmit m value s
  | .freeHandle m value => Sys2Proof.Machine.execFreeHandle m value s
  | .arrivalUnitWrite h entry encoded => Sys2Proof.Machine.execArrivalUnitWrite h entry encoded s
  | .shardComplete h entry failure => Sys2Proof.Machine.execShardComplete h entry failure s
  | .shardTimeout h entry => Sys2Proof.Machine.execShardTimeout h entry s
  | .peerShardRequest p => Sys2Proof.Machine.execPeerShardRequest p s
  | .wldRootWrite m slot value => Sys2Proof.Machine.execWldRootWrite m slot value s
  | .cellReset die cell => Sys2Proof.Machine.execCellReset die cell s
  | .sampleTimeout die cell pages => Sys2Proof.Machine.execSampleTimeout die cell pages s
  | .dieReset die selfRefresh => Sys2Proof.Machine.execDieReset die selfRefresh s
  | .railOff die => Sys2Proof.Machine.execRailOff die s
  | .warmReset cause => Sys2Proof.Machine.execWarmReset cause s
  | .resetComplete => Sys2Proof.Machine.execResetComplete s
  | .resetTimeout => Sys2Proof.Machine.execResetTimeout s
  | .cellReturn m die cell => Sys2Proof.Machine.execCellReturn m die cell s
  | .logClear m => Sys2Proof.Machine.execLogClear m s
  | .watchdogExpiry => Sys2Proof.Machine.execWatchdogExpiry s
  | .heartbeatLoss => Sys2Proof.Machine.execHeartbeatLoss s
  | .bootStartTimeout => Sys2Proof.Machine.execBootStartTimeout s
  | .powerOnReset => Sys2Proof.Machine.execPowerOnReset s
  | .registerWrite m offset wide data => Sys2Proof.Machine.execRegisterWrite m offset wide data s
  | .bar0BadAccess m offset write => Sys2Proof.Machine.execBar0BadAccess m offset write s
  | .numStepIdRead m slot => Sys2Proof.Machine.execNumStepIdRead m slot s
  | .schTickRead m => Sys2Proof.Machine.execSchTickRead m s
  | .bar2Access m range write config => Sys2Proof.Machine.execBar2Access m range write config s
  | .hostReadModifyWrite n => Sys2Proof.Machine.execHostReadModifyWrite n s
  | .registerRead m at_ => Sys2Proof.Machine.execRegisterRead m at_ s
  | .vendorRegisterWrite m offset data => Sys2Proof.Machine.execVendorRegisterWrite m offset data s
  | .memoryRead m addr length => Sys2Proof.Machine.execMemoryRead m addr length s
  | .memoryWrite m addr data => Sys2Proof.Machine.execMemoryWrite m addr data s
  | .mctpControlMessage msg => Sys2Proof.Machine.execMctpControlMessage msg s
  | .pldmRequest msg => Sys2Proof.Machine.execPldmRequest msg s
  | .ownClaim m value => Sys2Proof.Machine.execOwnClaim m value s
  | .ownAccept m value => Sys2Proof.Machine.execOwnAccept m value s
  | .ownHeartbeat m value => Sys2Proof.Machine.execOwnHeartbeat m value s
  | .ownHandover m value => Sys2Proof.Machine.execOwnHandover m value s
  | .ownRelease m value => Sys2Proof.Machine.execOwnRelease m value s
  | .leaseExpiry => Sys2Proof.Machine.execLeaseExpiry s
  | .handoverExpiry => Sys2Proof.Machine.execHandoverExpiry s
  | .functionReset => Sys2Proof.Machine.execFunctionReset s
  | .perstOrHotReset => Sys2Proof.Machine.execPerstOrHotReset s
  | .pcieLinkDown => Sys2Proof.Machine.execPcieLinkDown s
  | .hostDmaStart m channel value => Sys2Proof.Machine.execHostDmaStart m channel value s
  | .bargeModeRecord channel data => Sys2Proof.Machine.execBargeModeRecord channel data s
  | .hostDmaAbort m channel value => Sys2Proof.Machine.execHostDmaAbort m channel value s
  | .hostDmaDone channel data => Sys2Proof.Machine.execHostDmaDone channel data s
  | .ringRecordWrite => Sys2Proof.Machine.execRingRecordWrite s
  | .enable m value => Sys2Proof.Machine.execEnable m value s
  | .disable m value => Sys2Proof.Machine.execDisable m value s
  | .evtHeadWrite m value => Sys2Proof.Machine.execEvtHeadWrite m value s
  | .sidebandActivation n => Sys2Proof.Machine.execSidebandActivation n s
  | .stormMaskEnd n => Sys2Proof.Machine.execStormMaskEnd n s
  | .loadFw m => Sys2Proof.Machine.execLoadFw m s
  | .fwFetchComplete fetch found => Sys2Proof.Machine.execFwFetchComplete fetch found s
  | .initComplete essentialFailed => Sys2Proof.Machine.execInitComplete essentialFailed s
  | .loadPack m object => Sys2Proof.Machine.execLoadPack m object s
  | .attest m => Sys2Proof.Machine.execAttest m s
  | .attestReportWritten => Sys2Proof.Machine.execAttestReportWritten s
  | .commitSvn m => Sys2Proof.Machine.execCommitSvn m s
  | .revoke m object => Sys2Proof.Machine.execRevoke m object s
  | .lifecycle m object => Sys2Proof.Machine.execLifecycle m object s
  | .scan m => Sys2Proof.Machine.execScan m s
  | .tstCmd m value => Sys2Proof.Machine.execTstCmd m value s
  | .testDue testId unit cell => Sys2Proof.Machine.execTestDue testId unit cell s
  | .testComplete testId unit cell result => Sys2Proof.Machine.execTestComplete testId unit cell result s
  | .reqA0 m => Sys2Proof.Machine.execReqA0 m s
  | .reqA2 m => Sys2Proof.Machine.execReqA2 m s
  | .reqA3 m => Sys2Proof.Machine.execReqA3 m s
  | .enterA1 => Sys2Proof.Machine.execEnterA1 s
  | .exitA1 => Sys2Proof.Machine.execExitA1 s
  | .wake source => Sys2Proof.Machine.execWake source s
  | .l12Exit => Sys2Proof.Machine.execL12Exit s
  | .powerTransitionComplete romMatches lanes => Sys2Proof.Machine.execPowerTransitionComplete romMatches lanes s
  | .cellStart die cell droop => Sys2Proof.Machine.execCellStart die cell droop s
  | .startLimitRestore => Sys2Proof.Machine.execStartLimitRestore s
  | .droopTrip die => Sys2Proof.Machine.execDroopTrip die s
  | .stretchEnd periods => Sys2Proof.Machine.execStretchEnd periods s
  | .comparatorOccurrence m reading => Sys2Proof.Machine.execComparatorOccurrence m reading s
  | .mainPowerRestore => Sys2Proof.Machine.execMainPowerRestore s
  | .alwaysOnPowerLoss => Sys2Proof.Machine.execAlwaysOnPowerLoss s
  | .sensorSample n reading => Sys2Proof.Machine.execSensorSample n reading s
  | .thermalUpdate => Sys2Proof.Machine.execThermalUpdate s
  | .powerUpdate power current => Sys2Proof.Machine.execPowerUpdate power current s
  | .thermtrip die => Sys2Proof.Machine.execThermtrip die s
  | .flowWarning => Sys2Proof.Machine.execFlowWarning s
  | .surveyPacket via head bytes => Sys2Proof.Machine.execSurveyPacket via head bytes s
  | .romReady mbistPass => Sys2Proof.Machine.execRomReady mbistPass s
  | .alwaysOnPowerApplied => Sys2Proof.Machine.execAlwaysOnPowerApplied s
  | .uncorrectableInternalError hostDie => Sys2Proof.Machine.execUncorrectableInternalError hostDie s
  | .comparatorConditionClears c => Sys2Proof.Machine.execComparatorConditionClears c s
  | .sidebandInputInactive n => Sys2Proof.Machine.execSidebandInputInactive n s
  | .testOverdue testId unit cell => Sys2Proof.Machine.execTestOverdue testId unit cell s

end Sys2Proof.Machine
end

