-- ==== Sys2Proof/Machine/Step.lean ====
section
/-! DEFINITION. The step: the command at the front of the queue, or the tick of the module reference. -/

namespace Sys2Proof.Machine

open Sys2Proof

/-- The block idles for one cycle of the module reference: AO time advances by 40 ns (16:R417, log entry 1). -/
def State.idle (s : State) : State := if s.ao.aoPower then s.setTime (s.now + 40) else s

/-- Takes the command at the front of the queue and runs it on the queue's rest. -/
def step (s : State) : Host.Outcome State Fault Refusal :=
  match s.pending with
  | [] => .next s.idle
  | c :: rest => exec c { s with pending := rest }

/-- The table gives no command an encoding, so no word puts one at the front of the queue. -/
def State.withFetchWord (s : State) (nbits w : Nat) : State :=
  match Sys2Proof.decodeTableWord nbits w with
  | some c => { s with pending := c :: s.pending }
  | none => s

end Sys2Proof.Machine
end

