-- ==== Sys2Proof/Safety.lean ====
section
/-! DEFINITION. What a safe run is: no step stops, and every table of the state stays in its canonical form, so that equal states are equal data. -/

namespace Sys2Proof.Machine

open Sys2Proof

/-- The canonical form of device memory: its bytes, tag nibbles and error patterns are sparse tables with rising keys and no entry at the default. -/
def Memory.wf (m : DevMem) : Bool := swf 0 m.bytes && swf 0 m.tags && swf none m.errs

/-- The canonical form of a scratchpad. -/
def Cell.spadWf (c : Cell) : Bool := swf 0 c.spad

/-- The canonical form of the tables of a cell: its scratchpad, its engines' queues and accumulators, its DMA channels, its lay-by. -/
def Cell.tablesWf (c : Cell) : Bool :=
  c.spadWf && swf 0 c.spadErr && swf 0 c.tileQ && swf Acc.zero c.racc && swf 0 c.rsurvey && swf 0 c.rout && swf 0 c.feed &&
  swf .empty c.channels && swf 0 c.cursors && swf none c.routeAt && swf none c.layby && swf (0, 0) c.clean

/-- The canonical form of the tables of a context slot. -/
def Slot.tablesWf (sl : Slot) : Bool :=
  swf 0 sl.offsets && swf 0 sl.regionStep && swf 0 sl.regionLast && swf 0 sl.regionTotal && swf none sl.anchors && swf .none sl.epochs &&
  sl.digests.all (fun a => swf none a.elems) && sl.epochs.all (fun e => swf 0 e.2.submitAt)

/-- The canonical form of the tables of a memory stack. -/
def Stack.tablesWf (t : Stack) : Bool := swf .reset t.gens && swf 0 t.sweepCe

/-- The canonical form of the tables of the links. -/
def Lnk.tablesWf (l : Lnk) : Bool :=
  swf .reset l.ports && swf none l.slots && swf 0 l.innetWords && swf 0 l.laybyPeak && l.ports.all (fun p => swf 0 p.2.fails)

/-- The canonical form of the tables in always-on SRAM. -/
def AlwaysOn.tablesWf (a : AlwaysOn) : Bool := swf none a.log && swf [] a.retired && swf 0 a.repairs && swf 0 a.cursors && swf 0 a.gens

/-- Every table of the blocks is in its canonical form. -/
def State.tablesWf (s : State) : Bool :=
  swf .reset s.ctx.slots && swf .reset s.cells && swf .reset s.stks && swf .reset s.glb.dma && swf .zero s.num.slots && swf none s.num.copies &&
  s.ctx.slots.all (fun e => e.2.tablesWf) && s.cells.all (fun e => e.2.tablesWf) && s.stks.all (fun e => e.2.tablesWf) && s.lnk.tablesWf && s.ao.tablesWf &&
  swf none s.evt.pend && swf [] s.evt.sbTimes && swf 0 s.evt.sbCount && swf 0 s.evt.wakeSrc && swf 0 s.flt.towFail && swf ⟨false, 0⟩ s.pwr.sensors &&
  swf .none s.wld.bases && s.wld.bases.all (fun e => swf 0 e.2.submitAt) && swf 0 s.tst.born && swf 0 s.tst.ran

/-- A canonical state: device memory, and the tables of the blocks. -/
def State.canonical (s : State) : Bool := Memory.wf s.mem && s.tablesWf

/-- A step is safe: it answers a next state, and that state is canonical. -/
def State.safe (s : State) : Prop := ∃ t, step s = .next t ∧ t.canonical = true

end Sys2Proof.Machine
end

