-- ==== Sys2Proof/Certificates/Slice0/Obligations.lean ====
section
/-! DEFINITION. The statements for the provers. -/

open Sys2Proof
open Sys2Proof.Machine

/-! ## What the statements speak of -/

namespace Sys2Proof.Machine

/-- A write of the owner that the module takes: the module can be reached, the master owns it, and the block answers. -/
def State.accepts (s : State) (m : Master) (offset : Nat) : Prop :=
  s.reaches m = true ∧ s.own.owner = some m ∧ s.answers offset = true

/-- A source that is neither masked nor pending, so that its next occurrence is latched. -/
def State.quiet (s : State) (source : Nat) : Prop := s.isMasked source = false ∧ sget none s.evt.pend source = none

/-- An occurrence with a code is pending at a source. -/
def State.shows (s : State) (source code : Nat) : Prop :=
  ∃ r, sget none s.evt.pend source = some r ∧ r.code = BitVec.ofNat 16 code

/-- A port that takes numbered packets: it is UP on a running die, and the fabric carries traffic (11:R294, 13:R345, R348). -/
def State.listens (s : State) (v : Carriage) : Prop :=
  (s.port v.port.val).state = .up ∧ s.linksQuiet = false ∧ s.node ≠ unassigned ∧ s.dieState (24 + v.port.val / 6) = 0

/-- A numbered packet that a port takes and that is for this module: the packet is sound and new, and it names this node (11:R295). -/
def State.carries (s : State) (v : Carriage) : Prop :=
  s.listens v ∧ v.uncorrectable = 0 ∧ v.crcOk = true ∧ (s.port v.port.val).has v.seq = false ∧ v.node.toNat = s.node

/-- The state after the port has counted the packet's codewords, taken its number and acknowledged it (11:R295). -/
def State.received (s : State) (v : Carriage) : State := (s.modPort v.port.val (fun u => u.countCodewords v)).taken v

/-- Packets to a node leave on a port whose link die runs. -/
def State.sendsTo (s : State) (node : Nat) : Prop :=
  s.node ≠ unassigned ∧ node ≠ s.node ∧ s.portsTo node ≠ [] ∧ ∀ q ∈ s.portsTo node, s.dieState (24 + q / 6) = 0

/-- The blocks that no command but those of its own family may touch: ownership, security, the fuses, device memory, the cells, the links. -/
def State.sameRest (s t : State) : Prop :=
  t.own = s.own ∧ t.sec = s.sec ∧ t.fuses = s.fuses ∧ t.mem = s.mem ∧ t.cells = s.cells ∧ t.lnk = s.lnk

/-- The master and the register offset of a command that is a write through the gate. -/
def gatedAt (c : Instr) : Option (Master × Nat) :=
  match c with
  | .ctxLoad m => some (m, 0x60020)
  | .ctxRunWrite m _ => some (m, 0x60030)
  | .unload m n => some (m, 0x61008 + n.val * 0x100)
  | .exportBlock m n => some (m, 0x61008 + n.val * 0x100)
  | .restoreBlock m n => some (m, 0x61008 + n.val * 0x100)
  | .weightModeRequest m n _ => some (m, 0x61020 + n.val * 0x100)
  | .tgStart m k c _ => some (m, 0x101000 + k.val * 0x10000 + c.val * 0x40)
  | .tgAbort m k c _ => some (m, 0x101000 + k.val * 0x10000 + c.val * 0x40)
  | .cellReturn m _ _ => some (m, 0x90028)
  | .logClear m => some (m, 0x90068)
  | .hostDmaStart m c _ => some (m, 0x1000 + c.val * 0x40)
  | .hostDmaAbort m c _ => some (m, 0x1000 + c.val * 0x40)
  | .enable m _ => some (m, 0x20000)
  | .disable m _ => some (m, 0x20000)
  | .evtHeadWrite m _ => some (m, 0x20018)
  | .loadFw m => some (m, 0x40008)
  | .loadPack m _ => some (m, 0x40008)
  | .attest m => some (m, 0x40008)
  | .commitSvn m => some (m, 0x40008)
  | .revoke m _ => some (m, 0x40008)
  | .lifecycle m _ => some (m, 0x40008)
  | .scan m => some (m, 0x40008)
  | .tstCmd m _ => some (m, 0x50000)
  | .reqA0 m => some (m, 0x30000)
  | .reqA2 m => some (m, 0x30000)
  | .reqA3 m => some (m, 0x30000)
  | .portEnable m q _ => some (m, 0x200100 + q.val / 6 * 0x10000 + q.val % 6 * 0x40)
  | .portDisable m q _ => some (m, 0x200100 + q.val / 6 * 0x10000 + q.val % 6 * 0x40)
  | .retrain m q _ => some (m, 0x200100 + q.val / 6 * 0x10000 + q.val % 6 * 0x40)
  | .lnkNodeWrite m _ => some (m, 0x200000)
  | .openHandle m _ => some (m, 0x80010)
  | .submit m _ => some (m, 0x80010)
  | .freeHandle m _ => some (m, 0x80010)
  | .wldRootWrite m n _ => some (m, 0x80100 + n.val * 0x10)
  | _ => none

end Sys2Proof.Machine

/-! ## The block as a whole -/

/-- A step takes the command at the front of the queue and runs it on the queue's rest. -/
def Obligations.StepRunsFrontCommand : Prop :=
  ∀ (c : Instr) (rest : List Instr) (s : State), step { s with pending := c :: rest } = exec c { s with pending := rest }

/-- Every command answers a next state, with the queue behind it as it was and, of what has left the block, nothing taken back: none faults and none is refused. -/
def Obligations.EveryCommandAnswers : Prop := ∀ (c : Instr) (s : State), ∃ t, exec c s = .next t ∧ t.pending = s.pending ∧ ∃ l, t.out = l ++ s.out

/-- Every step keeps the canonical form of device memory and of the blocks' tables. -/
def Obligations.StepKeepsCanonical : Prop := ∀ s t : State, s.canonical = true → step s = .next t → t.canonical = true

/-- The state after reset is canonical, the module unowned, its slots EMPTY, no command waiting, the boot ROM about to run, in A0 (14:Table 14.6, 08:Table 8.13, 15:R388, 16:R412). -/
def Obligations.ResetCanonical : Prop :=
  State.reset.canonical = true ∧ State.reset.pending = [] ∧ State.reset.own.owner = none ∧ (∀ n, (State.reset.slot n).state = .empty) ∧ State.reset.sec.boot = .rom ∧ State.reset.pwr.state = .a0

/-- No step clears a fuse bit: the security version only rises, a revoked slot stays revoked, a lifecycle fuse stays set, and the other fuses never change (15:R385, R391 to R393). -/
def Obligations.FusesOnlyBurn : Prop :=
  ∀ s t : State, step s = .next t →
    s.fuses.svn ≤ t.fuses.svn ∧ (∀ k, s.fuses.revoked.getLsbD k = true → t.fuses.revoked.getLsbD k = true) ∧
    (s.fuses.field = true → t.fuses.field = true) ∧ (s.fuses.ret = true → t.fuses.ret = true) ∧
    t.fuses.uid = s.fuses.uid ∧ t.fuses.grade = s.fuses.grade ∧ t.fuses.stepMajor = s.fuses.stepMajor ∧
    t.fuses.stepMinor = s.fuses.stepMinor ∧ t.fuses.seed = s.fuses.seed ∧ t.fuses.keyHash0 = s.fuses.keyHash0 ∧
    t.fuses.keyHash1 = s.fuses.keyHash1 ∧ t.fuses.keyHash2 = s.fuses.keyHash2 ∧ t.fuses.romMeas = s.fuses.romMeas ∧ t.fuses.trims = s.fuses.trims

/-- A write through the gate of a master that does not own the module changes nothing but its counter of dropped writes, OWN_DROP_LAST and the answer of its path (14:R360). -/
def Obligations.DroppedWriteChangesNothing : Prop :=
  ∀ (c : Instr) (m : Master) (offset : Nat) (s : State), gatedAt c = some (m, offset) → s.reaches m = true → s.own.owner ≠ some m →
    exec c s = .next ((s.drop m 0 offset).answerWrite m 1)

/-! ## Contexts (08) -/

/-- CTX_LOAD takes the lowest-numbered EMPTY slot and the address, length and seed registers as they stand; nothing else of any slot changes, and no generation (08:R221, R226). A load is refused with BUSY while another is in progress, and with FULL when no slot is EMPTY: no slot changes, and event 0x1001 of source 0 says so (08:Table 8.11, R226). Completes: ctxLoad. The model's own readings and choices in it: log 79. -/
def Obligations.LoadTakesSlotOrIsRefused : Prop :=
  (∀ (s : State) (m : Master) (n : Nat), s.accepts m 0x60020 → s.ctx.busy = false → n < 8 → (s.slot n).state = .empty →
    (∀ k, k < n → (s.slot k).state ≠ .empty) →
    ∃ t, exec (.ctxLoad m) s = .next t ∧ t.ctx.busy = true ∧ t.ctx.slot = BitVec.ofNat 3 n ∧ t.ctx.curAddr = s.ctx.loadAddr ∧
      t.ctx.curLen = s.ctx.loadLen ∧ t.ctx.curSeed = s.ctx.seedHi ++ s.ctx.seedLo ∧ t.slot n = { s.slot n with state := .loading } ∧
      (∀ k, k ≠ n → t.slot k = s.slot k) ∧ (∀ k, t.gen k = s.gen k) ∧ s.sameRest t) ∧
  (∀ (s : State) (m : Master), s.accepts m 0x60020 → (s.ctx.busy = true ∨ ∀ k, k < 8 → (s.slot k).state ≠ .empty) →
    ∃ t, exec (.ctxLoad m) s = .next t ∧ t.ctx.reason = (if s.ctx.busy then 1 else 2) ∧ t.ctx.busy = s.ctx.busy ∧ t.ctx.slots = s.ctx.slots ∧
      (s.quiet 0 → t.shows 0 0x1001) ∧ s.sameRest t)

namespace Sys2Proof.Machine

/-- The state in which a load places its image: BUSY is clear, the spares have rotated where no other slot is loaded, and the roster stands (08:R217, R224). -/
def State.placing (s : State) (n : Nat) : State :=
  let s : State := { s with ctx := { s.ctx with busy := false } }
  (if (List.range 8).any (fun m => m != n && s.isLoaded m) then s else s.rotate).formRoster.noSpareEvents

/-- How far a load passes the checks of 08:R222, in ascending order of REASON: the range, the container, the program digest, the level, the image's rules, the module's place among the nodes. -/
structure LoadPasses (s : State) (r : Raw) (reason : Nat) : Prop where
  range : s.ctx.curAddr.toNat % 4096 = 0 ∧ s.ctx.curLen.toNat ≤ 2 ^ 34 ∧ validRange s.ctx.curAddr.toNat s.ctx.curLen.toNat = true
  read : s.mem.errs = [] ∧ r = rawOf (sread 0 s.mem.bytes s.ctx.curAddr.toNat s.ctx.curLen.toNat)
  format : 3 < reason → r.formatOk s.ctx.curLen.toNat = true
  digest : 4 < reason → BitVec.ofNat 512 (bits r.head 1023 512) = r.programDigest
  level : 5 < reason → r.image.minLevel ≤ 1
  rules : 6 < reason → r.firstBreach r.image = none
  node : 7 < reason → (1 < r.image.modules → r.image.compat = false ∧ s.node ≠ unassigned) ∧ s.node ∈ r.image.sill

end Sys2Proof.Machine

/-- The load in progress ends: BUSY is clear, and either the slot is IDLE with REASON 0, its step number 0, its seed that of the load, no stream advanced, the weight mode BF16-only and its counters zero, or it is EMPTY again with a REASON from 3 to 11. A load whose checks all pass is accepted: its slot is IDLE with the image that was read, the placement found for it, and its program digest. One that fails a check gets that check's REASON, the first in ascending order, with the section and the record of the first rule broken, and leaves its slot EMPTY; either way the module posts 0x1001 (08:R222, R226, Table 8.11). Completes: loadComplete. The model's own readings and choices in it: log 74, 75. -/
def Obligations.LoadEndsIdleOrEmpty : Prop :=
  ∀ (s : State) (n : Nat), s.canonical = true → s.ctx.busy = true → n < 8 → (s.slot n).state = .loading →
    (∀ k, k < n → (s.slot k).state ≠ .loading) →
    (∃ t, exec .loadComplete s = .next t ∧ t.ctx.busy = false ∧ t.ctx.slot = BitVec.ofNat 3 n ∧
      ((t.ctx.reason = 0 ∧ (t.slot n).state = .idle ∧ (t.slot n).step = 0 ∧ (t.slot n).seed = s.ctx.curSeed ∧ (t.slot n).offsets = [] ∧
          (t.slot n).wmode = false ∧ (t.slot n).started = false ∧ t.gen n = s.gen n ∧ t.numSlot n = .zero) ∨
       (3 ≤ t.ctx.reason.toNat ∧ t.ctx.reason.toNat ≤ 11 ∧ (t.slot n).state = .empty))) ∧
    (∀ (r : Raw) (p : Placement) (table : Nat), LoadPasses s r 8 →
      (s.placing n).placement r.image r.placeKey (r.image.sill.findIdx (fun y => y == s.node)) = .ok p table → (s.placing n).groupsHeld n + r.image.colls.length ≤ 4096 →
      ∃ t, exec .loadComplete s = .next t ∧ t.ctx.busy = false ∧ t.ctx.reason = 0 ∧ t.ctx.slot = BitVec.ofNat 3 n ∧ (t.slot n).state = .idle ∧ (t.slot n).image = some r.image ∧ (t.slot n).place = p ∧
        (t.slot n).progDigest = r.programDigest ∧ (t.slot n).seed = s.ctx.curSeed ∧ (t.slot n).step = 0 ∧ (∀ k, k < 8 → k ≠ n → (t.slot k).state = (s.slot k).state) ∧ (s.quiet (8 + n) → t.shows (8 + n) 0x1001)) ∧
    (let ends (reason sec rec : Nat) : Prop := ∃ t, exec .loadComplete s = .next t ∧ t.ctx.busy = false ∧ t.ctx.reason = BitVec.ofNat 8 reason ∧ t.ctx.section_ = BitVec.ofNat 16 sec ∧
      t.ctx.record = BitVec.ofNat 32 rec ∧ t.ctx.slot = BitVec.ofNat 3 n ∧ (t.slot n).state = .empty ∧ (s.quiet (8 + n) → t.shows (8 + n) 0x1001)
    ((s.ctx.curAddr.toNat % 4096 ≠ 0 ∨ 2 ^ 34 < s.ctx.curLen.toNat ∨ validRange s.ctx.curAddr.toNat s.ctx.curLen.toNat = false) → ends 3 0 0) ∧
    ∀ r : Raw,
      (LoadPasses s r 3 → r.formatOk s.ctx.curLen.toNat = false → ends 3 0 0) ∧
      (LoadPasses s r 4 → BitVec.ofNat 512 (bits r.head 1023 512) ≠ r.programDigest → ends 4 0 0) ∧
      (LoadPasses s r 5 → 1 < r.image.minLevel → ends 5 0 0) ∧
      (∀ x, LoadPasses s r 6 → r.firstBreach r.image = some x → ends 6 x.1 x.2) ∧
      (LoadPasses s r 7 → ((1 < r.image.modules ∧ (r.image.compat = true ∨ s.node = unassigned)) ∨ s.node ∉ r.image.sill) → ends 7 0 0) ∧
      (∀ reason, LoadPasses s r 8 → (s.placing n).placement r.image r.placeKey (r.image.sill.findIdx (fun y => y == s.node)) = .refused reason → (8 ≤ reason ∧ reason ≤ 10) ∧ ends reason 0 0) ∧
      (∀ p table, LoadPasses s r 8 → (s.placing n).placement r.image r.placeKey (r.image.sill.findIdx (fun y => y == s.node)) = .ok p table → 4096 < (s.placing n).groupsHeld n + r.image.colls.length → ends 11 0 0))

/-- A write of CTX_RUN sets TARGET from bits 3:0. With no context executing, a target that is not IDLE is told with event 0x1003, and a target from 8 to 15 names none. A weight-mode request stands until the next step start or boundary, and touches nothing else of its slot (08:R227, 05:R149). Completes: ctxRunWrite, weightModeRequest. -/
def Obligations.RunTargetAndModeRequest : Prop :=
  (∀ (s : State) (m : Master) (v : Word), s.accepts m 0x60030 →
    ∃ t, exec (.ctxRunWrite m v) s = .next t ∧ t.ctx.target = v.extractLsb' 0 4 ∧ t.ctx.slots = s.ctx.slots ∧ t.sch = s.sch ∧ s.sameRest t ∧
      (s.sch.exec = none → (v.extractLsb' 0 4).toNat < 8 → (s.slot (v.extractLsb' 0 4).toNat).state ≠ .idle →
        s.quiet (8 + (v.extractLsb' 0 4).toNat) → t.shows (8 + (v.extractLsb' 0 4).toNat) 0x1003)) ∧
  (∀ (s : State) (m : Master) (n : Fin 8) (split : Bool), s.canonical = true → s.accepts m (0x61020 + n.val * 0x100) →
    ∃ t, exec (.weightModeRequest m n split) s = .next t ∧ t.slot n.val = { s.slot n.val with wreq := split } ∧
      (∀ k, k ≠ n.val → t.slot k = s.slot k) ∧ s.sameRest t ∧ t.sch = s.sch)

/-- EXPORT of an IDLE context writes its transfer block at CTX_XFER_ADDR, byte for byte, and posts 0x1004; the context is unchanged (08:R231). RESTORE of an IDLE context that has not started takes the seed, the step number, the weight mode and the stream offsets of an acceptable transfer block, sets its counters to zero and keeps its image and generation; one that has started is refused with 0x1005 and does not change (08:R231). Completes: exportBlock, restoreBlock. The model's own readings and choices in it: log 119. -/
def Obligations.TransferBlocks : Prop :=
  (∀ (s : State) (m : Master) (n : Fin 8) (g : Image) (i : Nat), s.canonical = true → s.accepts m (0x61008 + n.val * 0x100) →
    (s.slot n.val).state = .idle → (s.slot n.val).image = some g → (s.slot n.val).xferAddr.toNat % 256 = 0 →
    (s.slot n.val).xferAddr.toNat + ((s.slot n.val).exportBlock g).length ≤ devLimit →
    clearOfDump (s.slot n.val).xferAddr.toNat ((s.slot n.val).exportBlock g).length = true → i < ((s.slot n.val).exportBlock g).length →
    ∃ t, exec (.exportBlock m n) s = .next t ∧
      sget 0 t.mem.bytes ((s.slot n.val).xferAddr.toNat + i) = ((s.slot n.val).exportBlock g).getD i 0 ∧
      t.ctx = s.ctx ∧ t.cells = s.cells ∧ t.own = s.own ∧ (s.quiet (8 + n.val) → t.shows (8 + n.val) 0x1004)) ∧
  (∀ (s : State) (m : Master) (n : Fin 8) (g : Image), s.canonical = true → s.accepts m (0x61008 + n.val * 0x100) →
    (s.slot n.val).state = .idle → (s.slot n.val).image = some g →
    (∀ b : Bytes, b = (s.readRange (controlReader (some n.val)) (s.slot n.val).xferAddr.toNat (104 + 8 * g.streams.length)).2.1 →
      (s.slot n.val).started = false → (s.slot n.val).xferAddr.toNat % 256 = 0 →
      (s.slot n.val).xferAddr.toNat + (104 + 8 * g.streams.length) ≤ devLimit → s.mem.errs = [] → (s.slot n.val).restoreCause g b = none →
      ∃ t, exec (.restoreBlock m n) s = .next t ∧ (t.slot n.val).seed = BitVec.ofNat 128 (leNat ((b.drop 64).take 16)) ∧
        (t.slot n.val).step = BitVec.ofNat 40 (leNat ((b.drop 80).take 8)) ∧ (t.slot n.val).wmode = (leNat ((b.drop 88).take 1) == 1) ∧
        -- the record of a stream, in whatever place it stands, gives the stream's offset
        (∀ i, g.streamsInOrder.Nodup → i < g.streams.length → sget 0 (t.slot n.val).offsets (bits (leNat ((b.drop (104 + 8 * i)).take 8)) 55 40) =
          BitVec.ofNat 40 (leNat ((b.drop (104 + 8 * i)).take 8))) ∧
        (t.slot n.val).image = some g ∧ (t.slot n.val).state = .idle ∧ t.gen n.val = s.gen n.val ∧ t.numSlot n.val = .zero) ∧
    ((s.slot n.val).started = true →
      ∃ t, exec (.restoreBlock m n) s = .next t ∧ t.ctx = s.ctx ∧ t.mem = s.mem ∧ t.cells = s.cells ∧
        (s.quiet (8 + n.val) → t.shows (8 + n.val) 0x1005)))

/-- UNLOAD of a slot that is neither EMPTY nor DRAINING makes it DRAINING, adds one to its generation at once, and ends its horizon 2 ms later, or 20 ms later for an image of several modules. When the horizon has passed, the slot is EMPTY, with its transfer address alone kept, and its target is cleared (08:R233). Completes: unload, drainHorizon. -/
def Obligations.UnloadThenDrain : Prop :=
  (∀ (s : State) (m : Master) (n : Fin 8), s.canonical = true → s.accepts m (0x61008 + n.val * 0x100) → (s.slot n.val).state ≠ .empty →
    (s.slot n.val).state ≠ .draining →
    ∃ t, exec (.unload m n) s = .next t ∧ (t.slot n.val).state = .draining ∧ t.gen n.val = s.gen n.val + 1 ∧
      (∀ g, (s.slot n.val).state ≠ .loading → (s.slot n.val).image = some g → (t.slot n.val).drainAt = t.now + (if g.modules = 1 then 2 else 20) * msNs) ∧ t.own = s.own ∧ t.fuses = s.fuses) ∧
  (∀ (s : State) (n : Fin 8), s.canonical = true → (s.slot n.val).state = .draining →
    ∃ t, exec (.drainHorizon n) s = .next t ∧ t.slot n.val = { Slot.reset with xferAddr := (s.slot n.val).xferAddr } ∧
      (∀ k, k ≠ n.val → t.slot k = s.slot k) ∧ t.ctx.target = (if s.ctx.target.toNat = n.val then 0xF else s.ctx.target) ∧
      t.mem = s.mem ∧ t.cells = s.cells ∧ t.own = s.own ∧ (s.quiet (8 + n.val) → t.shows (8 + n.val) 0x1006))

/-- The next step of a context starts: the module runs in A0 with no transition and no overdue test, its step is due, its memory is on stacks in service, it need not re-bind, its root can carry a step, and before a first step no switch is pending and every join is held. The context is then ACTIVE and executes, at pound 0 of its step (08:R227, 07:R183). Completes: stepStart. The model's own readings and choices in it: log 80, 84. -/
def Obligations.StepStartExecutes : Prop :=
  ∀ (s : State) (n : Nat) (g : Image), s.canonical = true → s.running = true → s.pwr.state = .a0 → s.pwr.trans = none →
    s.tst.running.all (fun j => !j.overdue) = true → s.dueSlot = some n → n < 8 → (s.slot n).image = some g →
    (s.rangesInUse n).all (fun r => (s.stack r.stack).inService) = true → (s.slot n).rebind = false →
    s.rootOk n g = true → (s.slot n).joinDue = false →
    ((s.slot n).started = true ∨ ((s.slot n).rootPending = false ∧ (s.slot n).wreq = (s.slot n).wmode ∧ s.joined n g = true)) →
    ∃ t, exec .stepStart s = .next t ∧ t.sch.exec.map (·.val) = some n ∧ t.sch.begun = true ∧ t.sch.state = .boundary ∧ t.sch.pound = 0 ∧
      (t.slot n).state = .active ∧ (t.slot n).started = true ∧ (t.slot n).step = (s.slot n).step ∧ (t.slot n).digests = [] ∧
      (t.numSlot n).current = .zero ∧ t.own = s.own ∧ (g.regions = [] → (s.slot n).wmode = false → t.mem = s.mem)

/-! ## The schedule (07) -/

/-- A pound starts when its step has begun, it is due, the module is in A0 with no transition and every bound cell has started. Without a throttle request ticks run at once from tick 0; with one the pound first holds for its quanta, thermal ones before power ones (07:R180, R193). Completes: poundStart. The model's own readings and choices in it: log 55. -/
def Obligations.PoundStarts : Prop :=
  ∀ (s : State) (w : Now), s.nowAt = some w → s.sch.begun = true → s.sch.state = .boundary → s.sch.pound < w.g.pounds.length →
    s.pwr.state = .a0 → s.pwr.trans = none → s.cellsReady w.slot = true →
    ∃ t, exec .poundStart s = .next t ∧ t.sch.tickIn = 0 ∧ t.sch.phase = 0 ∧ t.sch.pound = s.sch.pound ∧ t.sch.tick = s.sch.tick ∧
      t.sch.leftT = s.sch.thermalQ.toNat ∧ t.sch.leftP = s.sch.powerQ.toNat - s.sch.thermalQ.toNat ∧
      (s.sch.thermalQ = 0 → s.sch.powerQ = 0 → t.sch.state = .inPound ∧ t.sch.hold = s.sch.hold) ∧
      (s.sch.thermalQ ≠ 0 → t.sch.state = .holding ∧ t.sch.hold.map (·.cause) = some .thermal) ∧
      (s.sch.thermalQ = 0 → s.sch.powerQ ≠ 0 → t.sch.state = .holding ∧ t.sch.hold.map (·.cause) = some .power) ∧
      t.mem = s.mem ∧ t.ctx = s.ctx ∧ t.own = s.own

/-- A phase opens at its first tick, and pairing shadows with spares moves no byte and changes no role (07:R195, 13:R328). The phase's comparison closes with the pass of every shadow that latched no difference: FLT_SHADOW_PASS counts them, and no shadow is left (13:R330). One that latched a difference is a mismatch: FLT_SHADOW_MISMATCH counts it, both cells are suspect and leave service, 0x5004 is posted, and the context faults at the sill (13:R333). A phase ends at its last tick, and the next one is due unless it was the last of the pound. A bound cell that does not report its end is hung: FLT_HANGS counts it, the context faults at the sill, and only then a level-1 reset of it starts; with none hung, no hang counts (07:R195, 13:R341). Completes: phaseStart, shadowClose, phaseEnd. The model's own readings and choices in it: log 91, 99. -/
def Obligations.PhasesOpenAndEnd : Prop :=
  (∀ (s : State) (w : Now), s.canonical = true → s.nowAt = some w → s.sch.state = .inPound → s.sch.phaseOpen = false →
    s.sch.tickIn ≤ s.sch.phase * w.len →
    ∃ t, exec .phaseStart s = .next t ∧ t.sch.phaseOpen = true ∧ t.sch.phase = s.sch.phase ∧ t.sch.tickIn = s.sch.phase * w.len ∧
      t.sch.tick = s.sch.tick + BitVec.ofNat 64 (s.sch.phase * w.len - s.sch.tickIn) ∧ t.ctx = s.ctx ∧ t.mem = s.mem ∧ t.own = s.own ∧
      (∀ k, (t.cell k).spad = (s.cell k).spad) ∧ (∀ k, (t.cell k).role = (s.cell k).role)) ∧
  (∀ (s : State) (w : Now), s.canonical = true → s.nowAt = some w → s.sch.state = .inPound → s.sch.phaseOpen = true →
    ∃ t, exec (.shadowClose []) s = .next t ∧ t.flt.shadowPass = s.flt.shadowPass + BitVec.ofNat 64 s.shadows.length ∧
      t.flt.shadowMismatch = s.flt.shadowMismatch ∧ t.shadows = [] ∧ t.ctx = s.ctx ∧ t.mem = s.mem ∧ t.own = s.own) ∧
  (∀ (s : State) (w : Now) (d : ShadowDiff) (shadow : Nat), s.canonical = true → s.nowAt = some w → s.sch.state = .inPound → s.sch.phaseOpen = true →
    s.shadows = [(shadow, cellKey d.die.val d.cell.val)] → shadow ≠ cellKey d.die.val d.cell.val →
    ∃ t, exec (.shadowClose [d]) s = .next t ∧ t.flt.shadowMismatch = s.flt.shadowMismatch + 1 ∧ t.flt.shadowPass = s.flt.shadowPass ∧ t.shadows = [] ∧
      (∀ k, k = shadow ∨ k = cellKey d.die.val d.cell.val → (t.cell k).suspect = true ∧ (t.cell k).role = .out ∧ t.ao.oos.contains k = true) ∧
      (t.cell shadow).spad = [] ∧ (t.cell shadow).power = 0 ∧ (t.slot w.slot).sillFault = true ∧ (s.quiet (srcDie d.die.val) → t.shows (srcDie d.die.val) 0x5004) ∧ t.own = s.own) ∧
  (∀ (s : State) (w : Now), s.canonical = true → s.nowAt = some w → s.sch.state = .inPound → s.sch.phaseOpen = true →
    (∃ t, exec (.phaseEnd []) s = .next t ∧ t.sch.phaseOpen = false ∧
      t.sch.phase = (if s.sch.phase + 1 < w.fold then s.sch.phase + 1 else s.sch.phase) ∧
      t.sch.tickIn = max s.sch.tickIn ((s.sch.phase + 1) * w.len) ∧ t.flt.hangs = s.flt.hangs ∧ t.flt.resets = s.flt.resets ∧
      t.mem = s.mem ∧ t.own = s.own) ∧
    (∀ (d : Fin 16) (c : Fin 68), (s.boundKeys w.slot).contains (cellKey d.val c.val) = true →
      ∃ t, exec (.phaseEnd [(d, c)]) s = .next t ∧ t.sch.phaseOpen = false ∧ t.flt.hangs = s.flt.hangs + 1 ∧
        t.flt.resets = s.flt.resets ∧ (t.cell (cellKey d.val c.val)).hung = true ∧ (t.slot w.slot).sillFault = true ∧ t.own = s.own))

/-- A member that reaches its sill lead and holds its children's tokens sends its own subtree token, and the root then completes the pound. A token of a wrong generation, step or pound is dropped and counts in FLT_STALE_LINK (07:R184, 11:R301, 10:R266). Completes: sillLeadReached, sillToken. The model's own readings and choices in it: log 47. -/
def Obligations.SillLeadAndTokens : Prop :=
  (∀ (s : State) (w : Now), s.nowAt = some w → s.sch.state = .inPound → 1 < w.g.modules → s.sch.leadReached = false →
    ∃ t, exec .sillLeadReached s = .next t ∧ t.sch.leadReached = true ∧ t.ctx = s.ctx ∧ t.mem = s.mem ∧ t.cells = s.cells ∧ t.own = s.own ∧
      t.sch.tickIn = max s.sch.tickIn (w.ticks - (w.g.pounds.getD s.sch.pound ⟨0, 0⟩).lead) ∧
      ((w.g.childrenOf (s.position w.slot)).all (fun p => s.sch.subtree.contains p) = true →
        (w.g.parentOf (s.position w.slot) = none → t.sch.completed = true) ∧
        (∀ p, w.g.parentOf (s.position w.slot) = some p → t.sch.subtreeSent = true))) ∧
  (∀ (s : State) (via : Carriage) (w : Now) (origin : BitVec 16) (gen : BitVec 8) (step : BitVec 40) (pound : BitVec 20) (completed : Bool), s.nowAt = some w → s.carries via →
    (s.tokenFits w origin.toNat gen step pound.toNat = false →
      exec (.sillToken via origin gen ⟨step, pound⟩ completed) s = .next { s.received via with flt := { s.flt with staleLink := s.flt.staleLink + 1 } }) ∧
    (s.tokenFits w origin.toNat gen step pound.toNat = true → w.g.parentOf (s.position w.slot) = some origin.toNat →
      ∃ t, exec (.sillToken via origin gen ⟨step, pound⟩ true) s = .next t ∧ t.sch.completed = true ∧ t.ctx = s.ctx ∧ t.mem = s.mem) ∧
    (s.tokenFits w origin.toNat gen step pound.toNat = true → (w.g.childrenOf (s.position w.slot)).contains origin.toNat = true →
      ∃ t, exec (.sillToken via origin gen ⟨step, pound⟩ false) s = .next t ∧ t.sch.subtree.contains origin.toNat = true ∧ t.ctx = s.ctx ∧ t.mem = s.mem))

/-- A pound ends after its last phase, with the sill entry present where the group has several modules. The events of finished operations are posted and the regions that are due close first (14:R373, 09:R251). If no fault waits for the sill then, the next pound is due; else the context faults, and its hung cells are reset (07:R180, R184, 13:R341). Completes: poundEnd. The model's own readings and choices in it: log 100. -/
def Obligations.PoundEndsAtSill : Prop :=
  ∀ (s : State) (w : Now), s.canonical = true → s.nowAt = some w → s.sch.state = .inPound → s.sch.phaseOpen = false → s.sch.phase + 1 = w.fold →
    w.ticks ≤ s.sch.tickIn → (w.g.modules ≤ 1 ∨ s.sch.completed = true) →
    let u := s.sillWork w
    ((u.slot w.slot).sillFault = false →
      ∃ t, exec .poundEnd s = .next t ∧ t.sch.state = .boundary ∧ t.sch.pound = s.sch.pound + 1 ∧ t.sch.tickIn = 0 ∧ t.sch.phase = 0 ∧
        t.sch.completed = false ∧ t.sch.subtree = [] ∧ t.sch.tick = s.sch.tick ∧ t.cells = u.cells ∧ t.mem = u.mem ∧ t.ctx = u.ctx ∧ t.own = s.own ∧
        (w.g.regions = [] → t.mem = s.mem ∧ t.cells = s.cells)) ∧
    ((u.slot w.slot).sillFault = true → (u.slot w.slot).state = .active → s.sch.exec.map (·.val) = some w.slot →
      ∃ t, exec .poundEnd s = .next t ∧ (t.slot w.slot).state = .faulted ∧ t.sch.exec = none ∧ t.own = s.own ∧
        (s.tst.deferred = [] → ∀ k, (u.cell k).hung = true → (t.cell k).hung = false ∧ (t.cell k).inReset = true ∧ ⟨1, k / 68, k % 68, false, false, [], []⟩ ∈ t.flt.resets)) ∧
    (w.g.regions = [] → (u.slot w.slot).sillFault = (s.slot w.slot).sillFault ∧ (u.slot w.slot).state = (s.slot w.slot).state)

/-- At a step boundary the counts of the step go to NUM_STEP and are added to the totals at once, the step number goes up by one, and a context that the target still names goes on. With the target elsewhere it pauses: IDLE, with event 0x1002, and no context executes. The step number 2^40 − 1 has no successor: its context faults (07:R183, 03:R87, 01:R28, 08:R227). Completes: stepBoundary. The model's own readings and choices in it: log 101. -/
def Obligations.StepBoundaryCountsAndPauses : Prop :=
  ∀ (s : State) (w : Now), s.canonical = true → s.nowAt = some w → s.sch.begun = true → s.sch.state = .boundary → s.sch.pound = w.g.pounds.length →
    (s.slot w.slot).state = .active → (s.slot w.slot).rootPending = false → (s.slot w.slot).wreq = (s.slot w.slot).wmode → s.tst.deferred = [] →
    ((s.slot w.slot).step.toNat ≠ 2 ^ 40 - 1 →
      ∃ t, exec .stepBoundary s = .next t ∧ (t.slot w.slot).step = (s.slot w.slot).step + 1 ∧ (t.numSlot w.slot).last = (s.numSlot w.slot).current ∧
        (t.numSlot w.slot).total = (s.numSlot w.slot).total.add (s.numSlot w.slot).current ∧ (t.numSlot w.slot).stepId = (s.slot w.slot).step ∧
        (t.numSlot w.slot).stepValid = true ∧ t.own = s.own ∧
        (s.runTarget = some w.slot → t.sch.exec = s.sch.exec ∧ (t.slot w.slot).state = .active ∧ t.sch.begun = false) ∧
        (s.runTarget ≠ some w.slot → t.sch.exec = none ∧ (t.slot w.slot).state = .idle ∧ t.sch.state = .idle)) ∧
    ((s.slot w.slot).step.toNat = 2 ^ 40 - 1 → s.sch.exec.map (·.val) = some w.slot →
      ∃ t, exec .stepBoundary s = .next t ∧ (t.slot w.slot).state = .faulted ∧ t.sch.exec = none)

/-- A hold quantum counts under its cause and under no other. After a data quantum with nothing absent ticks resume; with something absent the hold goes on. Throttle quanta count as THERMAL until those of the thermal request are over and then as POWER, and after the last one ticks start (07:R193). A hold that has lasted SCH_HOLD_LIMIT faults its context and posts 0x5007 (07:R188 to R191, 13:R342). The check before tick ρ − 64 holds the pound when an entry due at ρ is absent, with the cause of the first one in the order memory, link, sill, and lets it run when none is (07:R187, R188). Completes: holdQuantumEnd, holdLimit, laybyCheck. The model's own readings and choices in it: log 99. -/
def Obligations.HoldsForAbsentEntries : Prop :=
  (∀ (s : State) (w : Now) (h : Hold), s.nowAt = some w → s.sch.hold = some h → h.cause.isData = true →
    ∃ t, exec .holdQuantumEnd s = .next t ∧
      t.sch.holdMem = (if h.cause = .mem then s.sch.holdMem + 1 else s.sch.holdMem) ∧
      t.sch.holdLink = (if h.cause = .link then s.sch.holdLink + 1 else s.sch.holdLink) ∧
      t.sch.holdSill = (if h.cause = .sill then s.sch.holdSill + 1 else s.sch.holdSill) ∧
      t.sch.holdThermal = s.sch.holdThermal ∧ t.sch.holdPower = s.sch.holdPower ∧ t.sch.tickIn = s.sch.tickIn ∧ t.sch.tick = s.sch.tick ∧
      t.cells = s.cells ∧ t.mem = s.mem ∧ t.ctx = s.ctx ∧
      (s.absent w (h.tick + 64) = none → t.sch.state = .inPound ∧ t.sch.hold = none ∧ t.sch.holdNs = s.sch.holdNs + BitVec.ofNat 64 (s.now - h.start)) ∧
      (∀ a, s.absent w (h.tick + 64) = some a → t.sch.state = s.sch.state ∧ t.sch.hold = some { h with cause := a.cause, quanta := h.quanta + 1 })) ∧
  (∀ (s : State) (w : Now) (h : Hold), s.nowAt = some w → s.sch.hold = some h → (h.cause = .thermal ∨ h.cause = .power) →
    let lt := s.sch.leftT - (if h.cause = .thermal then 1 else 0)
    let lp := s.sch.leftP - (if h.cause = .power then 1 else 0)
    ∃ t, exec .holdQuantumEnd s = .next t ∧ t.sch.holdThermal = (if h.cause = .thermal then s.sch.holdThermal + 1 else s.sch.holdThermal) ∧
      t.sch.holdPower = (if h.cause = .power then s.sch.holdPower + 1 else s.sch.holdPower) ∧ t.sch.leftT = lt ∧ t.sch.leftP = lp ∧
      t.sch.holdMem = s.sch.holdMem ∧ t.sch.holdLink = s.sch.holdLink ∧ t.sch.holdSill = s.sch.holdSill ∧ t.sch.tickIn = s.sch.tickIn ∧ t.sch.tick = s.sch.tick ∧
      t.cells = s.cells ∧ t.mem = s.mem ∧ t.ctx = s.ctx ∧
      (0 < lt → t.sch.state = s.sch.state ∧ t.sch.hold = some { h with cause := .thermal }) ∧
      (lt = 0 → 0 < lp → t.sch.state = s.sch.state ∧ t.sch.hold = some { h with cause := .power }) ∧
      (lt = 0 → lp = 0 → t.sch.state = .inPound ∧ t.sch.hold = none)) ∧
  (∀ (s : State) (w : Now) (h : Hold) (a : Absent), s.canonical = true → s.nowAt = some w → s.sch.hold = some h → h.cause.isData = true →
    s.absent w (h.tick + 64) = some a → (s.slot w.slot).state = .active → s.sch.exec.map (·.val) = some w.slot →
    ∃ t, exec .holdLimit s = .next t ∧ (t.slot w.slot).state = .faulted ∧ t.sch.exec = none ∧ (s.quiet 0x011 → t.shows 0x011 0x5007) ∧
      (h.start + h.quantaAtLimit s.sch * 256 / 3 < 2 ^ 64 → h.start + s.sch.limitNs ≤ t.now) ∧ t.sch.longest = (s.sch.countToLimit h a.cause).longest ∧
      t.sch.holdMem = (s.sch.countToLimit h a.cause).holdMem ∧ t.sch.holdLink = (s.sch.countToLimit h a.cause).holdLink ∧
      t.sch.holdSill = (s.sch.countToLimit h a.cause).holdSill ∧ t.own = s.own) ∧
  (∀ (s : State) (w : Now) (tick : Nat), s.nowAt = some w → s.sch.state = .inPound → s.sch.tickIn ≤ tick → tick < w.ticks →
    ∃ t, exec (.laybyCheck tick) s = .next t ∧ t.sch.tickIn = tick ∧ t.sch.tick = s.sch.tick + BitVec.ofNat 64 (tick - s.sch.tickIn) ∧
      t.cells = s.cells ∧ t.lnk = s.lnk ∧ t.mem = s.mem ∧ t.ctx = s.ctx ∧
      (s.absent w (tick + 64) = none → t.sch.state = .inPound ∧ t.sch.hold = s.sch.hold) ∧
      (∀ a, s.absent w (tick + 64) = some a → t.sch.state = .holding ∧ t.sch.hold = some ⟨tick, a.cause, 0, s.now⟩))

/-- A present burst of the executing context is released at its ρ: its entry is free, and its four words stand at their places in the cell's scratchpad, but for those whose bank a write of higher priority takes in that tick (07:R188, 06:R160, 07:Table 7.5). A burst that has not come, and the sill, release nothing. A link slot that is due is free once it is released (07:R187, R188). A package transfer that misses its release point is lost: it is no longer in flight, and its context faults at the sill (07:R186). Completes: laybyRelease, fabricTransferLate. The model's own readings and choices in it: log 100. -/
def Obligations.ReleasesAndLateTransfers : Prop :=
  (∀ (s : State) (w : Now) (d : Fin 16) (c : Fin 68) (e : Fin 64), s.nowAt = some w → s.sch.state = .inPound →
    sget none (s.cell (cellKey d.val c.val)).layby e.val = none →
    exec (.laybyRelease (.mem d c e)) s = .next s ∧ exec (.laybyRelease .sill) s = .next s) ∧
  (∀ (s : State) (w : Now) (d : Fin 16) (c : Fin 68) (e : Fin 64) (b : Burst) (data : Bytes) (i j : Nat), s.canonical = true → s.nowAt = some w →
    s.sch.state = .inPound →
    sget none (s.cell (cellKey d.val c.val)).layby e.val = some b → b.data = some data → b.slot.toNat = w.slot →
    ∃ t, exec (.laybyRelease (.mem d c e)) s = .next t ∧ sget none (t.cell (cellKey d.val c.val)).layby e.val = none ∧
      t.cell (cellKey d.val c.val) = { (s.cell (cellKey d.val c.val)).wordsIn (s.workOf w.slot (cellKey d.val c.val)) b.release b.places data with
        layby := (t.cell (cellKey d.val c.val)).layby } ∧
      ((s.cell (cellKey d.val c.val)).landed = [] → b.places.Nodup → (∀ p ∈ b.places, p % 64 = 0) → i < b.places.length → j < 64 → 64 * i + j < data.length →
        sget 0 (t.cell (cellKey d.val c.val)).spad (b.places.getD i 0 + j) =
          if lostIn (s.workOf w.slot (cellKey d.val c.val)) (s.cell (cellKey d.val c.val)) (b.release + i) (b.places.getD i 0 + j) then
            sget 0 (s.cell (cellKey d.val c.val)).spad (b.places.getD i 0 + j) else data.getD (64 * i + j) 0) ∧
      t.sch.tickIn = max s.sch.tickIn b.release ∧
      (∀ k, k ≠ cellKey d.val c.val → t.cell k = s.cell k) ∧ t.mem = s.mem ∧ t.own = s.own) ∧
  (∀ (s : State) (w : Now) (d : Fin 6) (i tick : Nat) (v : LinkSlot), s.canonical = true → s.nowAt = some w → s.sch.state = .inPound →
    s.linkSlot (slotKey d.val i) = some v → v.slot.val = w.slot → s.slotRelease w v = some (s.sch.pound, tick) →
    ∃ t, exec (.laybyRelease (.link d i)) s = .next t ∧ t.linkSlot (slotKey d.val i) = none ∧ t.sch.tickIn = max s.sch.tickIn tick ∧
      t.mem = s.mem ∧ t.own = s.own) ∧
  (∀ (s : State) (i : Nat) (x : PkgTransfer), s.flight.transfers[i]? = some x → s.frozen x = false →
    ∃ t, exec (.fabricTransferLate i) s = .next t ∧ t.flight.transfers = s.flight.transfers.eraseIdx i ∧ (t.slot x.slot.val).sillFault = true ∧
      t.cells = s.cells ∧ t.mem = s.mem ∧ (s.quiet 0x012 → t.shows 0x012 0x5008))

/-! ## The engines of a cell (05, 06, 04, 03) -/

namespace Sys2Proof.Machine

/-- A record of the executing context's image that it is its engine's turn to issue (06:R172), on a cell whose scratchpad holds no error. -/
def State.issues (s : State) (k engine : Nat) (x : Issue) : Prop :=
  s.canonical = true ∧ s.turn k engine = some x ∧ (s.cell x.key).spadErr = []

/-- A record that has issued in this step, on a cell whose scratchpad holds no error. -/
def State.ends (s : State) (k engine : Nat) (x : Issue) : Prop :=
  s.canonical = true ∧ s.issueOf k engine = some x ∧ (s.slot x.slot).doneRecs.contains k = true ∧ (s.cell x.key).spadErr = []

/-- Every other cell is as it was, but that a shadow of the record's cell has done the same as it (13:R329). -/
def State.othersAs (s t : State) (x : Issue) : Prop :=
  ∀ j, j ≠ x.key → t.cell j =
    if x.rc.engine ≤ 4 ∧ (s.cell j).shadowOf = some x.key then (s.cell j).shadowing (s.cell x.key) (t.cell x.key) else s.cell j

/-- What a record of a cell engine leaves as it was: every other cell but a shadow, every other slot, device memory, every block but the schedule's tick; of its own cell only the scratchpad with the times of its writes, the mark of work and the queues of the engines move, and of its own slot only what the step has gathered. -/
def State.engineFrame (s t : State) (k : Nat) (x : Issue) : Prop :=
  s.othersAs t x ∧
  t.cell x.key = { s.cell x.key with worked := true, spad := (t.cell x.key).spad, landed := (t.cell x.key).landed, ports := (t.cell x.key).ports, readOut := (t.cell x.key).readOut, feedTensor := (t.cell x.key).feedTensor, feed := (t.cell x.key).feed, dmaBursts := (t.cell x.key).dmaBursts, snags := (t.cell x.key).snags, snagOverflow := (t.cell x.key).snagOverflow, channels := (if isSliceOp x.op.opcode ∧ x.rc.engine = 5 then ((s.beganSlice k x).cell x.key).channels else (s.cell x.key).channels) } ∧
  (∀ n, n ≠ x.slot → t.slot n = s.slot n ∧ t.numSlot n = s.numSlot n) ∧
  t.slot x.slot = { s.slot x.slot with doneRecs := k :: (s.slot x.slot).doneRecs, digests := (t.slot x.slot).digests, opEvents := (t.slot x.slot).opEvents, losses := (t.slot x.slot).losses, anchors := (t.slot x.slot).anchors } ∧
  t.sch = (s.began k x).sch ∧ t.mem = s.mem ∧ t.stks = s.stks ∧ t.lnk = s.lnk ∧ t.own = s.own ∧ t.sec = s.sec ∧ t.fuses = s.fuses ∧
  t.evt = s.evt ∧ t.ao = s.ao ∧ t.pwr = s.pwr ∧ t.wld = s.wld ∧ t.flt = s.flt ∧ t.glb = s.glb ∧ t.tst = s.tst

/-- The two computations of an audit cell differ: the cell's counter counts it, the cell leaves service, carrying the pound on, and its context faults at the sill (05:R145, 13:R327, R333). -/
def State.laneFault (s t : State) (x : Issue) : Prop :=
  (t.cell x.key).vecDupFail = (s.cell x.key).vecDupFail + 1 ∧ (t.cell x.key).role = .out ∧ (t.cell x.key).suspect = true ∧
  (t.cell x.key).inReset = false ∧ (t.cell x.key).power = (s.cell x.key).power ∧ x.key ∈ t.ao.oos ∧ (t.slot x.slot).sillFault = true ∧
  (s.quiet (srcDie x.bind.die) → t.shows (srcDie x.bind.die) 0x5003)

/-- What a record of the vector engine leaves: the frame of an engine, or, on an audit cell whose lanes differ, `laneFault`. -/
def State.laneFrame (s t : State) (k : Nat) (x : Issue) (differ : Bool) : Prop :=
  ((s.cell x.key).audits = false ∨ differ = false → s.engineFrame t k x) ∧ ((s.cell x.key).audits = true ∧ differ = true → s.laneFault t x)

/-- The elements of a record stand at their positions of an operand, each from the tick of its write on, but for those that an engine of higher priority displaces (06:R160): the scratchpad is that of the issue with them landed, where the record goes to the scratchpad. -/
def State.wrote (t u : State) (x : Issue) (wn : When) (o : Operand) (dest : Dest) (ps : List Put) : Prop :=
  (t.cell x.key).spad = (if dest.spad then (o.landAll x wn (u.cell x.key) ps).spad else (u.cell x.key).spad) ∧
  (t.cell x.key).landed = (if dest.spad then (o.landAll x wn (u.cell x.key) ps).landed else (u.cell x.key).landed) ∧
  (dest.feed = true → (t.cell x.key).feed = ((u.cell x.key).feedAll o.tensor ps).feed)

/-- The saturated elements count for the tensor's kind. -/
def State.countedSat (t u : State) (x : Issue) (kind : Nat) (ps : List Put) : Prop :=
  (t.numSlot x.slot).current = (u.numSlot x.slot).current.sat kind (ps.countP (fun y => y.counts))

/-- What a record writes: results converted under the recipe of the destination's kind. -/
def State.gave (t u : State) (x : Issue) (wn : When) (o : Operand) (dest : Dest) (fromSum force : Bool) (rs : List Res) : Prop :=
  let ps := convertResults o.lay.format fromSum (u.roundWord x.slot x.op.stream o.kind force) rs
  t.wrote u x wn o dest ps ∧ t.countedSat u x o.kind ps

/-- The result of a composite on its rows. -/
def State.rowsBy (u : State) (x : Issue) (w : VecWork) (f : List (BitVec 32) → List (BitVec 32) → List (BitVec 32) → List F32) : List Res :=
  let l := w.dst.lay
  let v (r : Src) (row : Nat) := r.rowVals x.seat (x.vecCell (u.cell x.key)) l w.first row
  rowResults l ((Issue.rows l w.ps).map (fun r => (r, f (v w.s0 r) (v w.s1 r) (v w.s2 r))))

/-- The command of a vector opcode, by its record and by whether the two lanes of an audit cell differ. -/
def laneForm (opcode : Nat) : Option (Nat → Bool → Instr) :=
  match opcode with
  | 0x0100 => some .vectorChain
  | 0x0200 => some .vectorChain
  | 0x0210 => some .softmax
  | 0x0211 => some .rmsNormalisation
  | 0x0212 => some .layerNormalisation
  | 0x0213 => some .crossEntropy
  | 0x0220 => some (fun k d => .dropOut ⟨k, d⟩)
  | 0x0221 => some (fun k d => .initialisation ⟨k, d⟩)
  | 0x0230 => some (fun k d => .sampling ⟨k, d⟩)
  | 0x0231 => some (fun k d => .routing ⟨k, d⟩)
  | 0x0240 => some .optimizerUpdate
  | 0x0500 => some (fun k d => .conversion ⟨k, d⟩)
  | _ => none

/-- A slice on its way to device memory: the sealed barges of a slice of whole barges, or the piece of a barge with the slot and the generation of the context (10:R263, 06:R167). -/
def State.sliceSent (u : State) (x : Issue) (tensor base : Nat) (d : Bytes) : List BargeWrite × List PartWrite :=
  if d.length % 4096 = 0 then
    ((List.range (d.length / 4096)).filterMap (fun i => (u.bargeAddr x.slot x.g tensor (base / 4096 + i)).map (fun a =>
      let z := u.seal x.slot x.g tensor (base / 4096 + i) (sourceCell x.bind.die x.bind.cell) (u.slot x.slot).step.toNat ((d.drop (4096 * i)).take 4096)
      ⟨a, z.1, z.2, none⟩)), [])
  else ([], (u.bargeAddr x.slot x.g tensor (base / 4096)).toList.map (fun a => ⟨a + base % 4096, d, BitVec.ofNat 3 x.slot, u.gen x.slot, none, x.bind.die, x.bind.cell⟩))

end Sys2Proof.Machine

/-- An element that an engine writes reads back: the bits at its position are those written, whatever the format, the fold and the swizzle. Every byte of the scratchpad that no written element touches is unchanged (06:R153, R155, R156, 07:R197). A read up to the tick of a write gets the old bytes and one after it the new; a write displaced by one of higher priority is lost; a read that shares its bank with one of higher priority gets that one's word (06:R160, 07:R200, Table 7.5). The model's own readings and choices in it: log 13, 122. -/
def Obligations.ScratchpadReadsBack : Prop :=
  (∀ (o : Operand) (t : Seat) (c : Cell) (p v : Nat), c.spadWf = true → c.spadErr = [] → 16 ≤ t.space →
    (o.lay.swzBits = 0 ∨ o.lay.swzBits ≤ 5 ∧ 11 ≤ o.lay.swzShift) →
    o.bits t (o.setBits t c p v) p = v % 2 ^ fmtBits o.lay.format) ∧
  (∀ (o : Operand) (t : Seat) (c : Cell) (ps : List Put) (a : Nat), (∀ y ∈ ps, a ∉ o.touches t y.p) →
    sget 0 (o.putAll t c ps).spad a = sget 0 c.spad a) ∧
  (∀ (c c' : Cell) (places : List Nat) (lost : Nat → Nat → Bool) (τ a : Nat), swf 0 c.spad = true → swf 0 c'.spad = true → c.landed = [] → c'.landed = [] →
    let m := c.land c' (places.map (fun b => (τ, b))) lost
    sget 0 m.spad a = (if a ∈ places ∧ lost τ a = true then sget 0 c.spad a else sget 0 c'.spad a) ∧
    (∀ σ, σ ≤ τ → sget 0 (m.asOf σ).spad a = if a ∈ places then sget 0 c.spad a else sget 0 c'.spad a) ∧
    (∀ σ, τ < σ → (m.asOf σ).spad = m.spad)) ∧
  (∀ (c : Cell) (compat : Bool) (τ : Nat) (above mine : List Nat) (a i : Nat), swf 0 c.spad = true → c.landed = [] → a ∈ mine → i < (if compat then 128 else 64) →
    sget 0 (c.seen compat τ above mine).spad (spadWordOf compat a + i) =
      sget 0 c.spad ((match above.find? (fun b => bankOf compat b == bankOf compat (spadWordOf compat a)) with
        | some b => spadWordOf compat b
        | none => spadWordOf compat a) + i))

/-- An anchored sum does not depend on the order of its terms, and its combination with another is the sum of both (02:R47, R52). -/
def Obligations.AnchoredSumIsOrderFree : Prop :=
  ∀ (ts us : List Val) (anchor : Int) (w : Nat),
    (ts.Perm us → sumTerms ts anchor w = sumTerms us anchor w) ∧
    sumTerms (ts ++ us) anchor w = (sumTerms ts anchor w).combine (sumTerms us anchor w)

/-- A record of the vector engine writes, for each element of its positions, the result of its chain, composite, drop-out, initialisation or conversion, and nothing else changes but what `engineFrame` names (05:R134 to R136, 04:R109, R110, 03:R77). When the two lanes of an audit cell differ, the cell's counter counts it and the cell leaves service, whatever the opcode; on any other cell the difference is not seen (05:R145, 13:R333). Completes: vectorChain, softmax, rmsNormalisation, layerNormalisation, dropOut, initialisation, conversion. The model's own readings and choices in it: log 13, 28, 36, 37, 38, 123. -/
def Obligations.VectorRecordsWriteTheirResults : Prop :=
  (∀ (s : State) (k : Nat) (x : Issue) (w : VecWork) (d : Bool), s.issues k 2 x → x.vecWork x.op.dst x.op.dst (x.arg 93 72) = some w →
    let u := s.began k x
    let v := x.vecCell (u.cell x.key)
    let l := w.dst.lay
    let val (r : Src) (p e : Nat) : BitVec 32 := r.value x.seat (v p) l w.first p e
    (x.op.opcode = 0x0200 → ∃ t, exec (.vectorChain k d) s = .next t ∧ s.laneFrame t k x d ∧
      t.gave u x x.vecWhen w.dst x.dest false false (resultsOf l w.ps (fun p e => runChain (chainSteps x.op.params.toNat) (w.select x (v p) l p e) (val w.s0 p e)))) ∧
    (x.op.opcode = 0x0100 → ∃ t, exec (.vectorChain k d) s = .next t ∧ s.laneFrame t k x d ∧
      t.gave u x x.vecWhen w.dst x.dest false false (resultsOf l w.ps (fun p e => ⟨val .queue p e, false⟩)) ∧
      (t.cell x.key).readOut = (s.cell x.key).readOut + w.ps.length) ∧
    (x.op.opcode = 0x0210 → ∃ t, exec (.softmax k d) s = .next t ∧ s.laneFrame t k x d ∧
      t.gave u x x.vecWhen w.dst x.dest false false (u.rowsBy x w (fun a _ _ => softmaxRow x.op.window (x.op.km1 + 1) a))) ∧
    (x.op.opcode = 0x0211 → ∃ t, exec (.rmsNormalisation k d) s = .next t ∧ s.laneFrame t k x d ∧
      t.gave u x x.vecWhen w.dst x.dest false false (u.rowsBy x w (fun a g _ => rmsRow x.op.window (x.op.km1 + 1) (BitVec.ofNat 32 (x.param 31 0)) a g))) ∧
    (x.op.opcode = 0x0212 → ∃ t, exec (.layerNormalisation k d) s = .next t ∧ s.laneFrame t k x d ∧
      t.gave u x x.vecWhen w.dst x.dest false false (u.rowsBy x w (fun a g b => layerRow x.op.window (x.op.km1 + 1) (BitVec.ofNat 32 (x.param 31 0)) a g b))) ∧
    (x.op.opcode = 0x0220 → ∃ t, exec (.dropOut ⟨k, d⟩) s = .next t ∧ s.laneFrame t k x d ∧
      t.gave u x x.vecWhen w.dst x.dest false false (resultsOf l w.ps (fun p e =>
        dropOne (x.param 31 0) (BitVec.ofNat 32 (x.param 63 32)) (x.param 64 64 == 1)
          (if x.param 31 0 = 0 ∨ x.param 64 64 = 1 then 0 else u.drawOf x.slot x.op.stream 2 e) (val w.s0 p e)))) ∧
    (x.op.opcode = 0x0221 → ∃ t, exec (.initialisation ⟨k, d⟩) s = .next t ∧ s.laneFrame t k x d ∧
      t.gave u x x.vecWhen w.dst x.dest false false (resultsOf l w.ps (fun _ e =>
        initOne (BitVec.ofNat 32 (x.param 31 0)) (BitVec.ofNat 32 (x.param 63 32)) (u.drawOf x.slot x.op.stream 3 e)))) ∧
    (x.op.opcode = 0x0500 → ∃ t, exec (.conversion ⟨k, d⟩) s = .next t ∧ s.laneFrame t k x d ∧
      t.gave u x x.vecWhen w.dst x.dest ((x.g.lay x.op.src0).any (fun m => isAncFmt m.format)) false (w.ps.map (fun p => (match l.posIndex p with
        | none => ⟨p, none, .nan, false⟩
        | some e => ⟨p, some e, (match w.s0.place l p e with
            | some (o, q) => o.val x.seat (v p) q (if (x.g.lay x.op.src0).any (fun m => isAncFmt m.format) then u.anchorOf x.slot x.g x.op.src0 e else 0)
            | none => f32Val (val w.s0 p e)), false⟩ : Res))))) ∧
  (∀ (s : State) (k : Nat) (x : Issue) (form : Nat → Bool → Instr), s.issues k 2 x → laneForm x.op.opcode = some form → (s.cell x.key).audits = false →
    exec (form k true) s = exec (form k false) s)

/-- Cross-entropy writes each row's gradient and keeps its loss, and with the last of the operation's rows their mean; sampling writes one index for each sequence; routing writes the choice and the slots of every expert; an optimizer update writes the new weight, split into body and skim in split mode, rounded stochastically where it is a weight and not split (05:R137, R146 to R148, 03:R73, 04:R111 to R119). Each takes the difference of an audit cell's lanes as every vector record does (05:R145). Completes: crossEntropy, sampling, routing, optimizerUpdate. The model's own readings and choices in it: log 34, 35, 38, 123, 126. -/
def Obligations.LossSamplingRoutingUpdate : Prop :=
  (∀ (s : State) (k : Nat) (x : Issue) (w : VecWork) (tl : Layout) (targets : Operand) (d : Bool), s.issues k 2 x → x.op.opcode = 0x0213 →
    x.vecWork x.op.src0 (x.param 63 32) (x.arg 115 94) = some w → x.g.lay x.op.src1 = some tl →
    x.operand x.op.src1 (x.arg 137 116) (tl.pos ((Issue.rows w.dst.lay w.ps).headD 0)) = some targets →
    let u := s.began k x
    let v := x.vecCell (u.cell x.key)
    let l := w.dst.lay
    let es := (Issue.rows l w.ps).map (fun r => (r, entropyRow x.op.window (x.op.km1 + 1) (BitVec.ofNat 32 (x.param 31 0)) (w.s0.rowVals x.seat v l w.first r)
      (signedOf 32 (targets.bits x.seat (v (l.pos (r * l.rowLen))) (tl.pos r)))))
    let all := addRows x.op.id es (s.slot x.slot).losses
    let rows := (List.range (l.count / l.rowLen)).filterMap (fun i => (all.filter (fun r => r.op == x.op.id)).find? (fun r => r.row == i))
    ∃ t z, exec (.crossEntropy k d) s = .next t ∧ s.laneFrame t k x d ∧ (t.slot x.slot).losses = all ∧
      -- the gradients of the record's rows, then the mean of the operation's losses once it has them all
      z.gave u x x.vecWhen w.dst x.dest false false (rowResults l (es.map (fun y => (y.1, y.2.dx)))) ∧
      (rows.length ≠ l.count / l.rowLen → (t.cell x.key).spad = (z.cell x.key).spad ∧ (t.numSlot x.slot).current = (z.numSlot x.slot).current) ∧
      (∀ o, rows.length = l.count / l.rowLen → x.operand x.op.dst (x.arg 93 72) 0 = some o →
        t.gave z x x.vecWhen o toSpad false false [⟨0, some 0, f32Val (meanLoss x.op.window rows).bits, (meanLoss x.op.window rows).sat⟩])) ∧
  (∀ (s : State) (k : Nat) (x : Issue) (l pl dl : Layout) (q o : Operand) (d : Bool), s.issues k 2 x → x.op.opcode = 0x0230 → x.g.lay x.op.src0 = some l →
    x.g.lay x.op.src1 = some pl → x.g.lay x.op.dst = some dl →
    let seqs := Issue.rows l (x.positions l)
    x.operand x.op.src1 (x.arg 137 116) (pl.pos (3 * seqs.headD 0)) = some q → x.operand x.op.dst (x.arg 93 72) (dl.pos (seqs.headD 0)) = some o →
    let u := s.began k x
    let v := x.vecCell (u.cell x.key)
    let par (r i : Nat) : Nat := q.bits x.seat (v (l.pos (r * l.rowLen))) (pl.pos (3 * r + i))
    ∃ t, exec (.sampling ⟨k, d⟩) s = .next t ∧ s.laneFrame t k x d ∧
      t.gave u x x.vecWhen o x.dest false false (seqs.map (fun r => ⟨dl.pos r, some r, .ofInt (sampleOne ((x.src l 0 x.op.src0 (x.arg 159 138) x.vecFirst).rowVals x.seat v l x.vecFirst r)
        (BitVec.ofNat 32 (par r 0)) (signedOf 32 (par r 1)) (BitVec.ofNat 32 (par r 2)) (u.drawOf x.slot x.op.stream 4 (r * 2 ^ 32 + x.param 31 0))) 0, false⟩))) ∧
  (∀ (s : State) (k : Nat) (x : Issue) (l cl sl : Layout) (co so : Operand) (d : Bool), s.issues k 2 x → x.op.opcode = 0x0231 → x.g.lay x.op.src0 = some l →
    x.g.lay x.op.dst = some cl → x.g.lay (x.param 31 0) = some sl →
    x.operand x.op.dst (x.arg 93 72) (cl.pos ((Issue.rows l (x.positions l)).headD 0 * x.param 95 64)) = some co →
    x.operand (x.param 31 0) (x.arg 137 116) 0 = some so →
    let u := s.began k x
    let v := x.vecCell (u.cell x.key)
    let n := x.param 63 32
    let cap := x.param 127 96
    let score (tk e : Nat) : Val := f32Val ((x.src l 0 x.op.src0 (x.arg 159 138) x.vecFirst).value x.seat (v (l.pos (tk * n + e))) l x.vecFirst (l.pos (tk * n + e)) (tk * n + e))
    let choice := (List.range (l.dims.getD 0 0)).map (fun tk => chosen ((List.range n).map (score tk)) (x.param 95 64))
    let kept := (List.range n).map (keptTokens score choice cap)
    ∃ t z, exec (.routing ⟨k, d⟩) s = .next t ∧ s.laneFrame t k x d ∧
      -- the entries of the record's tokens, then the slots of every expert
      z.gave u x x.vecWhen co x.dest false false
        ((Issue.rows l (x.positions l)).flatMap (fun tk => (List.range (x.param 95 64)).map (fun j => (⟨cl.pos (tk * x.param 95 64 + j), some (tk * x.param 95 64 + j),
          .ofInt (match (kept.getD ((choice.getD tk []).getD j 0) []).findIdx? (fun y => y == tk) with
            | some i => (((choice.getD tk []).getD j 0 * cap + i : Nat) : Int)
            | none => -1) 0, false⟩ : Res)))) ∧
      t.gave z x x.vecWhen so { x.dest with feed := false } false false
        ((List.range n).flatMap (fun e => (List.range cap).map (fun i => (⟨sl.pos (e * cap + i), some (e * cap + i),
          .ofInt (match (kept.getD e [])[i]? with | some y => (y : Int) | none => -1) 0, false⟩ : Res))))) ∧
  (∀ (s : State) (k : Nat) (x : Issue) (w : VecWork) (d : Bool), s.issues k 2 x → x.op.opcode = 0x0240 → x.vecWork x.op.dst x.op.dst (x.arg 93 72) = some w →
    let u := s.began k x
    let v := x.vecCell (u.cell x.key)
    let l := w.dst.lay
    ∃ t, exec (.optimizerUpdate k d) s = .next t ∧ s.laneFrame t k x d ∧
      (s.splitWeight x = none → t.gave u x x.vecWhen w.dst x.dest false (w.dst.kind == 0) (resultsOf l w.ps (fun p e =>
        runChain (chainSteps x.op.params.toNat) (w.select x (v p) l p e) (w.dst.f32 x.seat (v p) p)))) ∧
      (∀ sk, s.splitWeight x = some sk →
        let so : Operand := ⟨sk.id, sk.kind, l, Config.skimBase sk.id w.dst.vbase, 0⟩
        let v := x.vecCellOf (fun g => (w.ps.filter (fun p => x.vecGroup p == g)).flatMap (so.touches x.seat)) (u.cell x.key)
        let new (p e : Nat) : F32 := runChain (chainSteps x.op.params.toNat) (w.select x (v p) l p e) (BitVec.ofNat 32 (w.dst.bits x.seat (v p) p * 2 ^ 16 + so.bits x.seat (v p) p))
        let word (p : Nat) : Nat := (l.posIndex p).elim 0 (fun e => (new p e).bits.toNat)
        let body := w.ps.map (fun p => (⟨p, l.posIndex p, 0, word p / 2 ^ 16, (l.posIndex p).any (fun e => (new p e).sat)⟩ : Put))
        ∃ z, z.wrote u x x.vecWhen w.dst x.dest body ∧ z.countedSat u x w.dst.kind body ∧
          t.wrote z x x.vecWhen so { x.dest with feed := false } (w.ps.map (fun p => ⟨p, l.posIndex p, 0, word p % 2 ^ 16, false⟩)) ∧
          (t.numSlot x.slot).current = (z.numSlot x.slot).current))

/-- A matrix record forms its tile in the front accumulators, or behind the tile that they still take in: each sum of its factors under the anchor of the surveys in use, not-a-number where a factor lies above them, and event 0x5001 for such factors. At the end of a tile, when the drain before it has ended, the accumulators exchange roles; a complete tile goes, each sum rounded once to binary32, into the next entry of the tile queue, and a partial one into the scratchpad at the ticks of its drain. On an audit cell the tile and its failing and skipped lines count; one that fails puts the cell out of service and faults the context at the sill (05:R122 to R132, R142, R143, 02:R46, R51). Completes: matrixProduct, tileEnd. The model's own readings and choices in it: log 19, 32, 33, 60, 122. -/
def Obligations.MatrixTiles : Prop :=
  (∀ (s : State) (k : Nat) (x : Issue) (p : TilePlan) (rows cols : List Byte), s.issues k 1 x → x.tilePlan (s.skipOf x) = some p →
    let u := s.began k x
    let w := x.tileWork p (u.cell x.key) rows cols
    ∃ t, exec (.matrixProduct k rows cols) s = .next t ∧
      t.cell x.key = { u.cell x.key with front := (if (s.cell x.key).front.acc = [] then w.tile else (s.cell x.key).front), issued := (if (s.cell x.key).front.acc = [] then (s.cell x.key).issued else (s.cell x.key).issued ++ [w.tile]), ports := (((s.cell x.key).notePorts 1 x.g.compat false (x.operandUses p)).ports), surveyErr := (s.cell x.key).surveyErr + BitVec.ofNat 64 w.above, sparseMetaErr := (s.cell x.key).sparseMetaErr + BitVec.ofNat 64 w.badNibbles } ∧
      s.othersAs t x ∧ (∀ n, n ≠ x.slot → t.slot n = s.slot n) ∧ t.num = s.num ∧ t.sch = u.sch ∧ t.mem = s.mem ∧ t.lnk = s.lnk ∧ t.own = s.own ∧
      (w.above ≠ 0 → s.quiet (srcDie x.bind.die) → t.shows (srcDie x.bind.die) 0x5001) ∧
      (w.above = 0 → w.badPartial = true → s.quiet (srcDie x.bind.die) → t.shows (srcDie x.bind.die) 0x500A) ∧
      (w.above = 0 → w.badPartial = false → t.evt = s.evt) ∧
      (w.badNibbles ≠ 0 → (t.slot x.slot).opEvents.any (fun e => e.op == x.op.id && e.code == 0x2003) = true)) ∧
  (∀ (s : State) (k : Nat) (x : Issue) (p : TilePlan) (l : Layout), s.ends k 1 x → x.tilePlan (s.skipOf x) = some p → x.g.lay x.op.dst = some l →
    (s.cell x.key).front.op = x.op.id → (s.cell x.key).front.part = x.rc.part → (s.cell x.key).front.acc ≠ [] →
    (∀ y, (s.cell x.key).drain = some y → y.stop ≤ x.tileStop) →
    let f := (s.cell x.key).front
    let fmt := p.a.o.lay.format
    let kind := ((x.g.tensor x.op.dst).map (·.kind)).getD 1
    let lines := (auditTile p f fmt).1 ++ (auditTile p f fmt).2
    ∃ t, exec (.tileEnd k) s = .next t ∧ (t.cell x.key).back = f ∧ (t.cell x.key).front = (s.cell x.key).issued.headD .zero ∧ (t.cell x.key).issued = (s.cell x.key).issued.drop 1 ∧ s.othersAs t x ∧
      t.sch = s.sch ∧ t.lnk = s.lnk ∧ t.own = s.own ∧
      ((p.mode = 0 ∨ p.mode = 2) → (t.cell x.key).spad = (s.cell x.key).spad ∧ (t.cell x.key).tilesIn = (s.cell x.key).tilesIn + 1 ∧
        (f.acc.length = p.rows * p.cols → ∀ i j, i < p.rows → j < p.cols →
          sget 0 (t.cell x.key).tileQ ((s.cell x.key).tilesIn % 4 * 16384 + (i * 128 + j)) =
            BitVec.ofNat 32 (convertVal 0x11 0 (s.roundWord x.slot x.op.stream kind false (indexOf l.dims [p.row0 + i, p.col0 + j])) true
              ((f.acc.getD (i * p.cols + j) .zero).val (siteAnchor fmt p.k (f.rows.getD i 0).toNat (f.cols.getD j 0).toNat) (ancWindow p.win))).1)) ∧
      ((p.mode ≠ 0 ∧ p.mode ≠ 2) → (t.cell x.key).tileQ = (s.cell x.key).tileQ ∧
        (t.cell x.key).spad = ((s.cell x.key).land ((List.zip p.sites f.acc).foldl (fun c y =>
            c.setBytes (x.partialAddr p y.1.1 y.1.2) (leBytes (ancBits p.win / 8) (y.2.pattern p.win))) (s.cell x.key))
          (p.sites.flatMap (fun y => (List.range (ancBits p.win / 8)).map (fun b =>
            (x.tileStop + siteTick (partialTicks p.win) y.1 y.2, x.partialAddr p y.1 y.2 + b)))) (fun _ _ => false)).spad) ∧
      ((s.cell x.key).audits = false → t.evt = s.evt ∧ t.mem = s.mem) ∧
      ((s.cell x.key).audits = true → (t.cell x.key).auditTiles = (s.cell x.key).auditTiles + 1 ∧
        (t.cell x.key).auditFail = (s.cell x.key).auditFail + BitVec.ofNat 64 (lines.countP (fun y => y == some false)) ∧
        (t.cell x.key).auditSkip = (s.cell x.key).auditSkip + BitVec.ofNat 64 (lines.countP (fun y => y == none) + (128 - p.rows) + (128 - p.cols)) ∧
        ((∀ y ∈ lines, y ≠ some false) → t.evt = s.evt ∧ t.mem = s.mem ∧ (t.cell x.key).role = (s.cell x.key).role) ∧
        (some false ∈ lines → (t.cell x.key).role = .out ∧ x.key ∈ t.ao.oos ∧ (t.slot x.slot).sillFault = true ∧
          (s.quiet (srcDie x.bind.die) → t.shows (srcDie x.bind.die) 0x5002))))

/-- A reduction record adds, for each accumulator it names, the anchored sum of that accumulator's terms to what an open output holds; a term above the survey in use makes the output not-a-number. With no byte supplied the survey covers the terms of all the operation's records in the pound. A closing record converts each output once into the destination, at the tick of its close, and clears its accumulator; on an audit cell whose two sums differ the cell leaves service (05:R138, R139, R145, 02:R41, R52, R54). Completes: reduction, reductionClose. The model's own readings and choices in it: log 20, 32, 39. -/
def Obligations.ReductionAddsAndCloses : Prop :=
  (∀ (s : State) (k : Nat) (x : Issue) (o : Operand) (surveys : List Byte) (i : Nat) (y : Nat × Nat), s.issues k 3 x →
    x.operand x.op.src0 (x.arg 159 138) x.redFirst = some o →
    let u := s.began k x
    let c := u.cell x.key
    let ts := x.redTerms c o
    let seats := x.redSeats ts
    (seats.map (·.1)).Nodup → seats[i]? = some y →
    let mine := ts.filter (fun z => if x.arg 115 115 = 1 then z.lane == y.1 else z.out == y.2)
    let given : Nat := match surveys[i]? with
      | some b => b.toNat
      | none => if c.inOp = x.op.id ∧ c.inRows ≠ [] then (c.inRows.getD y.2 0).toNat else surveyMax ((x.axisTerms c y.2).map (·.byte))
    let isOpen := sget 0 c.rout y.1 = y.2 + 1
    let sur := if isOpen then (sget 0 c.rsurvey y.1).toNat else (BitVec.ofNat 8 given).toNat
    let term (z : Term) : Val := if x.arg 114 114 = 1 then mulVal z.val z.val else z.val
    ∃ t, exec (.reduction k surveys) s = .next t ∧ sget 0 (t.cell x.key).rout y.1 = y.2 + 1 ∧ (sget 0 (t.cell x.key).rsurvey y.1).toNat = sur ∧
      sget Acc.zero (t.cell x.key).racc y.1 = (if mine.countP (fun z => aboveSurvey z.byte sur) = 0 then
        (sumTerms (mine.map term) (x.redAnchor o.lay.format sur) (ancWindow x.op.window)).combine (if isOpen then sget Acc.zero c.racc y.1 else .zero) else .nan) ∧
      (t.cell x.key).spad = (s.cell x.key).spad ∧ s.othersAs t x ∧ t.mem = s.mem ∧ t.num = s.num ∧ t.lnk = s.lnk ∧ t.own = s.own ∧ t.sch = u.sch) ∧
  (∀ (s : State) (k : Nat) (x : Issue) (o d : Operand) (l : Layout) (differ : Bool), s.ends k 3 x → x.arg 106 106 = 1 →
    x.operand x.op.src0 (x.arg 159 138) x.redFirst = some o → x.g.lay x.op.dst = some l →
    let c := s.cell x.key
    let outs := sortBy (fun a b => decide (l.pos a.2 ≤ l.pos b.2)) (x.closing c o)
    x.operand x.op.dst (x.arg 137 116) (l.pos ((x.closing c o).headD (0, 0)).2) = some d →
    ∃ t, exec (.reductionClose ⟨k, differ⟩) s = .next t ∧
      (∀ y ∈ outs, sget 0 (t.cell x.key).rout y.1 = 0 ∧ sget Acc.zero (t.cell x.key).racc y.1 = .zero) ∧
      s.othersAs t x ∧ t.lnk = s.lnk ∧ t.own = s.own ∧ t.sch = s.sch ∧
      ((s.cell x.key).audits = false ∨ differ = false → t.evt = s.evt ∧ t.mem = s.mem) ∧ ((s.cell x.key).audits = true ∧ differ = true → s.laneFault t x) ∧
      (isAncFmt l.format = true → t.wrote s x x.redWhen d toSpad (outs.map (fun y => ⟨l.pos y.2, some y.2, 0, (sget Acc.zero c.racc y.1).pattern x.op.window, false⟩))) ∧
      (isAncFmt l.format = false → t.gave s x x.redWhen d toSpad true false (outs.map (fun y => ⟨l.pos y.2, some y.2,
        (sget Acc.zero c.racc y.1).val (x.redAnchor o.lay.format (sget 0 c.rsurvey y.1).toNat) (ancWindow x.op.window), false⟩))))

/-- A layout copy moves the elements of its part, encodings unchanged where the format is the same and converted where it is not; it reads each element, and writes it, at its tick; an element outside the source takes the fill and counts. A copy with run-time origins that breaks 06:R163 is refused: event 0x1008, and the context faults at its sill (06:R160 to R164, R436, 03:R83). Completes: layoutCopy. The model's own readings and choices in it: log 40, 42, 124. -/
def Obligations.LayoutCopies : Prop :=
  ∀ (s : State) (k : Nat) (x : Issue) (c : CopyPlan), s.issues k 4 x → (x.op.opcode = 0x0300 ∨ x.op.opcode = 0x0500) →
    let u := s.began k x
    let pm := x.op.params.toNat
    let v := x.copyView c (u.cell x.key)
    let wn := x.copyWhen c (u.cell x.key)
    x.copyPlan (u.cell x.key) = some c →
    (c.refused x.seat pm = false →
      ∃ t, exec (.layoutCopy k) s = .next t ∧ s.engineFrame t k x ∧
        (t.numSlot x.slot).current.oobRead = (s.numSlot x.slot).current.oobRead + BitVec.ofNat 64 (c.outside pm) ∧
        (c.so.lay.format = c.dst.lay.format → t.wrote u x wn c.dst toSpad (c.moves x.seat v pm)) ∧
        (c.so.lay.format ≠ c.dst.lay.format → t.wrote u x wn c.dst toSpad (convertResults c.dst.lay.format (isAncFmt c.so.lay.format) (u.roundWord x.slot x.op.stream c.dst.kind false)
          (c.positions.map (fun p => ⟨p, c.dst.lay.posIndex p, (match c.srcIndex pm p with
            | some i => c.so.val x.seat (v p) (c.so.lay.pos i) (if isAncFmt c.so.lay.format then u.anchorOf x.slot x.g x.op.src0 i else 0)
            | none => c.so.lay.fillVal 0), false⟩))))) ∧
    (c.refused x.seat pm = true →
      ∃ t, exec (.layoutCopy k) s = .next t ∧ (t.slot x.slot).sillFault = true ∧ (t.cell x.key).spad = (s.cell x.key).spad ∧ t.mem = s.mem ∧
        (s.quiet (srcDie x.bind.die) → t.shows (srcDie x.bind.die) 0x1008))

/-- A gather within the scratchpad writes, for each slot of its part, the named slice's elements, and the fill where the index or an element lies out of bounds, which count. A scatter-store within the scratchpad writes the updates' elements, the last of those with one position standing, and counts what it drops; of a block-scaled format whole blocks move, +0 in the positions outside the shape (06:R167 to R170, R436, R155). On a DMA channel a gather reads its slices from device memory, which it leaves as it is, and a scatter-store sends the slices that no later slot sends too: whole barges sealed, pieces of a barge with the slot and the generation of the context (06:R167 to R170, 10:R263, R264). Each reads and writes at the ticks of its slots, and one on a DMA channel is in its channel's queue; a descriptor that the queue has lost moves nothing (10:R274, 07:R200). Completes: gather, scatterStore. The model's own readings and choices in it: log 21, 41, 125. -/
def Obligations.GathersAndScatterStores : Prop :=
  (∀ (s : State) (k : Nat) (x : Issue) (sl dl : Layout) (so o ix : Operand), s.issues k 4 x → x.op.opcode = 0x0310 →
    x.g.lay x.op.src0 = some sl → x.g.lay x.op.dst = some dl → sl.sliceOk (x.param 2 0) dl.dims false = true → x.operand x.op.src0 (x.arg 159 138) 0 = some so →
    x.operand x.op.dst (x.arg 137 116) (dl.posOf (withDim (List.replicate (dl.rank - 1) 0) (x.param 2 0) (x.arg 93 62))) = some o →
    x.operand x.op.src1 (x.arg 115 94) 0 = some ix →
    let u := s.began k x
    let c := u.cell x.key
    let g := x.param 2 0
    let first := x.arg 93 62
    let w : GatherPlan := ⟨sl, o, ix, g, first, x.arg 61 42⟩
    let slots := indexSlots ix x.seat (x.indexCell c ix sl g dl.dims first) first (x.arg 61 42)
    let v (q : SliceSlot) (p : Nat) : Cell := x.elementCell c so sl g dl.dims first q.j p
    ∃ t, exec (.gather k) s = .next t ∧ s.engineFrame t k x ∧
      t.wrote u x (w.when x c) o toSpad (dl.blockPads (u.gatherPuts x w slots (fun q p => (so.scale x.seat (v q p) p, so.bits x.seat (v q p) p)))) ∧
      (t.numSlot x.slot).current.oobRead = (s.numSlot x.slot).current.oobRead + BitVec.ofNat 64 ((w.sites slots).countP (fun y => u.pull x w y.1 y.2 == .oob))) ∧
  (∀ (s : State) (k : Nat) (x : Issue) (dl ul : Layout) (us o ix : Operand), s.issues k 4 x → x.op.opcode = 0x0311 →
    x.g.lay x.op.dst = some dl → x.g.lay x.op.src0 = some ul → dl.sliceOk (x.param 2 0) ul.dims false = true → x.operand x.op.src0 (x.arg 159 138) 0 = some us →
    x.operand x.op.dst (x.arg 137 116) 0 = some o → x.operand x.op.src1 (x.arg 115 94) 0 = some ix →
    let u := s.began k x
    let c := u.cell x.key
    let g := x.param 2 0
    let r := x.scatterSlots (x.arg 93 62) (x.arg 61 42) (ul.dims.getD g 0)
    let slots := indexSlots ix x.seat (x.indexCell c ix ul g dl.dims r.1) r.1 r.2
    let slotOf (p : Nat) : Nat := ((slots.filter (fun q => q.index == ((dl.posCoords p).getD g 0 : Int))).getLast?.map (·.j)).getD r.1
    ∃ t, exec (.scatterStore k) s = .next t ∧ s.engineFrame t k x ∧
      t.wrote u x (x.sliceWhen c dl g ul.dims r.1 slotOf) o toSpad (u.scatterPuts x us dl g slots (fun j p => x.elementCell c us ul g dl.dims r.1 j p)) ∧
      (t.numSlot x.slot).current.oobWrite = (s.numSlot x.slot).current.oobWrite + BitVec.ofNat 64 ((scatterSites ul g slots).countP (fun y => u.push x dl g y.1 y.2.1 == .drop))) ∧
  (∀ (s : State) (k : Nat) (x : Issue) (sl dl : Layout) (d : Descr) (o ix : Operand), s.issues k 5 x → x.dropped = false → s.mem.errs = [] → x.op.opcode = 0x0310 →
    x.g.lay x.op.src0 = some sl → x.g.lay x.op.dst = some dl → x.descr = some d → sl.sliceOk (x.param 2 0) dl.dims true = true →
    let g := x.param 2 0
    let n := sl.sliceBytes g dl.dims
    let first := x.dmaFirst n
    let count := d.length / max 1 n
    x.operand x.op.dst d.saddr (dl.posOf (withDim (List.replicate (dl.rank - 1) 0) g first)) = some o → x.operand x.op.src1 d.dynaddr 0 = some ix →
    let u := s.beganSlice k x
    let c := u.cell x.key
    let w : GatherPlan := ⟨sl, o, ix, g, first, count⟩
    let read (q : SliceSlot) (p : Nat) : Nat × Nat := match sliceIn sl g q.index with
      | none => (0, 0)
      | some i => if u.ownsPos x.g x.op.src0 sl (sl.sliceStart g i) then sl.elementIn (sl.byteOf (sl.sliceStart g i)).1 (u.readSlice x x.op.src0 sl (sl.sliceStart g i) n).2 p else (0, 0)
    ∃ t, exec (.gather k) s = .next t ∧ t.mem = s.mem ∧
      t.wrote u x (w.when x c) o toSpad (dl.blockPads (u.gatherPuts x w (indexSlots ix x.seat (x.indexCell c ix sl g dl.dims first) first count) read)) ∧
      -- slices of whole barges are checked at hop 2
      ((n % 4096 = 0 → (∀ i, (sl.byteOf (sl.sliceStart g i)).1 % 4096 = 0) ∧
          ∀ b a, s.bargeAddr x.slot x.g x.op.src0 b = some a → s.hop2 x.slot x.g x.op.src0 b (sread 0 s.mem.bytes a 4096) (s.mem.bargeTag a) = none) →
        s.engineFrame t k x)) ∧
  (∀ (s : State) (k : Nat) (x : Issue) (dl ul : Layout) (d : Descr) (us ix : Operand), s.issues k 5 x → x.dropped = false → x.op.opcode = 0x0311 →
    x.g.lay x.op.dst = some dl → x.g.lay x.op.src0 = some ul → x.descr = some d → dl.sliceOk (x.param 2 0) ul.dims true = true →
    let g := x.param 2 0
    let r := x.scatterSlots (x.dmaFirst (dl.sliceBytes g ul.dims)) (d.length / max 1 (dl.sliceBytes g ul.dims)) (ul.dims.getD g 0)
    x.operand x.op.src0 d.saddr (ul.posOf (withDim (List.replicate (ul.rank - 1) 0) g r.1)) = some us → x.operand x.op.src1 d.dynaddr 0 = some ix →
    let u := s.beganSlice k x
    let c := u.cell x.key
    let slots := indexSlots ix x.seat (x.indexCell c ix dl g ul.dims r.1) r.1 r.2
    let act (q : SliceSlot) (rest : List Nat) : Push := u.push x dl g q rest
    let ps := u.scatterPuts x us dl g slots (fun j p => x.elementCell c us dl g ul.dims r.1 j p)
    let sent := (lastSlots (slots.filter (fun q => act q (List.replicate (dl.rank - 1) 0) matches .store _))).map (fun q =>
      u.sliceSent x x.op.dst (dl.byteOf (dl.sliceStart g q.index.toNat)).1 (sliceBytesOf ps dl g ul.dims q.index.toNat))
    ∃ t, exec (.scatterStore k) s = .next t ∧ s.engineFrame t k x ∧ (t.cell x.key).spad = (s.cell x.key).spad ∧
      t.flight = { s.flight with barges := s.flight.barges ++ sent.flatMap (·.1), parts := s.flight.parts ++ sent.flatMap (·.2) } ∧
      (t.numSlot x.slot).current.oobWrite = (s.numSlot x.slot).current.oobWrite + BitVec.ofNat 64 ((scatterSites ul g slots).countP (fun y => act y.1 y.2.1 == .drop))) ∧
  (∀ (s : State) (k : Nat) (x : Issue), s.issues k 5 x → x.dropped = true →
    (x.op.opcode = 0x0310 → exec (.gather k) s = .next (s.beganSlice k x)) ∧ (x.op.opcode = 0x0311 → exec (.scatterStore k) s = .next (s.beganSlice k x)) ∧
    (x.op.opcode = 0x0312 → exec (.scatterAdd k) s = .next (s.beganSlice k x)))

/-- A scatter-add writes nothing itself: it sends the elements of its slices, those out of bounds left out and counted, as accumulating bursts of consecutive cells, each sealed by its CRC, with the slot and the generation of its context. The issue of a collective takes, at its home link die, the contribution of this module to each block it contributes to, which stays there until the block has all it waits for; neither touches a scratchpad or device memory (06:R169, 10:R278, 11:R304 to R306). Completes: scatterAdd, collective. The model's own readings and choices in it: log 21, 43. -/
def Obligations.ScatterAddAndCollective : Prop :=
  (∀ (s : State) (k : Nat) (x : Issue) (dl ul : Layout) (d : Descr) (us ix : Operand), s.issues k 5 x → x.dropped = false → x.op.opcode = 0x0312 → x.g.lay x.op.dst = some dl →
    x.g.lay x.op.src0 = some ul → x.descr = some d → dl.sliceOk (x.param 2 0) ul.dims true = true →
    let g := x.param 2 0
    let first := x.dmaFirst (ul.sliceBytes g dl.dims)
    x.operand x.op.src0 d.saddr (ul.sliceStart g first) = some us → x.operand x.op.src1 d.dynaddr 0 = some ix →
    let u := s.beganSlice k x
    let c := u.cell x.key
    let slots := indexSlots ix x.seat (x.indexCell c ix ul g dl.dims first) first (d.length / max 1 (ul.sliceBytes g dl.dims))
    let z := fmtBits ul.format / 8
    -- a burst holds contributions to consecutive cells of the region, up to 256 bytes
    let pieces := slots.flatMap (fun q =>
      let els := u.addendsOf x us dl g (fun j p => x.elementCell c us ul g dl.dims first j p) q
      (runsOf els.length els).flatMap (fun run => chunks (256 / max 1 z) run.length run))
    ∃ t l, exec (.scatterAdd k) s = .next t ∧ s.engineFrame t k x ∧ t.flight = { s.flight with bursts := s.flight.bursts ++ l } ∧
      (t.cell x.key).spad = (s.cell x.key).spad ∧ (t.cell x.key).dmaBursts = (s.cell x.key).dmaBursts + BitVec.ofNat 64 l.length ∧
      (∀ b ∈ l, b.slot = BitVec.ofNat 3 x.slot ∧ b.gen = s.gen x.slot ∧ b.tensor = BitVec.ofNat 32 x.op.dst ∧ b.opId = x.op.id ∧ b.format = ul.format ∧ b.crc = crc32c b.covered) ∧
      l.map (fun b => (b.offset, b.data, b.anchors)) =
        pieces.map (fun es => (BitVec.ofNat 64 ((es.headD (0, 0, 0)).1 * (fmtBits dl.format / 8)), es.flatMap (fun e => leBytes z e.2.1), es.map (·.2.2))) ∧
      (t.numSlot x.slot).current.oobWrite = (s.numSlot x.slot).current.oobWrite +
        BitVec.ofNat 64 ((scatterSites ul g slots).countP (fun y => u.pushAdd x dl g y.1 y.2.1 == .drop))) ∧
  (∀ (s : State) (n : Nat) (g : Image) (c : BitVec 32) (v : CollView) (o : OpRec) (l : Layout), s.canonical = true → s.mem.errs = [] → s.execImage = some (n, g) →
    s.collView n g c.toNat = some v → s.sch.pound = v.rec_.issuePound → s.sch.state = .inPound → v.kind ≠ 4 → g.collOp c.toNat = some o → g.lay o.src0 = some l →
    ∃ t, exec (.collective c) s = .next t ∧ t.cells = s.cells ∧ t.mem = s.mem ∧ t.own = s.own ∧ t.fuses = s.fuses ∧
      t.sch.tickIn = max s.sch.tickIn (s.sch.phase * g.poundLen s.sch.pound + v.rec_.issueTick) ∧
      (∀ b, b ∈ l.blocks → v.contributes g b = true → (s.bargeAddr n g o.src0 b).isSome = true → (s.part n c.toNat b).got < v.expected g b →
        (t.part n c.toNat b).own = true)) ∧
  (∀ (s : State) (n : Nat) (g : Image) (c : BitVec 32) (v : CollView) (b : Nat × Nat), s.execImage = some (n, g) → s.collView n g c.toNat = some v →
    s.sch.pound = v.rec_.issuePound → s.sch.state = .inPound → v.kind = 4 → g.surveyBindings.find? (fun y => y.2 == c.toNat) = some b →
    ∃ t, exec (.collective c) s = .next t ∧ (t.survey n c.toNat).own = true ∧ t.cells = s.cells ∧ t.mem = s.mem ∧ t.own = s.own ∧ t.fuses = s.fuses)

/-! ## DMA and sends (10, 07) -/

/-- A DMA record puts its descriptor at the end of its channel's queue with the tick of the write; a full queue of 32 loses its oldest. The head of a queue becomes the channel's current descriptor at its tick, the channel's first burst slot 8 ticks or more after the write, with the displacement that it reads from the scratchpad then; a displaced descriptor that breaks 10:R277 is refused: the counter, event 0x1008, the fault at the sill (10:R272 to R277, 07:R200). Completes: dmaDescriptorWrite, descriptorIssue. The model's own readings and choices in it: log 27. -/
def Obligations.DescriptorsQueueAndIssue : Prop :=
  (∀ (s : State) (k : Nat) (x : Issue), s.issues k 5 x → x.op.opcode ≠ 0x0310 → x.op.opcode ≠ 0x0311 → x.op.opcode ≠ 0x0312 →
    ∃ t, exec (.dmaDescriptorWrite k) s = .next t ∧
      (t.cell x.key).channel (x.arg 159 157) = ((s.cell x.key).channel (x.arg 159 157)).write ⟨x.arg 156 142, x.op.id, x.rc.part, x.start⟩ ∧
      (∀ i, i ≠ x.arg 159 157 → (t.cell x.key).channel i = (s.cell x.key).channel i) ∧ (t.cell x.key).spad = (s.cell x.key).spad ∧
      (t.cell x.key).layby = (s.cell x.key).layby ∧ (∀ j, j ≠ x.key → t.cell j = s.cell j) ∧ t.sch = (s.began k x).sch ∧ t.mem = s.mem ∧ t.flight = s.flight ∧ t.own = s.own) ∧
  (∀ (s : State) (die : Fin 16) (cell : Fin 68) (ch : Fin 8) (d : DmaSeat) (q : Queued) (rest : List Queued) (free τ : Nat) (r : Descr), s.canonical = true → s.dmaSeat die.val cell.val = some d →
    (s.cell d.key).spadErr = [] → (s.cell d.key).channel ch.val = ⟨rest.cons q, none, free⟩ → d.dma.descrs[q.descr]? = some r → s.issueTick d ch.val = some τ →
    let at_ := (List.range 8).map (fun i => d.seat.addr ((r.dynaddr + i : Nat)))
    let seen := (issueIn d.slot d.g d.bind d.fold s.sch.pound).dmaCell (s.cell d.key) τ at_
    let disp : Int := if r.dynS || r.dynM then signedOf 64 (leNat (at_.map seen.byte)) else 0
    let mo : Int := r.moffset + (if r.dynM then disp else 0)
    let sa : Int := r.saddr + (if r.dynS then disp else 0)
    -- a gather or a scatter moves its slices as its record issues, so its descriptor moves no byte of its own
    let slices := (d.g.op q.opId).any (fun o => isSliceOp o.opcode)
    ∃ t, exec (.descriptorIssue die cell ch) s = .next t ∧ q.tick + 8 ≤ τ ∧ free ≤ τ ∧ t.sch.tickIn = max s.sch.tickIn τ ∧
      (slices = true → (t.cell d.key).channel ch.val = ⟨rest, some ⟨q.descr, q.opId, q.part, q.tick, (s.cell d.key).issues, r.moffset, r.saddr, 0, true, []⟩, free⟩ ∧ t.evt = s.evt) ∧
      (slices = false → (t.cell d.key).channel ch.val = ⟨rest, some ⟨q.descr, q.opId, q.part, q.tick, (s.cell d.key).issues, mo, sa, 0, (refusal d.g r d.seat.space mo sa).isSome, []⟩, free⟩) ∧
      (t.cell d.key).issues = (s.cell d.key).issues + 1 ∧
      (t.cell d.key).spad = (s.cell d.key).spad ∧ (∀ j, j ≠ d.key → t.cell j = s.cell j) ∧ t.mem = s.mem ∧ t.flight = s.flight ∧ t.own = s.own ∧
      (∀ why, slices = false → refusal d.g r d.seat.space mo sa = some why → (t.cell d.key).dmaRefused = (s.cell d.key).dmaRefused + 1 ∧ (t.cell d.key).dmaLast.reason = BitVec.ofNat 4 why ∧
        (t.slot d.slot).sillFault = true ∧ (s.quiet (srcDie d.bind.die) → t.shows (srcDie d.bind.die) 0x1008)))

namespace Sys2Proof.Machine

/-- A burst slot, not had yet, that falls to channel `ch` of a cell. -/
def State.slotTurn (s : State) (die : Fin 16) (cell : Fin 68) (tick : Nat) (d : DmaSeat) (ch : Nat) : Prop :=
  s.dmaSeat die.val cell.val = some d ∧ (s.cell d.key).spadErr = [] ∧ s.canonical = true ∧ tick % 8 = 0 ∧ tick < d.g.poundLen s.sch.pound - d.g.poundLen s.sch.pound / 64 ∧
  ch = (pattern d.dma.weights).getD (tick / 8 % 16) 0 ∧ ((s.cell d.key).channel ch).free ≤ d.bind.phase * d.g.poundLen s.sch.pound + tick

/-- A burst slot falls to a channel whose current descriptor may issue its next burst. -/
def State.burstTurn (s : State) (die : Fin 16) (cell : Fin 68) (tick : Nat) (d : DmaSeat) (ch : Nat) (cur : Current) (r : Descr) : Prop :=
  s.slotTurn die cell tick d ch ∧ ((s.cell d.key).channel ch).current = some cur ∧ d.dma.descrs[cur.descr]? = some r ∧
  cur.tick + 8 ≤ d.bind.phase * d.g.poundLen s.sch.pound + tick

/-- The bursts of a barge, in order, once one more has come. -/
def barge16 (parts : List (Nat × Bytes)) (block : Nat) : List (Nat × Bytes) := sortBy (fun a b => decide (a.1 ≤ b.1)) (parts.filter (fun y => y.1 / 16 == block))

end Sys2Proof.Machine

/-- A burst slot issues the next burst of its channel's descriptor: a read leaves its entry in the lay-by, released 900 ticks later; a write of part of a barge leaves with its context; the sixteenth burst of a whole barge seals it; a memory-to-memory copy reads a burst in each slot and re-seals the barge at its last burst; a burst of contributions leaves with its CRC. A refused descriptor moves no byte. A slot whose channel has nothing to do stays empty; one in which the head of the queue issues does what the issue and then the burst do (10:R264, R272 to R278, 07:R187). Completes: burstSlot. The model's own readings and choices in it: log 50, 51. -/
def Obligations.BurstSlots : Prop :=
  (∀ (s : State) (die : Fin 16) (cell : Fin 68) (tick : Nat) (d : DmaSeat) (ch : Nat) (cur : Current) (r : Descr), s.canonical = true →
    s.burstTurn die cell tick d ch cur r →
    let c := s.cell d.key
    let off := sideOffset cur.moffset r.mwrap (c.cursor d cur.descr 0) (d.g.memBytes r (256 * cur.burst))
    let sc := sideOffset cur.saddr r.swrap (c.cursor d cur.descr 1) (256 * cur.burst)
    let whole := wholeBarge r cur.moffset (c.cursor d cur.descr 0) (off / 4096)
    let pt := d.bind.phase * d.g.poundLen s.sch.pound + tick
    let places := d.seat.words (d.spadLay r cur.opId) sc 4
    let data := (issueIn d.slot d.g d.bind d.fold s.sch.pound).wordsOut c pt places
    ∃ t, exec (.burstSlot die cell tick) s = .next t ∧ t.own = s.own ∧ t.fuses = s.fuses ∧ (∀ j, j ≠ d.key → t.cell j = s.cell j) ∧ (t.cell d.key).spad = c.spad ∧
      t.sch.tickIn = max s.sch.tickIn pt ∧
      (∀ i, i ≠ ch → (t.cell d.key).channel i = c.channel i) ∧ ((t.cell d.key).channel ch).queue = (c.channel ch).queue ∧ ((t.cell d.key).channel ch).free = pt + 1 ∧
      (cur.burst + 1 < r.length / 256 → (((t.cell d.key).channel ch).current.map (·.burst)) = some (cur.burst + 1)) ∧
      (r.length / 256 ≤ cur.burst + 1 → ((t.cell d.key).channel ch).current = none) ∧
      (cur.refused = true → t.mem = s.mem ∧ t.flight = s.flight ∧ t.lnk = s.lnk ∧ (t.cell d.key).dmaBursts = c.dmaBursts ∧ (t.cell d.key).layby = c.layby) ∧
      (cur.refused = false → (t.cell d.key).dmaBursts = c.dmaBursts + 1 ∧
        (r.kind = 0 → t.mem = s.mem ∧ t.flight = s.flight ∧ ∀ a, s.bargeAddr d.slot d.g r.mtensor (off / 4096) = some a →
          sget none (t.cell d.key).layby (c.laybyNext % 64) = some { slot := BitVec.ofNat 3 d.slot, gen := s.gen d.slot, tensor := r.mtensor, block := off / 4096, device := a + off % 4096, places := places, release := pt + 900, index := off % 4096 / 256, channel := ch, descr := cur.descr, issue := cur.issue, whole := whole, data := none, stale := false }) ∧
        (r.kind = 1 → whole = false → t.mem = s.mem ∧ ∀ a, s.bargeAddr d.slot d.g r.mtensor (off / 4096) = some a →
          t.flight = { s.flight with parts := s.flight.parts ++ [⟨a + off % 4096, data, BitVec.ofNat 3 d.slot, s.gen d.slot, none, d.bind.die, d.bind.cell⟩] }) ∧
        (r.kind = 1 → whole = true → t.mem = s.mem ∧
          let mine := barge16 (cur.parts ++ [(off / 256, data)]) (off / 4096)
          (mine.length ≠ 16 → t.flight = s.flight) ∧
          (∀ a, mine.length = 16 → s.bargeAddr d.slot d.g r.mtensor (off / 4096) = some a →
            let z := s.seal d.slot d.g r.mtensor (off / 4096) (sourceCell d.bind.die d.bind.cell) (s.slot d.slot).step.toNat (mine.flatMap (·.2))
            t.flight = { s.flight with barges := s.flight.barges ++ [⟨a, z.1, z.2, none⟩] })) ∧
        (r.kind = 2 → s.mem.errs = [] → ∀ a a2 i, s.bargeAddr d.slot d.g r.mtensor (off / 4096) = some a →
          s.bargeAddr d.slot d.g r.m2tensor ((r.m2offset + 256 * cur.burst) / 4096) = some a2 → a % 4096 = 0 → a2 % 4096 = 0 →
          let parts := cur.parts ++ [(off / 256, sread 0 s.mem.bytes (a + off % 4096) 256)]
          let mine := barge16 parts (off / 4096)
          let p := mine.flatMap (·.2)
          (mine.length < 16 → t.mem = s.mem ∧ t.flight = s.flight ∧ ∀ u, ((t.cell d.key).channel ch).current = some u → u.parts = parts) ∧
          (mine.length = 16 → p.length = 4096 → tagOk p (s.mem.bargeTag a) = true → tagTensor (s.mem.bargeTag a) = r.mtensor → tagBlock (s.mem.bargeTag a) = off / 4096 →
            let z := s.seal d.slot d.g r.m2tensor ((r.m2offset + 256 * cur.burst) / 4096) (sourceStack (stackOf a2)) (s.slot d.slot).step.toNat p
            (i < 4096 → sget 0 t.mem.bytes (a2 + i) = z.1.getD i 0) ∧ ((i < a2 ∨ a2 + 4096 ≤ i) → sget 0 t.mem.bytes i = sget 0 s.mem.bytes i) ∧
            tagOk (sread 0 t.mem.bytes a2 4096) (t.mem.bargeTag a2) = true)) ∧
        (3 ≤ r.kind → t.mem = s.mem ∧ ∃ b, t.flight = { s.flight with bursts := s.flight.bursts ++ [b] } ∧ b.data = data ∧
          b.slot = BitVec.ofNat 3 d.slot ∧ b.gen = s.gen d.slot ∧ b.tensor = BitVec.ofNat 32 r.mtensor ∧ b.format = r.format ∧ b.opId = cur.opId ∧ b.crc = crc32c b.covered))) ∧
  (∀ (s : State) (die : Fin 16) (cell : Fin 68) (tick : Nat) (d : DmaSeat) (ch : Nat), s.slotTurn die cell tick d ch →
    ((s.cell d.key).channel ch).current = none → ((s.cell d.key).channel ch).queue = [] →
    exec (.burstSlot die cell tick) s = .next ((s.tickTo (d.bind.phase * d.g.poundLen s.sch.pound + tick)).takeSlot d ch (d.bind.phase * d.g.poundLen s.sch.pound + tick))) ∧
  (∀ (s : State) (die : Fin 16) (cell : Fin 68) (tick : Nat) (d : DmaSeat) (ch : Fin 8) (q : Queued), s.slotTurn die cell tick d ch.val →
    s.issueTick d ch.val = some (d.bind.phase * d.g.poundLen s.sch.pound + tick) → ((s.cell d.key).channel ch.val).queue.head? = some q → (d.dma.descrs[q.descr]?).isSome = true →
    ∃ t, exec (.descriptorIssue die cell ch) s = .next t ∧ exec (.burstSlot die cell tick) s = exec (.burstSlot die cell tick) t)

/-- A package send takes its bytes from its issue on, one word per tick, and is due 192 ticks later; its delivery writes them into the destination's scratchpad, one word per tick, or a stop plank drops them where that cell is in reset, and they are lost: event 0x5008 and the fault at the sill; during a hold of its context neither arrives. A link send reads barge after barge, each in its 64 ticks, and each leaves sealed on a port to its receiver (07:R178, R185, R186, 13:R345, 11:R282, R285). Completes: inPackageSend, inPackageDelivery, linkSend. The model's own readings and choices in it: log 22. -/
def Obligations.SendsAndDeliveries : Prop :=
  (∀ (s : State) (k : Nat) (x : Issue) (b : Binding), s.issues k 6 x → (s.slot x.slot).place.bindings.find? (fun b => b.logical == x.arg 115 84) = some b →
    let dest : Seat := ⟨cellKey b.die b.cell, b.phase * (spadBytes / x.fold), spadBytes / x.fold⟩
    ∃ t y, exec (.inPackageSend k) s = .next t ∧ t.flight = { s.flight with transfers := s.flight.transfers ++ [y] } ∧ y.slot.val = x.slot % 8 ∧ y.dstDie = b.die ∧ y.dstCell = b.cell ∧
      y.srcDie = x.bind.die ∧ y.places = dest.words x.sentLay (x.arg 137 116) (x.arg 83 64) ∧ y.due = x.start + 192 ∧
      y.data = x.wordsOut ((s.began k x).cell x.key) x.start (x.seat.words x.sentLay (x.arg 159 138) (x.arg 83 64)) ∧ s.engineFrame t k x ∧
      (t.cell x.key).spad = (s.cell x.key).spad) ∧
  (∀ (s : State) (i n j : Nat) (y : PkgTransfer), s.canonical = true → s.flight.transfers[i]? = some y →
    let key := cellKey y.dstDie y.dstCell
    let c := s.cell key
    (s.frozen y = true → exec (.inPackageDelivery i) s = .next s) ∧
    (s.frozen y = false → ∃ t, exec (.inPackageDelivery i) s = .next t ∧ t.flight = { s.flight with transfers := s.flight.transfers.eraseIdx i } ∧ t.mem = s.mem ∧ t.own = s.own ∧
      (c.inReset = true → t.cells = s.cells ∧ t.flt = { s.flt with plankDrops := s.flt.plankDrops + 1 } ∧ (t.slot y.slot.val).sillFault = true ∧
        (s.quiet 0x012 → t.shows 0x012 0x5008)) ∧
      (c.inReset = false → t.ctx = s.ctx ∧ t.evt = s.evt ∧ t.flt = s.flt ∧ (∀ m, m ≠ key → t.cell m = s.cell m) ∧ t.cell key = c.wordsIn (s.workOf y.slot.val key) y.due y.places y.data ∧
        -- word n of the transfer, byte j of it, but where an engine of the cell writes that bank in its tick
        (c.landed = [] → y.places.Nodup → (∀ p ∈ y.places, p % 64 = 0) → n < y.places.length → j < 64 → 64 * n + j < y.data.length →
          sget 0 (t.cell key).spad (y.places.getD n 0 + j) =
            if lostIn (s.workOf y.slot.val key) c (y.due + n) (y.places.getD n 0 + j) then sget 0 c.spad (y.places.getD n 0 + j) else y.data.getD (64 * n + j) 0)))) ∧
  (∀ (s : State) (k : Nat) (x : Issue) (r : LinkRoute), s.issues k 7 x → x.g.route (x.arg 137 122) = some r →
    ∃ t, exec (.linkSend k) s = .next t ∧ (t.cell x.key).spad = (s.cell x.key).spad ∧ (∀ n, n ≠ x.key → t.cell n = s.cell n) ∧ t.mem = s.mem ∧ t.flight = s.flight ∧ t.own = s.own ∧
      -- each barge of the record leaves, once its receiver has joined and a path leads there
      (∀ j i, (s.slot x.slot).joinOf r.dst = some j → s.sendsTo (x.g.nodeAt r.dst) → i < x.arg 121 102 →
        ∃ q seq p tag, sentPacket q (.barge ⟨false, BitVec.ofNat 32 r.number, BitVec.ofNat 32 i⟩ seq p tag) ∈ t.out ∧ q ∈ s.portsTo (x.g.nodeAt r.dst) ∧ tagOk p tag = true ∧
          (x.g.isShared (tagTensor tag) = false → tagCtx tag = j.slot.toNat ∧ tagGen tag = j.gen.toNat)))

/-- A read's 256 bytes return from device memory into their lay-by entry. An entry that was cleared when its cell stopped takes none: it is freed, and counts as late; for a cell in reset the stop plank drops the return and counts it. A base die that does not run answers nothing. When the sixteenth burst of a whole barge of one issue has come, the cell checks it, and a failed check counts with its reason (07:R189, 10:R264 to R266, R269, 13:R345). Completes: memoryReadReturn. The model's own readings and choices in it: log 50. -/
def Obligations.ReadsReturn : Prop :=
  ∀ (s : State) (die : Fin 16) (cell : Fin 68) (e : Fin 64) (b : Burst), s.canonical = true → s.mem.errs = [] →
    sget none (s.cell (cellKey die.val cell.val)).layby e.val = some b →
    let key := cellKey die.val cell.val
    let data := sread 0 s.mem.bytes b.device 256
    ∃ t, exec (.memoryReadReturn die cell e) s = .next t ∧ t.mem = s.mem ∧ (t.cell key).spad = (s.cell key).spad ∧ (∀ j, j ≠ key → t.cell j = s.cell j) ∧ t.own = s.own ∧
      ((s.cell key).inReset = true → sget none (t.cell key).layby e.val = none ∧ t.flt = { s.flt with plankDrops := s.flt.plankDrops + 1 } ∧ (t.cell key).towStale = (s.cell key).towStale ∧ t.evt = s.evt) ∧
      ((s.cell key).inReset = false → b.stale = true → sget none (t.cell key).layby e.val = none ∧ (t.cell key).towStale = (s.cell key).towStale + 1) ∧
      ((s.cell key).inReset = false → b.stale = false → b.data.isSome = true → t = s) ∧
      ((s.cell key).inReset = false → b.stale = false → b.data = none → s.baseRuns (stackOf b.device) = false → t = { s with flt := { s.flt with plankDrops := s.flt.plankDrops + 1 } }) ∧
      ((s.cell key).inReset = false → b.stale = false → b.data = none → s.baseRuns (stackOf b.device) = true → sget none (t.cell key).layby e.val = some { b with data := some data } ∧
        (∀ n, n ≠ e.val → sget none (t.cell key).layby n = sget none (s.cell key).layby n) ∧
        (b.whole = false → t.evt = s.evt) ∧
        (∀ a g, b.whole = true → (s.slot b.slot.toNat).image = some g → (addArrival (s.cell key).arrivals b data).find? (Arrival.is · b) = some a →
          let p := (sortBy (fun u v => decide (u.1 ≤ v.1)) a.got).flatMap (·.2)
          let check := s.hop2 b.slot.toNat g b.tensor b.block p (s.mem.bargeTag (b.device / 4096 * 4096))
          (a.got.length < 16 → (t.cell key).arrivals = addArrival (s.cell key).arrivals b data ∧ t.evt = s.evt) ∧
          (16 ≤ a.got.length → check = none → (t.cell key).towFail = (s.cell key).towFail ∧ t.evt = s.evt) ∧
          (∀ why, 16 ≤ a.got.length → check = some why → (t.cell key).towFail = (s.cell key).towFail + 1 ∧ (t.cell key).dmaLast.reason = BitVec.ofNat 4 why)))

/-! ## Device memory (09, 10) -/

/-- A barge that arrives at its base die is stored whole with its tag, if its check value is right and it is not late; a wrong one is a failed hop 1, a late one and one at a closed plank are dropped and counted, and none of these stores a byte of it. A write of part of a barge changes its bytes alone and seals the barge again. A barge or a part that a shard-table entry waits for takes the entry with it: to FAILED with CHECK where its check fails, out of those that have all arrived where it is lost (09:R240, 10:R263 to R268, 12:R318, 13:R345). The write-back of a corrected word stores its bytes as a sound codeword; its tag nibble and every other word are unchanged (09:R242). Completes: wholeBargeWrite, partialWrite, correctedWriteBack. The model's own readings and choices in it: log 28. -/
def Obligations.BargeWritesLand : Prop :=
  (∀ (s : State) (i j : Nat) (b : BargeWrite), s.canonical = true → s.flight.barges[i]? = some b →
    ∃ t, exec (.wholeBargeWrite i) s = .next t ∧ t.flight.barges = s.flight.barges.eraseIdx i ∧ t.cells = s.cells ∧ t.own = s.own ∧
      (s.baseRuns (stackOf b.device) = false → t.mem = s.mem ∧ t.flt.plankDrops = s.flt.plankDrops + 1 ∧ ∀ h e, b.load = some (h, e) → e ∉ (t.handle h).arrived) ∧
      (s.baseRuns (stackOf b.device) = true → tagOk b.payload b.tag = false →
        ((∀ h e, b.load = some (h, e) → s.arriving h e = false) → t.mem = s.mem) ∧
        (∀ h e, b.load = some (h, e) → s.arriving h e = true → bits (t.entry (t.handle h) e) 135 128 = 3 ∧ bits (t.entry (t.handle h) e) 143 136 = 1) ∧
        sget 0 t.flt.towFail 1 = sget 0 s.flt.towFail 1 + 1 ∧ (s.quiet (srcStack (stackOf b.device)) → t.shows (srcStack (stackOf b.device)) 0x5009)) ∧
      (s.baseRuns (stackOf b.device) = true → tagOk b.payload b.tag = true → s.isLate (tagCtx b.tag) (tagGen b.tag) = true → s.inBase b.device = false →
        t.mem = s.mem ∧ t.flt.staleMem = s.flt.staleMem + 1 ∧ ∀ h e, b.load = some (h, e) → e ∉ (t.handle h).arrived) ∧
      (s.baseRuns (stackOf b.device) = true → tagOk b.payload b.tag = true → (s.isLate (tagCtx b.tag) (tagGen b.tag) = false ∨ s.inBase b.device = true) →
        b.device % 4096 = 0 → b.payload.length = 4096 → t.flt = s.flt ∧ (j < 4096 → sget 0 t.mem.bytes (b.device + j) = b.payload.getD j 0) ∧
        ((j < b.device ∨ b.device + 4096 ≤ j) → sget 0 t.mem.bytes j = sget 0 s.mem.bytes j) ∧ t.mem.bargeTag b.device = b.tag)) ∧
  (∀ (s : State) (i j : Nat) (w : PartWrite), s.canonical = true → s.mem.errs = [] → s.flight.parts[i]? = some w →
    let a := w.device / 4096 * 4096
    let p := sread 0 s.mem.bytes a 4096
    let tag := s.mem.bargeTag a
    let late := s.isLate w.slot.toNat w.gen.toNat && !s.inBase a
    let fits := tagCtx tag = w.slot.toNat ∧ tagGen tag = w.gen.toNat
    let patched := patch p (w.device % 4096) w.data
    let new := (s.partLayout w (tagTensor tag)).elim patched (fun l => l.maskBarge (tagBlock tag) patched)
    ∃ t, exec (.partialWrite i) s = .next t ∧ t.flight.parts = s.flight.parts.eraseIdx i ∧ t.cells = s.cells ∧ t.own = s.own ∧
      (s.baseRuns (stackOf a) = false → t.mem = s.mem ∧ t.flt.plankDrops = s.flt.plankDrops + 1) ∧
      (s.baseRuns (stackOf a) = true →
        (tagOk p tag = false ∨ (late = false ∧ ¬fits) → (w.load = none → t.mem = s.mem) ∧ sget 0 t.flt.towFail 3 = sget 0 s.flt.towFail 3 + 1) ∧
        (tagOk p tag = true → late = true → t.mem = s.mem ∧ t.flt.staleMem = s.flt.staleMem + 1) ∧
        (tagOk p tag = true → late = false → fits → w.device % 4096 + w.data.length ≤ 4096 →
          (j < 4096 → sget 0 t.mem.bytes (a + j) = new.getD j 0) ∧ ((j < a ∨ a + 4096 ≤ j) → sget 0 t.mem.bytes j = sget 0 s.mem.bytes j) ∧
          tagOk (sread 0 t.mem.bytes a 4096) (t.mem.bargeTag a) = true ∧ tagCtx (t.mem.bargeTag a) = w.slot.toNat ∧ tagGen (t.mem.bargeTag a) = w.gen.toNat))) ∧
  (∀ (s : State) (i j : Nat) (b : WriteBack), s.canonical = true → s.flight.backs[i]? = some b → b.data.length = 64 →
    ∃ t, exec (.correctedWriteBack i) s = .next t ∧ (j < 64 → sget 0 t.mem.bytes (b.word * 64 + j) = b.data.getD j 0) ∧
      ((j < b.word * 64 ∨ b.word * 64 + 64 ≤ j) → sget 0 t.mem.bytes j = sget 0 s.mem.bytes j) ∧ t.mem.tags = s.mem.tags ∧ sget none t.mem.errs b.word = none ∧
      (∀ n, n ≠ b.word → sget none t.mem.errs n = sget none s.mem.errs n) ∧ t.flight.backs = s.flight.backs.filter (fun y => y.word != b.word) ∧
      t.stks = s.stks ∧ t.cells = s.cells ∧ t.ctx = s.ctx ∧ t.own = s.own)

/-- An accumulating burst with a right CRC, in time and for the expected tensor becomes the contributions of its elements at the tail of its stack's queue; a wrong one is a failed hop 8 and contributes nothing. The adder takes the head of its queue into its working cell by the combination of 02:R52, the 16 bytes of device memory that hold it, or counts it in its region where it comes after the close point. A region closes once in a step, at the end of the pound of its close point: it takes in the bursts of its operations still on their way, retires what the queues hold, and writes no byte outside the region's barges and the working cells (09:R249 to R252, 02:R61, R62, 10:R278). Completes: accumulatingBurst, adderContribution, regionClose. The model's own readings and choices in it: log 100. -/
def Obligations.AddersAndRegions : Prop :=
  (∀ (s : State) (i : Nat) (b : AccBurst), s.canonical = true → s.flight.bursts[i]? = some b → (∀ k, s.baseRuns k = true) →
    ∃ t, exec (.accumulatingBurst i) s = .next t ∧ t.flight = { s.flight with bursts := s.flight.bursts.eraseIdx i } ∧ t.mem = s.mem ∧ t.cells = s.cells ∧ t.own = s.own ∧
      (crc32c b.covered ≠ b.crc → t.stks = s.stks ∧ sget 0 t.flt.towFail 8 = sget 0 s.flt.towFail 8 + 1) ∧
      (crc32c b.covered = b.crc → s.isLate b.slot.toNat b.gen.toNat = true → t.stks = s.stks ∧ t.flt.staleMem = s.flt.staleMem + 1) ∧
      (crc32c b.covered = b.crc → s.isLate b.slot.toNat b.gen.toNat = false → b.tensor ≠ b.expect → t.stks = s.stks ∧ sget 0 t.flt.towFail 8 = sget 0 s.flt.towFail 8 + 1) ∧
      (∀ g l k, crc32c b.covered = b.crc → s.isLate b.slot.toNat b.gen.toNat = false → b.tensor = b.expect → (s.slot b.slot.toNat).image = some g → g.lay b.tensor.toNat = some l →
        (∀ e ∈ b.elements (fmtBits l.format / 8), s.cellStack b.slot.toNat g b.tensor.toNat e.1 = some k) → (s.stack k).queue.length + (b.elements (fmtBits l.format / 8)).length ≤ 131072 →
        (t.stack k).queue.map (fun c => (c.tensor, c.cell, c.format, c.bits, c.anchor, c.opId)) = (s.stack k).queue.map (fun c => (c.tensor, c.cell, c.format, c.bits, c.anchor, c.opId)) ++
          (b.elements (fmtBits l.format / 8)).map (fun e => (b.tensor.toNat, e.1, b.format, e.2.1, e.2.2, b.opId)) ∧ (∀ n, n ≠ k → t.stack n = s.stack n))) ∧
  (∀ (s : State) (k : Fin 8) (c : Contribution) (q : List Contribution) (g : Image) (r : RegionRec) (j : Nat), s.canonical = true → s.mem.errs = [] →
    (s.stack k.val).queue = c :: q → (s.slot c.slot.val).image = some g → g.region c.tensor = some r →
    let n := c.slot.val
    ∃ t, exec (.adderContribution k) s = .next t ∧ (t.stack k.val).queue = q ∧ (t.stack k.val).addRetired = (s.stack k.val).addRetired + 1 ∧ t.cells = s.cells ∧ t.own = s.own ∧
      (∀ m, m ≠ k.val → t.stack m = s.stack m) ∧
      (r.opId < c.opId → t.mem = s.mem ∧ sget 0 (t.slot n).regionStep c.tensor = sget 0 (s.slot n).regionStep c.tensor + 1) ∧
      (c.opId ≤ r.opId → ∀ a, s.workPlace n g c.tensor c.cell = some a → a % 16 = 0 →
        sread 0 t.mem.bytes a 16 = workBytesOf ((s.workCell n g c.tensor c.cell).combine (convertContribution r c.format c.bits c.anchor).1) ∧
        (j < a ∨ a + 16 ≤ j → sget 0 t.mem.bytes j = sget 0 s.mem.bytes j))) ∧
  (∀ (s : State) (n : Nat) (g : Image) (i a : Nat) (r : RegionRec) (l : Layout), s.canonical = true → s.execImage = some (n, g) → g.regions[i]? = some r → g.lay r.tensor = some l →
    (s.regionDue n g r = true →
      ∃ t, exec (.regionClose i) s = .next t ∧ (t.slot n).closed = (s.slot n).closed ++ [r.tensor] ∧ (∀ k, k < 8 → (t.stack k).queue = []) ∧ t.cells = s.cells ∧ t.own = s.own ∧
        t.flight.bursts = s.flight.bursts.filter (fun b => !(b.slot.toNat == n && b.expect.toNat == r.tensor && decide (b.opId ≤ r.opId))) ∧
        (s.mem.errs = [] → (∀ b d, b < l.elemBarges → s.bargeAddr n g r.tensor b = some d → a < d / 64 * 64 ∨ d / 64 * 64 + 4096 ≤ a) →
          (∀ m f v c d, (s.slot m).image = some f → s.workPlace m f v c = some d → d % 16 = 0 ∧ (a < d ∨ d + 16 ≤ a)) → sget 0 t.mem.bytes a = sget 0 s.mem.bytes a)) ∧
    (s.regionDue n g r = false → exec (.regionClose i) s = .next s) ∧
    (s.regionDue n g r = true ↔ r.tensor ∉ (s.slot n).closed ∧ (g.lastPound r.opId < s.sch.pound ∨ g.lastPound r.opId = s.sch.pound ∧ s.poundOver n g = true)))

/-- A sweep of the dredge counts, forgets the sweep's counts of frames, and changes no byte of memory; it halves its period, not below 15 minutes, when it has found more corrected errors than the threshold, and takes its full period otherwise. Refresh changes nothing, and refresh management counts (09:R245, R246). A traffic generator starts when every slot is EMPTY or its stack is out of service, with the settings as they stand and its results clear but PASS, and refuses the start with 0x3005 otherwise. ABORT ends a run, with DONE and PASS as they stood since the start. A run that completes is done; it passes if it checked and found nothing wrong, a run that only checks stores nothing, and one that writes stores only in the rows it names, never in the dump region (09:R256 to R258). Completes: dredgeSweep, refresh, refreshManagement, tgStart, tgAbort, tgRunDone. The model's own readings and choices in it: log 16, 58. -/
def Obligations.DredgeRefreshAndTraffic : Prop :=
  (∀ (s : State) (k : Fin 8), s.canonical = true → s.stackAwake k.val = true → (s.stack k.val).periodH ≠ 0 →
    ∃ t, exec (.dredgeSweep k) s = .next t ∧ (t.stack k.val).sweeps = (s.stack k.val).sweeps + 1 ∧ (t.stack k.val).sweepCe = [] ∧ t.mem = s.mem ∧ t.cells = s.cells ∧ t.own = s.own ∧
      (t.stack k.val).shortened = (if (s.stack k.val).thresh.toNat < ((t.stack k.val).ce - (s.stack k.val).ce).toNat then
        some (max 900000 ((s.stack k.val).shortened.getD (min (s.stack k.val).periodH.toNat 168 * 3600000) / 2)) else none) ∧ (∀ n, n ≠ k.val → t.stack n = s.stack n)) ∧
  (∀ (s : State) (k : Fin 8), exec (.refresh k) s = .next s) ∧
  (∀ (s : State) (k : Fin 8), s.canonical = true → s.stackAwake k.val = true →
    ∃ t, exec (.refreshManagement k) s = .next t ∧ t.stack k.val = { s.stack k.val with rfm := (s.stack k.val).rfm + 1 } ∧ (∀ n, n ≠ k.val → t.stack n = s.stack n) ∧
      t.mem = s.mem ∧ t.cells = s.cells ∧ t.ctx = s.ctx ∧ t.own = s.own) ∧
  (∀ (s : State) (m : Master) (k : Fin 8) (c : Fin 32) (v : Word), s.canonical = true → s.accepts m (0x101000 + k.val * 0x10000 + c.val * 0x40) →
    ((s.tg k.val c.val).busy = false → ((∀ n, n < 8 → (s.slot n).state = .empty) ∨ (s.stack k.val).inService = false) →
      ∃ t, exec (.tgStart m k c v) s = .next t ∧ t.tg k.val c.val = { s.tg k.val c.val with pattern := v.extractLsb' 8 4, mode := v.extractLsb' 6 2, run := some ⟨(v.extractLsb' 8 4).toNat, (v.extractLsb' 6 2).toNat, (s.tg k.val c.val).pcs.toNat, (s.tg k.val c.val).first.toNat, (s.tg k.val c.val).last.toNat, (s.tg k.val c.val).seed⟩, done := false, sideFail := 0, errors := 0, failAddr := 0, failLanes := 0 } ∧ t.mem = s.mem ∧ t.own = s.own ∧ t.ctx = s.ctx ∧ t.cells = s.cells) ∧
    ((s.tg k.val c.val).busy = false → (∃ n, n < 8 ∧ (s.slot n).state ≠ .empty) → (s.stack k.val).inService = true →
      ∃ t, exec (.tgStart m k c v) s = .next t ∧ (t.tg k.val c.val).busy = false ∧ t.mem = s.mem ∧ (s.quiet (srcStack k.val) → t.shows (srcStack k.val) 0x3005)) ∧
    ((s.tg k.val c.val).busy = true → v.getLsbD 0 = false →
      ∃ t, exec (.tgAbort m k c v) s = .next t ∧ (t.tg k.val c.val).busy = false ∧ (t.tg k.val c.val).done = (s.tg k.val c.val).done ∧ (t.tg k.val c.val).pass = (s.tg k.val c.val).pass ∧ t.own = s.own ∧ t.ctx = s.ctx ∧ t.cells = s.cells)) ∧
  (∀ (s : State) (k : Fin 8) (c : Fin 32) (a : Nat) (g : TgRun), s.canonical = true → (s.tg k.val c.val).run = some g →
    ∃ t, exec (.tgRunDone k c) s = .next t ∧ (t.tg k.val c.val).busy = false ∧ (t.tg k.val c.val).done = true ∧ t.own = s.own ∧ t.ctx = s.ctx ∧ t.cells = s.cells ∧
      ((t.tg k.val c.val).pass = true → g.mode ≠ 0 ∧ (t.tg k.val c.val).errors = 0) ∧ (g.mode = 0 → (t.tg k.val c.val).pass = false ∧ (t.tg k.val c.val).errors = 0) ∧
      (g.mode ≠ 0 → g.mode ≠ 2 → t.mem = s.mem) ∧ (inDump a = true → sget 0 t.mem.bytes a = sget 0 s.mem.bytes a) ∧
      ((∀ pc ∈ tgPcs g, ∀ d ∈ tgAddrs k.val (2 * c.val + pc) (tgRows g).1 (tgRows g).2, a < d ∨ d + 256 ≤ a) → sget 0 t.mem.bytes a = sget 0 s.mem.bytes a))
/-! ## Links (11) -/

namespace Sys2Proof.Machine

/-- A port that has done nothing but send. -/
def Port.onlySent (p p' : Port) : Prop := p' = { p with nextSeq := p'.nextSeq, replay := p'.replay }

/-- Every port but one has at most sent packets that waited for a path. -/
def State.othersSent (s t : State) (q : Nat) : Prop := ∀ n, n ≠ q → (s.port n).onlySent (t.port n)

end Sys2Proof.Machine

/-- LNK_PORT_CTRL enables, disables and retrains a port of a running link die. Detection, adaptation, discovery, the loss of the signal and the retry after a failure take the port from state to state as 11:Table 11.5 says; own echoes that return measure its latency, and the partner's go back to it; a packet whose CRC fails is not used (11:R290 to R293). Completes: portEnable, portDisable, retrain, laneDetected, trainingDone, discovery, echo, remeasure, signalLoss, portRetry. The model's own readings and choices in it: log 49. -/
def Obligations.PortStates : Prop :=
  (∀ (s : State) (m : Master) (q : Fin 36) (v : Word), s.canonical = true → s.accepts m (0x200100 + q.val / 6 * 0x10000 + q.val % 6 * 0x40) → s.dieState (24 + q.val / 6) = 0 →
    (∃ t, exec (.portEnable m q v) s = .next t ∧ (t.port q.val).ctlEnable = true ∧ (t.port q.val).maxWidth = v.extractLsb' 2 2 ∧
      ((s.port q.val).state = .disabled → (s.port q.val).held = false → (t.port q.val).state = .detect) ∧
      ((s.port q.val).state ≠ .disabled → v.getLsbD 1 = false → (t.port q.val).state = (s.port q.val).state) ∧ s.othersSent t q.val ∧ t.mem = s.mem ∧ t.cells = s.cells ∧ t.own = s.own) ∧
    (∃ t, exec (.portDisable m q v) s = .next t ∧ (t.port q.val).ctlEnable = false ∧ (t.port q.val).state = .disabled ∧ (t.port q.val).lanesUp = 0 ∧
      (t.port q.val).downs = (s.port q.val).downs + (if (s.port q.val).state = .up then 1 else 0) ∧ s.othersSent t q.val ∧ t.mem = s.mem ∧ t.cells = s.cells ∧ t.own = s.own) ∧
    (v.getLsbD 0 = true → (s.port q.val).held = false → ∃ t, exec (.retrain m q v) s = .next t ∧ (t.port q.val).state = .detect ∧
      s.othersSent t q.val ∧ t.mem = s.mem ∧ t.cells = s.cells ∧ t.own = s.own)) ∧
  (∀ (s : State) (q : Fin 36), s.canonical = true →
    (∀ lane, s.portsAwake = true → (s.port q.val).state = .detect → ∃ t, exec (.laneDetected q lane) s = .next t ∧ (t.port q.val).state = .train ∧ (∀ n, n ≠ q.val → t.port n = s.port n)) ∧
    (∀ lanes loss, (s.port q.val).state = .train → ∃ t, exec (.trainingDone q lanes loss) s = .next t ∧ (t.port q.val).lanesOk = lanes ∧ (t.port q.val).loss = loss ∧
      (t.port q.val).state = (if lanes = 0 then .failed else .discover) ∧ (t.port q.val).downs = (s.port q.val).downs + (if lanes = 0 then 1 else 0) ∧ (∀ n, n ≠ q.val → t.port n = s.port n)) ∧
    (∀ trips, (s.port q.val).state = .discover → ∃ t, exec (.discovery q none trips) s = .next t ∧ (t.port q.val).state = .failed ∧ (∀ n, n ≠ q.val → t.port n = s.port n)) ∧
    (∀ r trips, ((s.port q.val).state = .discover ∨ (s.port q.val).state = .up) → ∃ t, exec (.discovery q (some ⟨r, true⟩) trips) s = .next t ∧ (t.port q.val).state = .up ∧ (t.port q.val).partner = r.extractLsb' 0 64 ∧
      (t.port q.val).width = BitVec.ofNat 2 (min (s.port q.val).ownWidth (capWidth (r.extractLsb' 58 2))) ∧ s.othersSent t q.val ∧ t.mem = s.mem ∧ t.own = s.own) ∧
    (∀ stamp turn receive loss, ((s.port q.val).state = .up ∨ (s.port q.val).state = .discover) → ∃ t, exec (.echo q ⟨stamp, true⟩ (some turn) receive loss) s = .next t ∧ (t.port q.val).loss = loss ∧
      let trips := (s.port q.val).trips ++ [receive - stamp - turn]
      (t.port q.val).trips = trips.drop (trips.length - 16) ∧ (t.port q.val).delta = BitVec.ofNat 32 ((trips.drop (trips.length - 16)).foldl max 0 * 1000 / 3) ∧
      (t.port q.val).state = (s.port q.val).state ∧ s.othersSent t q.val ∧ t.mem = s.mem ∧ t.own = s.own) ∧
    (∀ stamp receive loss, ((s.port q.val).state = .up ∨ (s.port q.val).state = .discover) → s.dieState (24 + q.val / 6) = 0 →
      ∃ t turnaround, exec (.echo q ⟨stamp, true⟩ none receive loss) s = .next t ∧ t.out = sentPacket q.val (.echo stamp turnaround) :: s.out ∧ t.lnk = s.lnk ∧ t.mem = s.mem ∧ t.own = s.own) ∧
    ((s.port q.val).state = .up → s.dieState (24 + q.val / 6) = 0 →
      ∃ t l, exec (.remeasure q) s = .next t ∧ t.out = l ++ s.out ∧ l.length = 16 ∧ (∀ o ∈ l, ∃ e, o = sentPacket q.val (.echo e 0)) ∧ t.port q.val = { s.port q.val with deltaRef := (s.port q.val).delta } ∧
      (∀ n, n ≠ q.val → t.port n = s.port n) ∧ t.mem = s.mem ∧ t.own = s.own) ∧
    -- a packet whose CRC fails is not used
    (∀ r trips stamp turn receive loss, exec (.discovery q (some ⟨r, false⟩) trips) s = .next s ∧ exec (.echo q ⟨stamp, false⟩ turn receive loss) s = .next s) ∧
    ((s.port q.val).state ≠ .disabled → (s.port q.val).held = false → ∃ t, exec (.signalLoss q) s = .next t ∧ (t.port q.val).state = .detect ∧
      (t.port q.val).downs = (s.port q.val).downs + (if (s.port q.val).state = .up then 1 else 0) ∧ s.othersSent t q.val ∧ t.mem = s.mem ∧ t.own = s.own) ∧
    ((s.port q.val).state = .failed → (s.port q.val).held = false → ∃ t, exec (.portRetry q) s = .next t ∧ (t.port q.val).state = .detect ∧ (∀ n, n ≠ q.val → t.port n = s.port n)))

/-- A lost lane leaves the width that the others support, and no lane takes the port to DETECT; lanes that come back widen it. A port that gets no acknowledgement goes to DETECT with an empty replay buffer; each of its packets that has not been sent eight times goes out on another path to its node, or waits where there is none. An acknowledgement takes what it covers out of the buffer, and a request sends its packet once more, eight times in all at the most (11:R295, R296). Completes: laneLoss, portWidening, linkTimeout, acknowledge. The model's own readings and choices in it: log 49. -/
def Obligations.RetryAndLanes : Prop :=
  ∀ (s : State) (q : Fin 36), s.canonical = true →
    (∀ lane : Fin 4, (s.port q.val).state = .up → (s.port q.val).lanesOk.getLsbD lane.val = true →
      ∃ t, exec (.laneLoss q lane) s = .next t ∧ (t.port q.val).lanesOk = (s.port q.val).lanesOk &&& ~~~(BitVec.ofNat 4 (2 ^ lane.val)) ∧
        (t.port q.val).state = (if (t.port q.val).lanesOk = 0 then .detect else .up) ∧
        ((t.port q.val).lanesOk ≠ 0 → (t.port q.val).width = BitVec.ofNat 2 (min (t.port q.val).ownWidth (capWidth ((s.port q.val).partner.extractLsb' 58 2))) ∧
          (t.port q.val).retry = (s.port q.val).retry + BitVec.ofNat 64 ((s.port q.val).replay.filter (fun r => decide (r.sends < 8))).length) ∧
        s.othersSent t q.val ∧ t.mem = s.mem ∧ t.own = s.own) ∧
    (∀ lanes : BitVec 4, (s.port q.val).state = .up → (s.port q.val).lanesOk ||| lanes ≠ 0 →
      ∃ t, exec (.portWidening q lanes) s = .next t ∧ (t.port q.val).lanesOk = (s.port q.val).lanesOk ||| lanes ∧ (t.port q.val).state = .up ∧
        (t.port q.val).width = BitVec.ofNat 2 (min (t.port q.val).ownWidth (capWidth ((s.port q.val).partner.extractLsb' 58 2))) ∧
        (s.lnk.waiting = [] → (t.port q.val).replay = (s.port q.val).replay) ∧ s.othersSent t q.val ∧ t.mem = s.mem ∧ t.own = s.own) ∧
    ((s.port q.val).state = .up ∨ (s.port q.val).replay ≠ [] →
      let again := (s.port q.val).replay.filter (fun r => decide (r.sends < 8))
      ∃ t, exec (.linkTimeout q) s = .next t ∧ (t.port q.val).state = (if (s.port q.val).state = .up then .detect else (s.port q.val).state) ∧ (t.port q.val).replay = [] ∧
        (t.port q.val).retry = (s.port q.val).retry + BitVec.ofNat 64 again.length ∧ (t.port q.val).downs = (s.port q.val).downs + (if (s.port q.val).state = .up then 1 else 0) ∧
        (∀ r ∈ again, s.node ≠ unassigned → r.node ≠ s.node → t.portsTo r.node = [] → ∃ y ∈ t.lnk.waiting, y.node = r.node ∧ y.packet = r.packet ∧ y.sends = r.sends + 1) ∧
        s.othersSent t q.val ∧ t.mem = s.mem ∧ t.cells = s.cells ∧ t.own = s.own) ∧
    (∀ seq : BitVec 32, ∃ t, exec (.acknowledge q seq ⟨false, true⟩) s = .next t ∧ (t.port q.val).replay = (s.port q.val).replay.filter (fun r => decide (2 ^ 31 ≤ (seq - r.seq).toNat)) ∧
      t.out = s.out ∧ (∀ n, n ≠ q.val → t.port n = s.port n) ∧ t.mem = s.mem ∧ t.own = s.own) ∧
    (∀ (seq : BitVec 32) (r : Replay), (s.port q.val).replay.find? (fun r => r.seq == seq) = some r → r.sends < 8 → s.dieState (24 + q.val / 6) = 0 →
      ∃ t, exec (.acknowledge q seq ⟨true, true⟩) s = .next t ∧ t.out = sentPacket q.val r.packet :: s.out ∧ (t.port q.val).retry = (s.port q.val).retry + 1 ∧
        (t.port q.val).replay = (s.port q.val).replay.map (fun y => if y.seq = seq then { y with sends := y.sends + 1 } else y) ∧ (∀ n, n ≠ q.val → t.port n = s.port n) ∧ t.mem = s.mem ∧ t.own = s.own) ∧
    (∀ (seq : BitVec 32) (r : Replay), (s.port q.val).replay.find? (fun r => r.seq == seq) = some r → 8 ≤ r.sends → exec (.acknowledge q seq ⟨true, true⟩) s = .next s) ∧
    (∀ seq resend, exec (.acknowledge q seq ⟨resend, false⟩) s = .next s)

/-- A barge packet that is damaged is asked for again, and at its eighth failure is a failed hop 5; a sound one is acknowledged, one received already no more than that, and one for another node goes on to it. A late one is dropped and counted; one of an inbound route takes its lay-by slot at the route's home. A barge is sound where its codewords, its CHECK and, at its own module, the fields of hop 5 are right. The forwarding table follows the links it is given, and LNK_NODE changes only while every slot is EMPTY, else event 0x4004. A survey packet counts as received (10:R264 to R266, R268, 11:R294, R295, R298, R307). Completes: bargePacket, forwardingTableUpdate, lnkNodeWrite, surveyPacket. The model's own readings and choices in it: log 44, 45. -/
def Obligations.PacketsAndTables : Prop :=
  (∀ (s : State) (port : Fin 36) (head : BargeHead) (p : Bytes) (tag : BitVec 256) (cw : Codewords), s.canonical = true → s.listens (carriageOf head port cw) →
    let v := carriageOf head port cw
    let h := head.place
    let q := port.val
    let sound := cw.uncorrectable == 0 && s.bargeSound v h p tag
    (sound = false → sget 0 (s.port q).fails v.seq.toNat < 7 →
      ∃ t, exec (.bargePacket port head p tag cw) s = .next t ∧ t.out = sentPacket q (.ack v.seq true) :: s.out ∧
        sget 0 (t.port q).fails v.seq.toNat = sget 0 (s.port q).fails v.seq.toNat + 1 ∧ (t.port q).lastSeq = (s.port q).lastSeq ∧ t.lnk.slots = s.lnk.slots ∧
        t.mem = s.mem ∧ t.cells = s.cells ∧ t.ctx = s.ctx ∧ t.own = s.own) ∧
    (sound = false → 7 ≤ sget 0 (s.port q).fails v.seq.toNat →
      ∃ t, exec (.bargePacket port head p tag cw) s = .next t ∧ sget 0 t.flt.towFail 5 = sget 0 s.flt.towFail 5 + 1 ∧ t.mem = s.mem ∧ t.cells = s.cells ∧ t.own = s.own ∧
        (s.quiet (srcLink (q / 6)) → t.shows (srcLink (q / 6)) 0x5009)) ∧
    (sound = true → (s.port q).has v.seq = true →
      ∃ t, exec (.bargePacket port head p tag cw) s = .next t ∧ t.out = sentPacket q (.ack (s.port q).lastSeq false) :: s.out ∧ t.lnk.slots = s.lnk.slots ∧ t.flt = s.flt ∧ t.mem = s.mem ∧ t.cells = s.cells ∧ t.own = s.own) ∧
    (sound = true → (s.port q).has v.seq = false → v.node.toNat ≠ s.node → exec (.bargePacket port head p tag cw) s = .next ((s.received v).sendNode v.node.toNat (.barge h 0 p tag))) ∧
    (sound = true → (s.port q).has v.seq = false → v.node.toNat = s.node →
      (s.bargeSlot h tag = none → exec (.bargePacket port head p tag cw) s = .next { s.received v with flt := { s.flt with staleLink := s.flt.staleLink + 1 } }) ∧
      (∀ n g hm, h.collective = false → s.bargeSlot h tag = some (n, g) → (s.slot n).home false h.number.toNat = some hm →
        ∃ t, exec (.bargePacket port head p tag cw) s = .next t ∧
          t.linkSlot (slotKey hm.die (hm.slotOf h.index.toNat)) = some ⟨⟨n % 8, Nat.mod_lt _ (by decide)⟩, false, h.number.toNat, h.index.toNat, p, tag, true⟩ ∧
          (∀ k, k ≠ slotKey hm.die (hm.slotOf h.index.toNat) → t.linkSlot k = s.linkSlot k) ∧ t.flt = s.flt ∧ t.mem = s.mem ∧ t.cells = s.cells ∧ t.own = s.own))) ∧
  (∀ (s : State) (links : List FabricLink), ∃ t, exec (.forwardingTableUpdate links) s = .next t ∧ t.lnk.links = links ∧
    t.lnk.paths = State.buildPaths { s with lnk := { s.lnk with links := links } } ∧ (s.lnk.waiting = [] → t.lnk.ports = s.lnk.ports) ∧ t.mem = s.mem ∧ t.cells = s.cells ∧ t.own = s.own) ∧
  (∀ (s : State) (m : Master) (v : Word), s.accepts m 0x200000 →
    ((∀ n, n < 8 → (s.slot n).state = .empty) → ∃ t, exec (.lnkNodeWrite m v) s = .next t ∧ t.lnk.node = v.extractLsb' 0 20 ∧ t.mem = s.mem ∧ t.ctx = s.ctx ∧ t.own = s.own) ∧
    ((∃ n, n < 8 ∧ (s.slot n).state ≠ .empty) → ∃ t, exec (.lnkNodeWrite m v) s = .next t ∧ t.lnk = s.lnk ∧ t.mem = s.mem ∧ t.ctx = s.ctx ∧ t.own = s.own ∧ (s.quiet (srcLink 0) → t.shows (srcLink 0) 0x4004))) ∧
  (∀ (s : State) (via : Carriage) (c : BitVec 32) (pos : BitVec 16) (b : Bytes) (n : Nat) (g : Image) (v : CollView), s.carries via → s.slotOfColl c.toNat = some (n, g) →
    s.collView n g c.toNat = some v → v.kind = 4 → (s.survey n c.toNat).got < v.expected g 0 →
    ∃ t, exec (.surveyPacket via ⟨c, pos⟩ b) s = .next t ∧ (t.survey n c.toNat).got = (s.survey n c.toNat).got + 1 ∧ t.mem = s.mem ∧ t.cells = s.cells ∧ t.ctx = s.ctx ∧ t.own = s.own)

/-- A join goes to a context with the same structure digest and group, which holds the sender's slot and generation from then on; one that fits none is ignored with event 0x4003. A loss notice faults every context of its group, and a member that no path has reached faults the executing context and stands in LNK_LOST. The owner of barges answers a remote read with each of them, for a region once it has closed, and changes nothing of its memory (11:R286, R300, R302, 09:R252). Completes: join, lossNotice, memberLost, remoteReadRequest. The model's own readings and choices in it: log 46, 48. -/
def Obligations.JoinsLossAndRemoteReads : Prop :=
  (∀ (s : State) (via : Carriage) (pos : BitVec 16) (node : BitVec 20) (sl : BitVec 3) (gen : BitVec 8) (dg : Word), s.canonical = true → s.carries via →
    let fits (n : Nat) : Prop := n < 8 ∧ (s.slot n).state ≠ .draining ∧ (s.slot n).structDigest.extractLsb' 0 64 = dg ∧ ∃ g, (s.slot n).image = some g ∧ 1 < g.modules ∧ g.nodeAt pos.toNat = node.toNat
    ((∃ n, fits n) → ∃ t n, exec (.join via pos node ⟨sl, gen⟩ dg) s = .next t ∧ fits n ∧ (t.slot n).joinOf pos.toNat = some ⟨pos.toNat, sl, gen⟩ ∧
      (∀ k, k ≠ n → t.slot k = s.slot k) ∧ t.lnk = (s.received via).lnk ∧ t.mem = s.mem ∧ t.cells = s.cells ∧ t.own = s.own) ∧
    ((¬ ∃ n, fits n) → ∃ t, exec (.join via pos node ⟨sl, gen⟩ dg) s = .next t ∧ t.ctx = s.ctx ∧ t.lnk = (s.received via).lnk ∧ t.mem = s.mem ∧ t.cells = s.cells ∧ t.own = s.own ∧
      (s.quiet (srcLink 0) → t.shows (srcLink 0) 0x4003))) ∧
  (∀ (s : State) (via : Carriage) (node : BitVec 20) (pos : BitVec 16) (step : BitVec 40) (pound : BitVec 20) (n : Nat) (g : Image), s.carries via → n < 8 → (s.slot n).image = some g →
    1 < g.modules → g.nodeAt pos.toNat = node.toNat → ((s.slot n).state = .idle ∨ (s.slot n).state = .active) →
    ∃ t, exec (.lossNotice via node pos ⟨step, pound⟩) s = .next t ∧ (t.slot n).state = .faulted ∧ (t.slot n).image = some g ∧ t.own = s.own ∧ t.fuses = s.fuses) ∧
  (∀ (s : State) (pos : BitVec 16) (n : Nat) (g : Image), s.execImage = some (n, g) → (s.sch.state = .inPound ∨ s.sch.state = .holding) → pos.toNat < g.modules → pos.toNat ≠ s.position n →
    (s.slot n).state = .active →
    ∃ t, exec (.memberLost pos) s = .next t ∧ t.lnk.lostValid = true ∧ t.lnk.lostPosition = pos ∧ t.lnk.lostNode = BitVec.ofNat 20 (g.nodeAt pos.toNat) ∧ (t.slot n).state = .faulted ∧ t.sch.exec = none ∧
      t.own = s.own ∧ (s.quiet (srcLink 0) → t.shows (srcLink 0) 0x4002)) ∧
  (∀ (s : State) (via : Carriage) (n : Fin 8) (route : BitVec 16) (tensor : BitVec 32) (off bytes : Nat) (g : Image) (r : LinkRoute), s.carries via → s.mem.errs = [] →
    (s.slot n.val).image = some g → g.route route.toNat = some r → r.src = s.position n.val →
    ∃ t, exec (.remoteReadRequest via n route tensor ⟨off, bytes⟩) s = .next t ∧ t.mem = s.mem ∧ t.cells = s.cells ∧ t.ctx = s.ctx ∧ t.own = s.own ∧
      (s.regionOpen n.val tensor.toNat = true → t.lnk = { (s.received via).lnk with asked := s.lnk.asked ++ [⟨n.val, route.toNat, tensor.toNat, off, bytes⟩] }) ∧
      (∀ j i b a, s.regionOpen n.val tensor.toNat = false → (s.slot n.val).joinOf r.dst = some j → s.sendsTo (g.nodeAt r.dst) → (g.askedBarges r off bytes)[i]? = some b →
        s.bargeAddr n.val g tensor.toNat b = some a → a % 4096 = 0 →
        ∃ q seq tag, sentPacket q (.barge ⟨false, BitVec.ofNat 32 r.number, BitVec.ofNat 32 i⟩ seq (sread 0 s.mem.bytes a 4096) tag) ∈ t.out ∧ q ∈ s.portsTo (g.nodeAt r.dst)))

/-! ## Weights (12) -/

namespace Sys2Proof.Machine

/-- STATE and REASON of an entry of a handle's shard table (12:Table 12.2). -/
def State.entryState (s : State) (h : Handle) (i : Nat) : Nat := (s.shard (s.handle h) i).state
def State.entryReason (s : State) (h : Handle) (i : Nat) : Nat := bits (s.entry (s.handle h) i) 143 136

end Sys2Proof.Machine

/-- OPEN of a free handle over an acceptable table makes it FILLING with every entry MISSING, and OPEN of a handle that is filling is refused with reason 0x06. FREE frees a handle that no root uses or requests, and refuses another. A write of WLD_ROOT requests an epoch and a base, and changes no current root (12:R315, R316, R320, R323). Completes: openHandle, freeHandle, wldRootWrite. The model's own readings and choices in it: log 81, 83. -/
def Obligations.HandlesOpenAndFree : Prop :=
  (∀ (s : State) (m : Master) (v : Word) (g : Image) (i : Nat), s.canonical = true → s.accepts m 0x80010 →
    let h := cmdHandle v
    let n := cmdSlot v
    let w := s.handle h
    let addr := s.wld.tableAddr.toNat
    let count := s.wld.tableCount.toNat
    let ms := g.weightMemory h
    let epoch0 : Bool := handleNumber h == 0
    let es := (List.range count).map (fun i => shardOf (leNat (s.mem.decodeWord (addr / 64 + i)).1))
    (s.slot n).image = some g →
    (w.state = .filling → ∃ t, exec (.openHandle m v) s = .next t ∧ t.wld.reason = 6 ∧ t.handle h = w ∧ t.mem = s.mem ∧ t.ctx = s.ctx ∧ t.own = s.own) ∧
    (n < 8 → (s.slot n).state ≠ .draining → (s.slot n).state ≠ .loading → addr % 256 = 0 → 1 ≤ count → count ≤ 65536 → validRange addr (64 * count + 16 * ms.length) = true → clearOfDump addr (64 * count + 16 * ms.length) = true →
      w.state = .free → (epoch0 = true → (s.slot n).started = false) → s.inUse h = false → s.requested h = false → ((handleSlot h).isNone = true → g.hasShared = true) →
      es.any (g.shardBad h) = false → s.partitions g ms es = true → (epoch0 = false → (s.allocateAll [] (ms.map (g.tensorItem s.node))).isSome = true) →
      ∃ t, exec (.openHandle m v) s = .next t ∧ t.wld.reason = 0 ∧ (t.handle h).state = .filling ∧ (t.handle h).tableAddr = addr ∧ (t.handle h).count = count ∧
        (i < count → t.entryState h i = 0) ∧ t.cells = s.cells ∧ t.own = s.own)) ∧
  (∀ (s : State) (m : Master) (v : Word), s.canonical = true → s.accepts m 0x80010 → cmdNames v = true →
    let h := cmdHandle v
    (s.inUse h = false → s.requested h = false → (∀ b, h = .base b → s.baseRefs b.val = 0) →
      ∃ t, exec (.freeHandle m v) s = .next t ∧ (t.handle h).state = .free ∧ t.wld.reason = 0 ∧ t.cells = s.cells ∧ t.own = s.own) ∧
    ((s.inUse h = true ∨ s.requested h = true) → ∃ t, exec (.freeHandle m v) s = .next t ∧ t.handle h = s.handle h ∧ t.wld.reason = 6 ∧ t.mem = s.mem ∧ t.own = s.own)) ∧
  (∀ (s : State) (m : Master) (n : Fin 8) (v : Word), s.canonical = true → s.accepts m (0x80100 + n.val * 0x10) →
    ∃ t, exec (.wldRootWrite m n v) s = .next t ∧
      t.slot n.val = { s.slot n.val with epochReq := v.extractLsb' 7 2, baseReq := if 4 ≤ (v.extractLsb' 4 3).toNat then 7 else v.extractLsb' 4 3 } ∧
      (∀ k, k ≠ n.val → t.slot k = s.slot k) ∧ t.wld = s.wld ∧ t.mem = s.mem ∧ t.own = s.own)

/-- A submitted entry that is MISSING or FAILED is ARRIVING with one more send, or fails with reason 5 where no path leads to its peer; the host's bytes are fetched from their address with their length. What the arrival unit writes leaves as sealed barges, which the entry waits for; a host delivery of another length is none, and one whose bytes do not decode fails the entry with reason 3. An entry whose barges have landed is COMPLETE, and with the last one its handle is READY; an entry fails with the reason of its failure, or with reason 2 at its time-out. A peer's request is answered barge by barge, or refused (12:R312, R313, R317, R318, R322). Completes: submit, arrivalUnitWrite, shardComplete, shardTimeout, peerShardRequest. The model's own readings and choices in it: log 81, 82, 83. -/
def Obligations.ShardsArriveAndComplete : Prop :=
  (∀ (s : State) (m : Master) (v : Word) (g : Image), s.canonical = true → s.accepts m 0x80010 → cmdNames v = true →
    let h := cmdHandle v
    let i := (v.extractLsb' 32 32).toNat
    let e := s.shard (s.handle h) i
    s.inUse h = false → (s.handle h).state = .filling → i < (s.handle h).count → s.handleImage h = some g → (e.state = 0 ∨ e.state = 3) →
    ((e.peer = unassigned ∨ s.portsTo e.peer ≠ []) → ∃ t, exec (.submit m v) s = .next t ∧ t.entryState h i = 1 ∧ (t.shard (t.handle h) i).sends = (e.sends + 1) % 2 ^ 16 ∧
      t.wld.reason = 0 ∧ (t.handle h).state = .filling ∧ (e.peer = unassigned → t.out = .hostFetch e.host e.length :: s.out) ∧ t.cells = s.cells ∧ t.own = s.own) ∧
    (e.peer ≠ unassigned → s.portsTo e.peer = [] → ∃ t, exec (.submit m v) s = .next t ∧ t.entryState h i = 3 ∧ t.entryReason h i = 5 ∧ (s.quiet srcArrival → t.shows srcArrival 0x1010) ∧
      t.cells = s.cells ∧ t.own = s.own)) ∧
  (∀ (s : State) (h : Handle) (i : Nat) (b : Bytes) (g : Image) (l : Layout), s.canonical = true → (s.handle h).state = .filling → i < (s.handle h).count → s.entryState h i = 1 →
    s.handleImage h = some g → g.lay (s.shard (s.handle h) i).tensor = some l →
    let e := s.shard (s.handle h) i
    let es := shardPlaces l e.first e.count
    let taken := e.peer = unassigned → b.length = e.length
    (¬taken → exec (.arrivalUnitWrite h i b) s = .next s) ∧
    (taken → e.coding = 3 → b.length ≠ 4128 * e.count → ∃ t, exec (.arrivalUnitWrite h i b) s = .next t ∧ t.entryState h i = 3 ∧ t.entryReason h i = 3 ∧ t.flight.barges = s.flight.barges ∧ t.own = s.own) ∧
    (taken → e.coding = 3 → b.length = 4128 * e.count → ∃ t lb, exec (.arrivalUnitWrite h i b) s = .next t ∧ t.flight.barges = s.flight.barges ++ lb ∧ (∀ y ∈ lb, tagOk y.payload y.tag = true ∧ tagSource y.tag = sourceHost ∧ y.load = some (h, i)) ∧
      ((t.entryState h i = 1 ∧ i ∈ (t.handle h).arrived ∧ lb.length = e.count) ∨ (t.entryState h i = 3 ∧ (t.entryReason h i = 1 ∨ t.entryReason h i = 4))) ∧ t.cells = s.cells ∧ t.own = s.own) ∧
    (taken → e.coding ≠ 3 → decodeShard e.coding (if e.srcfmt = 0x10 then 2 else 4) es.length b = none →
      ∃ t, exec (.arrivalUnitWrite h i b) s = .next t ∧ t.entryState h i = 3 ∧ t.entryReason h i = 3 ∧ t.flight.barges = s.flight.barges ∧ t.own = s.own) ∧
    (∀ raw, taken → e.coding ≠ 3 → decodeShard e.coding (if e.srcfmt = 0x10 then 2 else 4) es.length b = some raw →
      ∃ t lb, exec (.arrivalUnitWrite h i b) s = .next t ∧ t.entryState h i = 1 ∧ i ∈ (t.handle h).arrived ∧ t.flight.barges = s.flight.barges ++ lb ∧
        (∀ y ∈ lb, tagOk y.payload y.tag = true ∧ tagSource y.tag = sourceHost ∧ y.load = some (h, i)) ∧ t.cells = s.cells ∧ t.own = s.own)) ∧
  (∀ (s : State) (h : Handle) (i : Nat) (g : Image), s.canonical = true → (s.handle h).state = .filling → i < (s.handle h).count → s.entryState h i = 1 → s.handleImage h = some g →
    (i ∈ (s.handle h).arrived → s.entryInFlight h i = false →
      ∃ t, exec (.shardComplete h i none) s = .next t ∧ t.entryState h i = 2 ∧
        (t.handle h).state = (if (List.range (s.handle h).count).all (fun j => j == i || s.entryState h j == 2) then .ready else .filling) ∧ t.cells = s.cells ∧ t.own = s.own) ∧
    (∀ f : Fin 6, ∃ t, exec (.shardComplete h i (some f)) s = .next t ∧ t.entryState h i = 3 ∧ t.entryReason h i = f.val + 1 ∧ (s.quiet srcArrival → t.shows srcArrival 0x1010) ∧ t.cells = s.cells ∧ t.own = s.own) ∧
    (∃ t, exec (.shardTimeout h i) s = .next t ∧ t.entryState h i = 3 ∧ t.entryReason h i = 2 ∧ (s.quiet srcArrival → t.shows srcArrival 0x1010) ∧ t.cells = s.cells ∧ t.own = s.own)) ∧
  (∀ (s : State) (via : Carriage) (r : ShardRequest), s.carries via → s.sendsTo r.node.toNat →
    (s.serveAddrs r = none → ∃ t q, exec (.peerShardRequest ⟨via, r⟩) s = .next t ∧ t.out = sentPacket q (.shardRefused r) :: (s.received via).out ∧ t.mem = s.mem ∧ t.cells = s.cells ∧ t.ctx = s.ctx ∧ t.own = s.own) ∧
    (∀ as, s.serveAddrs r = some as → s.mem.errs = [] → ∃ t, exec (.peerShardRequest ⟨via, r⟩) s = .next t ∧ t.mem = s.mem ∧ t.cells = s.cells ∧ t.ctx = s.ctx ∧ t.own = s.own ∧
      ∀ a ∈ as, a % 4096 = 0 → ∃ q, sentPacket q (.shardBarge (sread 0 s.mem.bytes a 4096) (s.mem.bargeTag a)) ∈ t.out))

/-! ## Resets (13) -/

/-- A level-1 reset of a cell takes its sample, faults the ACTIVE contexts bound to it, and leaves it held with an empty scratchpad (a shadow that served a faulted context is cleared too), its role, its counters and its snag list kept; a level-2 reset clears every cell of a compute die, keeps or loses a stack's contents, and takes a link die's ports back to DETECT; a die whose rail is off is out of service, its sensor's reading invalid (13:R343 to R347, R349, Table 13.5, 16:R422). Completes: cellReset, sampleTimeout, dieReset, railOff. The model's own readings and choices in it: log 85, 87, 92. -/
def Obligations.CellAndDieResets : Prop :=
  (∀ (s : State) (d : Fin 16) (c : Fin 68), s.canonical = true → s.dieState d.val = 0 →
    (s.findReset 1 d.val c.val = none → ∃ t, exec (.cellReset d c) s = .next t ∧ t.cell (cellKey d.val c.val) = (s.cell (cellKey d.val c.val)).level1 ∧
      t.flt.resets = s.flt.resets ++ [⟨1, d.val, c.val, false, true, [], []⟩] ∧ (∀ j, j ≠ cellKey d.val c.val → ((s.cell j).shadowOf = none → (t.cell j).spad = (s.cell j).spad) ∧ (t.cell j).role = (s.cell j).role) ∧
      (∀ n, n < 8 → (s.slot n).state = .active → (s.slot n).place.bindings.any (fun b => cellKey b.die b.cell == cellKey d.val c.val) = true → (t.slot n).state = .faulted) ∧
      (s.quiet srcFault → t.shows srcFault 0x5010) ∧ t.own = s.own ∧ t.fuses = s.fuses) ∧
    (∀ j, s.findReset 1 d.val c.val = some j → j.asserted = false → ∃ t, exec (.cellReset d c) s = .next t ∧ t.cell (cellKey d.val c.val) = (s.cell (cellKey d.val c.val)).level1 ∧
      (∀ n, n ≠ cellKey d.val c.val → t.cell n = s.cell n) ∧ t.ctx = s.ctx ∧ t.own = s.own) ∧
    (∀ j stop, s.findReset 1 d.val c.val = some j → j.asserted = false → ∃ t, exec (.sampleTimeout d c stop) s = .next t ∧ t.cell (cellKey d.val c.val) = (s.cell (cellKey d.val c.val)).level1 ∧
      t.flt.resets.length = s.flt.resets.length ∧ (∀ n, n ≠ cellKey d.val c.val → t.cell n = s.cell n) ∧ t.ctx = s.ctx ∧ t.own = s.own)) ∧
  -- a sample of a die's reset that its 200 µs cut short leaves the later ones their turn; the 5 ms of them all end it
  (∀ (s : State) (d : Fin 16) (c : Fin 68) (stop : SampleEnd) (j : ResetJob), s.canonical = true → s.findReset 1 d.val c.val = none → s.findReset 2 d.val 0 = some j → j.asserted = false →
    (stop.dieLimit = false → exec (.sampleTimeout d c stop) s = .next (s.modReset2 d.val (fun y =>
      { y with cuts := y.cuts.filter (fun z => z.1 != cellKey d.val c.val) ++ [(cellKey d.val c.val, min stop.pages 63)] }))) ∧
    (stop.dieLimit = true → s.dieState d.val = 1 → s.running = true → ∃ t, exec (.sampleTimeout d c stop) s = .next t ∧ t.dieState d.val = 1 ∧ t.ctx = s.ctx ∧ t.own = s.own ∧
      t.flt.resets.length = s.flt.resets.length ∧ (∀ i, i < 68 → t.cell (cellKey d.val i) = (s.cell (cellKey d.val i)).level2) ∧ (∀ k, k / 68 ≠ d.val → t.cell k = s.cell k))) ∧
  (∀ (s : State) (d : Fin 32) (found : BaseDieFindings), s.canonical = true → s.running = true → d.val < 30 → s.dieState d.val = 0 → s.findReset 2 d.val 0 = none →
    let sr := found.selfRefresh
    ∃ t, exec (.dieReset d found) s = .next t ∧ t.dieState d.val = 1 ∧ t.flt.resets = s.flt.resets ++ [⟨2, d.val, 0, false, true, [], found.lanes.map (fun x => (x.1.val, x.2))⟩] ∧ t.own = s.own ∧ t.fuses = s.fuses ∧
      (∀ e, e < 30 → e ≠ d.val → t.dieState e = s.dieState e) ∧ (s.quiet srcFault → t.shows srcFault 0x5010) ∧
      (d.val < 16 → ∀ c, c < 68 → t.cell (cellKey d.val c) = (s.cell (cellKey d.val c)).level2) ∧
      (16 ≤ d.val → d.val < 24 → (∀ n, n < 8 → (s.slot n).state ≠ .active) → (t.stack (d.val - 16)).trained = false ∧ (t.stack (d.val - 16)).selfRefresh = sr ∧ (t.stack (d.val - 16)).queue = [] ∧
        (sr = true → t.mem = s.mem) ∧ (sr = false → ∀ a, sget 0 t.mem.bytes a = if stackOf a = d.val - 16 then 0 else sget 0 s.mem.bytes a)) ∧
      (24 ≤ d.val → ∀ i, i < 6 → (t.port ((d.val - 24) * 6 + i)).state = (if (s.port ((d.val - 24) * 6 + i)).ctlEnable then .detect else .disabled) ∧ (t.port ((d.val - 24) * 6 + i)).replay = [])) ∧
  (∀ (s : State) (d : Fin 32), s.canonical = true → d.val < 30 → s.dieState d.val ≠ 2 → s.running = true →
    ∃ t, exec (.railOff d) s = .next t ∧ t.dieState d.val = 2 ∧ t.own = s.own ∧ t.fuses = s.fuses ∧ (s.quiet srcFault → t.shows srcFault 0x5010) ∧
      (d.val < 16 → ∀ c, c < 68 → (t.cell (cellKey d.val c)).role = .out ∧ (t.cell (cellKey d.val c)).spad = []) ∧
      (16 ≤ d.val → d.val < 24 → (t.stack (d.val - 16)).inService = false ∧ (t.stack (d.val - 16)).dump = false) ∧
      (24 ≤ d.val → ∀ i, i < 6 → (t.port ((d.val - 24) * 6 + i)).state = .disabled) ∧ (t.sensor d.val).valid = false)

/-- The main input allows the main rails again after a power cut (16:R419, R425). -/
def Sys2Proof.Machine.State.comesBack (s : State) : Prop :=
  s.ao.aoPower = true ∧ s.ao.cmpActive.getLsbD 0 = false ∧ (s.ao.tripLatched = false ∨ s.ao.inputFell = true)

/-- The oldest reset in progress completes: a cell leaves reset unless it is out of service, one that returns to service is a spare again, and a die runs. One that passes its timeout escalates: a cell to its die, a die to its rail, a rail to the module, the module to a power cut, after which the rails come back where the main input allows it (13:R335, R343, R344, 16:R419). A base die's training takes in the failed lanes found (09:R247). Completes: resetComplete, resetTimeout, cellReturn, logClear. The model's own readings and choices in it: log 85, 94. -/
def Obligations.ResetsCompleteOrEscalate : Prop :=
  (∀ (s : State) (j : ResetJob) (rest : List ResetJob), s.canonical = true → s.flt.resets = j :: rest → j.die < 30 → j.asserted = true →
    ∃ t, exec .resetComplete s = .next t ∧ t.flt.resets = rest ∧ t.flt.result = 0 ∧ (s.quiet srcFault → t.shows srcFault 0x5011) ∧ t.mem = s.mem ∧ t.ctx = s.ctx ∧ t.own = s.own ∧
      (j.level = 1 → j.returning = false → s.ao.oos.contains (cellKey j.die j.cell) = false → s.dieState (cellKey j.die j.cell / 68) = 0 →
        t.cell (cellKey j.die j.cell) = { s.cell (cellKey j.die j.cell) with inReset := false }) ∧
      (j.level = 1 → j.returning = false → (s.ao.oos.contains (cellKey j.die j.cell) = true ∨ s.dieState (cellKey j.die j.cell / 68) ≠ 0) → t.cells = s.cells) ∧
      (j.level = 1 → j.returning = true → (t.cell (cellKey j.die j.cell)).role = .spare ∧ (t.cell (cellKey j.die j.cell)).inReset = false ∧ t.ao.oos.contains (cellKey j.die j.cell) = false) ∧
      (j.level = 2 → s.dieState j.die = 1 → s.running = true → t.dieState j.die = 0 ∧
        (16 ≤ j.die → j.die < 24 → (t.stack (j.die - 16)).trained = true ∧
          ∀ c, c < 32 → (j.lanes.filter (fun x => x.1 == c)).length ≤ 1 → sget 0 t.ao.repairs ((j.die - 16) * 32 + c) = sget 0 s.ao.repairs ((j.die - 16) * 32 + c) + ((j.lanes.find? (fun x => x.1 == c)).map (·.2)).getD 0))) ∧
  (∀ (s : State) (j : ResetJob) (rest : List ResetJob), s.flt.resets = j :: rest → j.die < 30 → s.ao.railsOn = true →
    ∃ t, exec .resetTimeout s = .next t ∧ t.fuses = s.fuses ∧
      (j.level = 1 → t.dieState j.die = (if s.dieState j.die < 2 then 1 else s.dieState j.die) ∧ t.flt.resets = rest ++ [⟨2, j.die, 0, false, false, [], []⟩] ∧ t.flt.result = 1 ∧ (s.quiet srcFault → t.shows srcFault 0x5012)) ∧
      (j.level = 2 → t.dieState j.die = 2 ∧ t.flt.result = 1 ∧ (s.quiet srcFault → t.shows srcFault 0x5012)) ∧
      (j.level = 3 → t.sec.boot = .rom ∧ t.ao.resetKind = 1 ∧ t.ao.resetCause = 2 ∧ t.ctx = .reset) ∧
      (j.level = 4 → t.sec.boot = .rom ∧ t.ctx = .reset ∧ t.mem = ⟨[], [], []⟩ ∧ (s.comesBack → t.ao.railsOn = true ∧ t.ao.resetKind = 2) ∧ (¬ s.comesBack → t.ao.railsOn = false))) ∧
  (∀ (s : State) (m : Master) (d : Fin 16) (c : BitVec 7), s.accepts m 0x90028 → s.dieState d.val = 0 → c.toNat < 68 →
    (s.ao.oos.contains (cellKey d.val c.toNat) = true → ∃ t, exec (.cellReturn m d c) s = .next t ∧ t.flt.resets = s.flt.resets ++ [⟨1, d.val, c.toNat, true, false, [], []⟩] ∧
      (t.cell (cellKey d.val c.toNat)).role = (s.cell (cellKey d.val c.toNat)).role ∧ t.mem = s.mem ∧ t.ctx = s.ctx ∧ t.own = s.own ∧ (s.quiet srcFault → t.shows srcFault 0x5010)) ∧
    (s.ao.oos.contains (cellKey d.val c.toNat) = false → exec (.cellReturn m d c) s = .next (s.answerWrite m 0))) ∧
  (∀ (s : State) (m : Master), s.accepts m 0x90068 → exec (.logClear m) s = .next (State.answerWrite { s with ao := { s.ao with log := [], logNext := 1 } } m 0))

/-- A warm reset empties every slot, ends ownership, zeroes the scratchpads and starts the boot ROM; device memory, the fuses, the generations of the slots, the marks of cells out of service, the retired frames and the counters of the cells stay. The watchdog, a host die that stops answering and an uncorrectable internal error start one, with their cause; the watchdog is paused in A3, and the ROM keeps it restarted in WAIT and FAILED. A boot ROM that does not start after a warm reset ends in a power cut, and a power-on reset leaves of the main domains nothing but the fuses; the error log takes the start of each (13:R348, R352, R353, Tables 13.3, 13.10, 15:R388, 16:R413). Completes: warmReset, watchdogExpiry, heartbeatLoss, uncorrectableInternalError, bootStartTimeout, powerOnReset. The model's own readings and choices in it: log 88, 89, 90. -/
def Obligations.WarmAndPowerOnResets : Prop :=
  (∀ (s : State) (c : BitVec 8) (hostDie : Bool), s.canonical = true → s.ao.railsOn = true →
    let ok (t : State) (cause : BitVec 8) : Prop := t.ctx = .reset ∧ t.own.owner = none ∧ t.own.epoch = (if s.own.owner = none then s.own.epoch else s.own.epoch + 1) ∧ t.sec.boot = .rom ∧
      t.mem = s.mem ∧ t.fuses = s.fuses ∧ t.ao.gens = s.ao.gens ∧ t.ao.oos = s.ao.oos ∧ t.ao.retired = s.ao.retired ∧ t.ao.resetKind = 1 ∧ t.ao.resetCause = cause ∧
      (∀ k, t.cell k = (s.cell k).kept) ∧ (∀ k, (t.cell k).spad = []) ∧ t.flight = .none ∧ t.flt.plankDrops = s.flt.plankDrops + BitVec.ofNat 64 (s.flight.size + (s.cells.map (fun y => y.2.reading)).sum) ∧ t.pwr.state = .a0 ∧
      t.sch.tick = s.sch.tick ∧ t.lnk.node = s.lnk.node ∧ t.wld = .reset ∧ t.evt.pend = [] ∧
      -- what a warm reset keeps of the configuration (RWS)
      t.own.allowHost = s.own.allowHost ∧ t.own.allowPeer = s.own.allowPeer ∧ t.own.peerNode = s.own.peerNode ∧ t.own.pcieReset = s.own.pcieReset ∧ t.flt.wdtMs = s.flt.wdtMs ∧
      t.pwr.aoCmp = s.pwr.aoCmp ∧ t.pwr.cmpEn = s.pwr.cmpEn ∧ t.pwr.inletLim = s.pwr.inletLim ∧ t.pwr.outletLim = s.pwr.outletLim ∧
      t.evt.sbEnable = s.evt.sbEnable ∧ t.evt.sbActiveLow = s.evt.sbActiveLow ∧ t.evt.wakeEn = s.evt.wakeEn
    (∃ t, exec (.warmReset c) s = .next t ∧ ok t c ∧ (c ≠ 5 → t.flt.resets = [⟨4, 0, 0, false, true, [], []⟩]) ∧ (c = 5 → t.flt.resets = []) ∧
      -- the error log takes the start of the reset and, from another state than A0, the change of the power state
      t.ao.logCount = s.ao.logCount + (if s.pwr.state = .a0 then 1 else 2)) ∧
    (s.pwr.state ≠ .a3 → s.sec.boot ≠ .wait → s.sec.boot ≠ .failed → ∃ t, exec .watchdogExpiry s = .next t ∧ ok t 1 ∧ t.flt.die = 30) ∧
    (s.pwr.state = .a3 ∨ s.sec.boot = .wait ∨ s.sec.boot = .failed → exec .watchdogExpiry s = .next s) ∧
    (s.pwr.state ≠ .a3 → ∃ t, exec .heartbeatLoss s = .next t ∧ ok t 3 ∧ t.flt.die = 31) ∧
    (∃ t, exec (.uncorrectableInternalError hostDie) s = .next t ∧ ok t 3 ∧ t.flt.die = (if hostDie then 31 else 30))) ∧
  (∀ (s : State),
    let ok (t : State) : Prop := t.ctx = .reset ∧ t.own = .reset ∧ t.sec.boot = .rom ∧ t.mem = ⟨[], [], []⟩ ∧ t.cells = [] ∧ t.stks = [] ∧ t.lnk = .reset ∧ t.flt = .reset ∧ t.fuses = s.fuses ∧
      t.ao.gens = s.ao.gens ∧ t.ao.oos = s.ao.oos ∧ t.ao.retired = s.ao.retired ∧ t.ao.railsOn = true ∧ t.pwr = .reset
    (s.ao.railsOn = true → s.sec.boot = .rom → s.ao.resetKind = 1 → ¬ s.comesBack → ∃ t, exec .bootStartTimeout s = .next t ∧ t.ao.railsOn = false ∧ t.ctx = .reset ∧ t.own = .reset ∧
      t.mem = ⟨[], [], []⟩ ∧ t.cells = [] ∧ t.fuses = s.fuses) ∧
    (s.ao.railsOn = true → s.sec.boot = .rom → s.ao.resetKind = 1 → s.comesBack → ∃ t, exec .bootStartTimeout s = .next t ∧ ok t ∧ t.ao.resetKind = 2 ∧ t.ao.resetCause = s.ao.resetCause ∧
      t.ao.time = s.ao.time + 1000000000) ∧
    (s.sec.boot ≠ .rom → exec .bootStartTimeout s = .next s) ∧
    (s.mayPower = true → ∃ t, exec .powerOnReset s = .next t ∧ ok t ∧ t.ao.resetKind = 3 ∧ t.ao.resetCause = 6 ∧ t.ao.logCount = s.ao.logCount + 1 ∧ t.out = .mainGood true :: s.out) ∧
    (s.mayPower = false → exec .powerOnReset s = .next s))

/-! ## Registers and device memory from outside (14) -/

/-- A register write of the owner changes its register and answers as done; one of another master is dropped and counted; an access of a wrong size or alignment is bad, counts, and changes nothing else. A write of half a register leaves a field that reaches beyond the half as it was. OWN_POLICY, the event masks, EVT_SB_CFG, PWR_CMP_CFG and FLT_WDT_PERIOD take each their fields and leave the reserved bits; comparators 0 and 1 stay enabled. FLT_RESET_CMD starts the reset of its level, and answers a level or a die that is not named with RESULT 2 alone. A read answers with the register's value, all of it or the four bytes of a half, and changes nothing but what it latches: the step counters for NUM_STEP_ID, the AO time for SCH_TICK. In D3hot an access of the PCIe host does nothing (14:R357, R358, R360, R363, Tables 14.9, 13.8, 03:R89, 07:R204). Completes: registerWrite, vendorRegisterWrite, bar0BadAccess, registerRead, schTickRead, numStepIdRead. The model's own readings and choices in it: log 12, 25, 52, 86, 118. -/
def Obligations.RegisterAccess : Prop :=
  (∀ (s : State) (m : Master) (off : Nat) (d : RegData), s.reaches m = true → s.own.owner = some m → s.running = true →
    off ∈ [0x20008, 0x30008, 0x30010, 0x30020, 0x60000, 0x60008, 0x60010, 0x60018, 0x80000, 0x80008, 0x80020, 0xA0800] →
    (∃ t, exec (.registerWrite m off true d) s = .next t ∧ t.regValue m off = d.value.toNat ∧ t.mem = s.mem ∧ t.cells = s.cells ∧ t.lnk = s.lnk ∧ t.own = s.own ∧ t.ctx.slots = s.ctx.slots ∧ t.sch = s.sch) ∧
    (∃ t, exec (.vendorRegisterWrite m off d) s = .next t ∧ t.regValue m off = d.value.toNat ∧ t.mem = s.mem ∧ t.cells = s.cells ∧ t.lnk = s.lnk ∧ t.own = s.own ∧ t.ctx.slots = s.ctx.slots ∧ t.sch = s.sch) ∧
    (m = .host → exec (.registerWrite m (off + 4) false d) s = .next s)) ∧
  (∀ (s : State) (m : Master) (d : RegData), s.reaches m = true → s.own.owner = some m →
    let v := d.value
    exec (.registerWrite m 0x10010 true d) s = .next (State.answerWrite { s with own := { s.own with
      peerNode := v.extractLsb' 44 20, pcieReset := v.getLsbD 2, allowPeer := v.getLsbD 1, allowHost := v.getLsbD 0 } } m 0) ∧
    (∀ k : Fin 8, ∃ t, exec (.registerWrite m (0x20140 + 8 * k.val) true d) s = .next t ∧
      (∀ i, i < 512 → t.evt.mask.getLsbD i = if i / 64 = k.val then v.getLsbD (i % 64) else s.evt.mask.getLsbD i) ∧ t.evt = { s.evt with mask := t.evt.mask } ∧ t.own = s.own ∧ t.mem = s.mem ∧ t.ctx = s.ctx ∧ t.cells = s.cells) ∧
    exec (.registerWrite m 0x20040 true d) s = .next (State.answerWrite { s with evt := { s.evt with sbEnable := v.extractLsb' 16 16, sbActiveLow := v.extractLsb' 0 16 } } m 0) ∧
    exec (.registerWrite m 0x30028 true d) s = .next (State.answerWrite { s with pwr := { s.pwr with
      outletLim := v.extractLsb' 24 8, inletLim := v.extractLsb' 16 8, cmpEn := v.extractLsb' 0 8 ||| 3 } } m 0) ∧
    exec (.registerWrite m 0x90020 true d) s = .next (State.answerWrite { s with flt := { s.flt with wdtMs := v.extractLsb' 0 32 } } m 0) ∧
    (∀ off, m ≠ .host → exec (.vendorRegisterWrite m off d) s = exec (.registerWrite m off true d) s)) ∧
  (∀ (s : State) (m : Master) (d : RegData), s.canonical = true → s.reaches m = true → s.own.owner = some m →
    let level := (d.value.extractLsb' 0 3).toNat
    let die := (d.value.extractLsb' 3 5).toNat
    let cell := (d.value.extractLsb' 8 7).toNat
    let starts (t : State) : Prop := exec (.registerWrite m 0x90008 true d) s = .next t ∧ t.fuses = s.fuses ∧ (level ≠ 4 → t.own = s.own ∧ (s.quiet srcFault → t.shows srcFault 0x5010))
    ((level = 0 ∨ 5 ≤ level ∨ (level = 1 ∧ (16 ≤ die ∨ 68 ≤ cell)) ∨ ((level = 2 ∨ level = 3) ∧ 30 ≤ die)) →
      exec (.registerWrite m 0x90008 true d) s = .next (State.answerWrite { s with flt := { s.flt with result := 2 } } m 0)) ∧
    (level = 1 → die < 16 → cell < 68 → ∃ t, starts t ∧ (t.cell (cellKey die cell)).inReset = true ∧ t.flt.resets = s.flt.resets ++ [⟨1, die, cell, false, false, [], []⟩]) ∧
    (level = 2 → die < 30 → ∃ t, starts t ∧ t.dieState die = (if s.dieState die < 2 then 1 else s.dieState die) ∧ t.flt.resets = s.flt.resets ++ [⟨2, die, 0, false, false, [], []⟩]) ∧
    (level = 3 → die < 30 → ∃ t, starts t ∧ t.dieState die = 2) ∧
    (level = 4 → ∃ t, starts t ∧ t.sec.boot = .rom ∧ t.ao.resetKind = 1 ∧ t.ao.resetCause = 4 ∧ t.flt.resets = [⟨4, die, 0, false, true, [], []⟩])) ∧
  (∀ (s : State) (m : Master) (off : Nat) (d : RegData), s.reaches m = true → off % 8 = 0 → off < 0x4000000 → s.own.owner ≠ some m → isMessage off = false →
    exec (.registerWrite m off true d) s = .next ((s.drop m 0 off).answerWrite m 1) ∧ exec (.vendorRegisterWrite m off d) s = .next ((s.drop m 0 off).answerWrite m 1)) ∧
  (∀ (s : State) (m : Master) (off : Nat) (d : RegData), s.reaches m = true → off % 8 ≠ 0 → exec (.vendorRegisterWrite m off d) s = .next ((s.bad m 0 off).answerWrite m 2)) ∧
  (∀ (s : State) (m : Master) (off : Nat), s.reaches m = true →
    exec (.bar0BadAccess m off true) s = .next ((s.bad m 0 off).answerWrite m 2) ∧
    (∃ t o, exec (.bar0BadAccess m off false) s = .next t ∧ t = { (s.bad m 0 off) with out := o :: s.out } ∧ t.glb.badAccess = s.glb.badAccess + 1 ∧
      o = (match m with | .host => .completion false (List.replicate 8 0xFF) | _ => .answer m 2 false []))) ∧
  (∀ (s : State) (m : Master) (off : Nat), s.reaches m = true → off % 8 = 0 → off < 0x4000000 →
    let o (x : Nat) : Output := match m with | .host => .completion false (leBytes 8 x) | _ => .answer m 0 false (leBytes 8 x)
    (off ≠ 0x70008 → (off < 0xA0000 ∨ 0xA0800 ≤ off ∨ off % 0x100 ≠ 0x40) →
      exec (.registerRead m ⟨off, true⟩) s = .next { s with out := o (if s.answers off then s.regValue m off else 0) :: s.out } ∧
      (∀ h, h < 2 → m = .host → exec (.registerRead m ⟨off + 4 * h, false⟩) s =
        .next { s with out := .completion false (leBytes 4 ((if s.answers off then s.regValue m off else 0) / 2 ^ (32 * h))) :: s.out })) ∧
    (s.running = true → ∃ t, exec (.schTickRead m) s = .next t ∧ t.out = o (s.sch.tick.toNat) :: s.out ∧
      (match m with | .host => t.sch.tickAoHost | .mc => t.sch.tickAoMc | .peer _ => t.sch.tickAoPeer) = s.ao.time ∧ t.sch.tick = s.sch.tick ∧ t.mem = s.mem ∧ t.ctx = s.ctx ∧ t.own = s.own) ∧
    (∀ n : Fin 8, s.running = true → ∃ t, exec (.numStepIdRead m n) s = .next t ∧ t.out = o (s.regValue m (numOffset n.val)) :: s.out ∧
      sget none t.num.copies (8 * copyIndex m + n.val) = some (s.numSlot n.val).last ∧ t.num.slots = s.num.slots ∧ t.mem = s.mem ∧ t.ctx = s.ctx ∧ t.own = s.own)) ∧
  (∀ (s : State) (a : RegRead) (off : Nat) (wide : Bool) (d : RegData), s.glb.d3 = true →
    exec (.registerRead .host a) s = .next s ∧ exec (.registerWrite .host off wide d) s = .next s ∧ exec (.bar0BadAccess .host off wide) s = .next s ∧ exec (.schTickRead .host) s = .next s)

/-- A read of device memory answers with its bytes and changes nothing; one outside it, or of a wrong length, is a bad access. A write of the owner stores whole words at once under their old tags, and a piece of a word waits for its read-modify-write, which changes its bytes alone and stores nothing into a word that cannot be read. A write of another master is dropped. The host writes the function's configuration space beside an access of its window: the window's size, 1 GiB up to 1 TiB, D0 or D3hot, in which the window is not decoded, and the MSI-X message control. MCTP control messages and PLDM requests are answered, and ENTDAA gives the management controller's bus its dynamic address (14:R357, R359, R360, R363, R364, Table 14.2, 09:R236, 10:R270). Completes: memoryRead, memoryWrite, bar2Access, hostReadModifyWrite, mctpControlMessage, pldmRequest. The model's own readings and choices in it: log 8, 24, 25, 117. -/
def Obligations.MemoryAndMessages : Prop :=
  (∀ (s : State) (m : Master) (a : Word) (n : Nat), s.reachable = true →
    let o (d : Bytes) : Output := match m with | .host => .completion false d | _ => .answer m 0 false d
    (1 ≤ n → n ≤ 1024 → s.memoryOk a.toNat n = true → s.mem.errs = [] → exec (.memoryRead m a n) s = .next { s with out := o (sread 0 s.mem.bytes a.toNat n) :: s.out }) ∧
    ((n = 0 ∨ 1024 < n ∨ s.memoryOk a.toNat n = false) → ∃ t, exec (.memoryRead m a n) s = .next t ∧ t.glb = { s.glb with badAccess := s.glb.badAccess + 1, badLast := t.glb.badLast } ∧ t.mem = s.mem ∧ t.own = s.own)) ∧
  (∀ (s : State) (off n : Nat), s.reaches .host = true → off + n ≤ s.glb.bar2Size → 1 ≤ n → s.mem.errs = [] → s.memoryOk (s.glb.bar2Base.toNat + off) n = true →
    exec (.bar2Access .host ⟨off, n⟩ none none) s = .next { s with out := .completion false (sread 0 s.mem.bytes (s.glb.bar2Base.toNat + off) n) :: s.out }) ∧
  (∀ (s : State) (r : ByteRange) (d : Option Bytes) (w : ConfigWrite), s.reachable = true →
    exec (.bar2Access .host r d (some w)) s = exec (.bar2Access .host r d none) (s.configure .host (some w)) ∧
    (s.glb.d3 = true → exec (.bar2Access .host r d none) s = .next s) ∧
    (∃ t, exec (.bar2Access .host ⟨0, 0⟩ none (some w)) s = .next t ∧ t.own = s.own ∧ t.ctx = s.ctx ∧ t.cells = s.cells ∧ t.mem = s.mem ∧
      (∀ k, w = .resizeBar2 k → t.glb.bar2Size = 2 ^ (30 + k.val)) ∧ (∀ b, w = .powerState b → t.glb.d3 = b) ∧ (∀ e f, w = .msixControl e f → t.glb.msixEnable = e ∧ t.glb.msixMask = f))) ∧
  (∀ (s : State) (m : Master) (a : Word) (d : Bytes) (j : Nat), s.canonical = true → s.reachable = true → 1 ≤ d.length → d.length ≤ 1024 → s.memoryOk a.toNat d.length = true →
    (s.own.owner ≠ some m → exec (.memoryWrite m a d) s = .next ((s.drop m 1 a.toNat).answerWrite m 1)) ∧
    (s.own.owner = some m → a.toNat % 64 = 0 → d.length % 64 = 0 → ∃ t, exec (.memoryWrite m a d) s = .next t ∧ (j < d.length → sget 0 t.mem.bytes (a.toNat + j) = d.getD j 0) ∧
      ((j < a.toNat ∨ a.toNat + d.length ≤ j) → sget 0 t.mem.bytes j = sget 0 s.mem.bytes j) ∧ t.mem.tags = s.mem.tags ∧ t.flight.subs = s.flight.subs ∧ t.ctx = s.ctx ∧ t.cells = s.cells ∧ t.own = s.own) ∧
    (s.own.owner = some m → a.toNat % 64 + d.length < 64 → ∃ t, exec (.memoryWrite m a d) s = .next t ∧ t.mem = s.mem ∧ t.flight = { s.flight with subs := s.flight.subs ++ [⟨a.toNat, d⟩] } ∧
      t.ctx = s.ctx ∧ t.cells = s.cells ∧ t.own = s.own) ∧
    (s.own.owner = some .host → s.glb.d3 = false → ∀ off, a.toNat = s.glb.bar2Base.toNat + off → off + d.length ≤ s.glb.bar2Size → exec (.bar2Access .host ⟨off, d.length⟩ (some d) none) s = exec (.memoryWrite .host a d) s)) ∧
  (∀ (s : State) (i j : Nat) (x : SubWrite), s.canonical = true → s.flight.subs[i]? = some x → x.addr % 64 + x.data.length ≤ 64 →
    (sget none s.mem.errs (x.addr / 64) = none → ∃ t, exec (.hostReadModifyWrite i) s = .next t ∧ (j < x.data.length → sget 0 t.mem.bytes (x.addr + j) = x.data.getD j 0) ∧
      ((j < x.addr ∨ x.addr + x.data.length ≤ j) → sget 0 t.mem.bytes j = sget 0 s.mem.bytes j) ∧ t.mem.tags = s.mem.tags ∧ t.flight.subs = s.flight.subs.eraseIdx i ∧ t.ctx = s.ctx ∧ t.cells = s.cells ∧ t.own = s.own) ∧
    (∀ sd, sget none s.mem.errs (x.addr / 64) = some (.noCodeword sd) → ∃ t, exec (.hostReadModifyWrite i) s = .next t ∧ t.mem = s.mem ∧ t.flight.subs = s.flight.subs.eraseIdx i ∧
      (t.stack (stackOf (x.addr / 64 * 64))).ue = (s.stack (stackOf (x.addr / 64 * 64))).ue + 1)) ∧
  (∀ (s : State), s.reachable = true →
    (∀ e, ∃ t d, exec (.mctpControlMessage (.assignEndpoint e)) s = .next t ∧ t = { s with glb := { s.glb with eid := e }, out := .mctp d :: s.out }) ∧
    (∀ a, exec (.mctpControlMessage (.enterDynamicAddress a)) s = .next { s with glb := { s.glb with i3cAddr := some a } }) ∧
    (∀ c, ∃ d, exec (.mctpControlMessage (.getVersion c)) s = .next { s with out := .mctp d :: s.out }) ∧ (∃ d, exec (.mctpControlMessage .getMessageTypes) s = .next { s with out := .mctp d :: s.out }) ∧
    (∀ c, ∃ d, exec (.pldmRequest (.discovery c)) s = .next { s with out := .pldm d :: s.out }) ∧
    (∀ n : BitVec 16, n ≠ 0 → n.toNat ≤ 82 → ∃ d, exec (.pldmRequest (.sensorReading n)) s = .next { s with out := .pldm (d ++ leBytes 4 (s.sensor (n.toNat - 1)).value.toNat) :: s.out }))

/-! ## Ownership, PCIe resets and host DMA (14) -/

namespace Sys2Proof.Machine

/-- A master's copy of OWN_RESULT. -/
def State.resultOf (s : State) (m : Master) : OwnResult :=
  match m with
  | .host => s.own.resultHost
  | .mc => s.own.resultMc
  | .peer _ => s.own.resultPeer

/-- Every channel that was BUSY has ended with an ERROR, and the others are as they were. -/
def State.endedBusy (s t : State) (err : BitVec 4) : Prop :=
  ∀ c, c < 16 → (t.chan c).busy = false ∧ ((s.chan c).busy = true → (t.chan c).done = true ∧ (t.chan c).error = err) ∧ ((s.chan c).busy = false → t.chan c = s.chan c)

/-- A change of owner and its effects (14:R365, R368). -/
def State.passedTo (s t : State) (new : Option Master) (token : BitVec 32) : Prop :=
  t.own.owner = new ∧ t.own.token = token ∧ t.own.epoch = s.own.epoch + 1 ∧ t.own.handover = none ∧ t.own.leaseEnd = (if new.isSome then s.now + 2000 * msNs else 0) ∧
  t.own.allowHost = s.own.allowHost ∧ t.own.allowPeer = s.own.allowPeer ∧ t.own.peerNode = s.own.peerNode ∧ t.own.pcieReset = s.own.pcieReset ∧
  t.evt.ring = none ∧ s.endedBusy t 5 ∧ (s.shardArrives = false → t.mem = s.mem) ∧ t.ctx = s.ctx ∧ t.cells = s.cells ∧ t.lnk = s.lnk ∧ t.sec = s.sec ∧ t.fuses = s.fuses

end Sys2Proof.Machine

/-- Ownership moves as 14:Table 14.5 shows: a claim of an allowed master with a token takes an unowned module for 2,000 ms, the management controller may pre-empt, a master accepts a handover within its 100 ms, and a release or the end of the lease leaves the module unowned; each change advances OWN_EPOCH, disables the ring and ends BUSY host DMA with ERROR 5. A heartbeat renews the lease, a handover opens a window, and the end of the window closes it. A refused message changes nothing but the sender's OWN_RESULT, and an owner's command of another master or under a wrong token is dropped as well (14:R365 to R368). Completes: ownClaim, ownAccept, ownHeartbeat, ownHandover, ownRelease, leaseExpiry, handoverExpiry. The model's own readings and choices in it: log 11, 104. -/
def Obligations.OwnershipMoves : Prop :=
  (∀ (s : State) (m : Master) (v : Word), s.reaches m = true →
    (s.own.owner = none → s.own.allowed m = true → msgToken v ≠ 0 → ∃ t, exec (.ownClaim m v) s = .next t ∧ s.passedTo t (some m) (msgToken v) ∧ t.resultOf m = ⟨1, 1⟩ ∧ (s.quiet srcOwn → t.shows srcOwn 0x8001)) ∧
    (∀ x, s.own.owner = some x → x ≠ .mc → msgToken v ≠ 0 → v.getLsbD 2 = true →
      ∃ t, exec (.ownClaim .mc v) s = .next t ∧ s.passedTo t (some .mc) (msgToken v) ∧ t.resultOf .mc = ⟨1, 1⟩ ∧ (s.quiet srcOwn → t.shows srcOwn 0x8006)) ∧
    (msgToken v = 0 → exec (.ownClaim m v) s = .next ((s.ownResult m 1 4).answerWrite m 0)) ∧
    (s.own.owner = none → s.own.allowed m = false → msgToken v ≠ 0 → exec (.ownClaim m v) s = .next ((s.ownResult m 1 3).answerWrite m 0)) ∧
    (s.own.owner = some m → msgToken v ≠ 0 → exec (.ownClaim m v) s = .next ((s.ownResult m 1 7).answerWrite m 0)) ∧
    (∀ x, s.own.owner = some x → x ≠ m → msgToken v ≠ 0 → (m ≠ .mc ∨ v.getLsbD 2 = false) → exec (.ownClaim m v) s = .next ((s.ownResult m 1 2).answerWrite m 0)) ∧
    (∀ h, s.own.handover = some h → h.target = m → s.now < h.stop → msgToken v ≠ 0 →
      ∃ t, exec (.ownAccept m v) s = .next t ∧ s.passedTo t (some m) (msgToken v) ∧ t.resultOf m = ⟨2, 1⟩ ∧ (s.quiet srcOwn → t.shows srcOwn 0x8004)) ∧
    (∀ h, s.own.handover = some h → h.target = m → s.now < h.stop → msgToken v = 0 → exec (.ownAccept m v) s = .next ((s.ownResult m 2 4).answerWrite m 0)) ∧
    ((∀ h, s.own.handover = some h → h.target ≠ m ∨ h.stop ≤ s.now) → exec (.ownAccept m v) s = .next ((s.ownResult m 2 5).answerWrite m 0))) ∧
  (∀ (s : State) (m : Master) (v : Word), s.reaches m = true →
    (s.own.owner = some m → msgToken v ≠ 0 → msgToken v = s.own.token →
      exec (.ownHeartbeat m v) s = .next ((State.ownResult { s with own := { s.own with leaseEnd := s.now + 2000 * msNs } } m 3 1).answerWrite m 0) ∧
      (∀ x, msgTarget v = some x → x ≠ m → s.own.allowed x = true → ∃ t, exec (.ownHandover m v) s = .next t ∧ t.own.handover = some ⟨x, s.now + 100 * msNs⟩ ∧ t.own.owner = s.own.owner ∧ t.own.token = s.own.token ∧
        t.own.epoch = s.own.epoch ∧ t.own.leaseEnd = s.own.leaseEnd ∧ t.resultOf m = ⟨4, 1⟩ ∧ t.glb = s.glb ∧ t.mem = s.mem ∧ t.ctx = s.ctx ∧ t.cells = s.cells ∧ (s.quiet srcOwn → t.shows srcOwn 0x8003)) ∧
      ((∀ x, msgTarget v = some x → x = m ∨ s.own.allowed x = false) → exec (.ownHandover m v) s = .next ((s.ownResult m 4 6).answerWrite m 0)) ∧
      (∃ t, exec (.ownRelease m v) s = .next t ∧ s.passedTo t none 0 ∧ t.resultOf m = ⟨5, 1⟩ ∧ (s.quiet srcOwn → t.shows srcOwn 0x8007))) ∧
    (∀ r, (r = 2 ∧ s.own.owner ≠ some m) ∨ (r = 4 ∧ s.own.owner = some m ∧ (msgToken v = 0 ∨ msgToken v ≠ s.own.token)) →
      exec (.ownHeartbeat m v) s = .next (((s.drop m 0 0x10030).ownResult m 3 r).answerWrite m 1) ∧
      exec (.ownHandover m v) s = .next (((s.drop m 0 0x10038).ownResult m 4 r).answerWrite m 1) ∧
      exec (.ownRelease m v) s = .next (((s.drop m 0 0x10040).ownResult m 5 r).answerWrite m 1))) ∧
  (∀ (s : State) (m : Master), s.own.owner = some m → ∃ t, exec .leaseExpiry s = .next t ∧ s.passedTo t none 0 ∧ t.ao.time = (s.reach s.own.leaseEnd).ao.time ∧ (s.quiet srcOwn → t.shows srcOwn 0x8002)) ∧
  (∀ (s : State), s.own.owner = none → exec .leaseExpiry s = .next s) ∧
  (∀ (s : State) (h : Handover), s.own.handover = some h → ∃ t, exec .handoverExpiry s = .next t ∧ t.own = { s.own with handover := none } ∧ t.ao.time = (s.reach h.stop).ao.time ∧
    (s.quiet srcOwn → t.shows srcOwn 0x8005) ∧ t.glb = s.glb ∧ t.mem = s.mem ∧ t.ctx = s.ctx ∧ t.cells = s.cells) ∧
  (∀ (s : State), s.own.handover = none → exec .handoverExpiry s = .next s)

/-- START of an idle channel takes its fields, or ends it at once with ERROR 2, 3 or 1; a channel that is BUSY keeps its transfer, which ABORT marks. A record of a barge-mode write that passes hop 6 is stored at its address, one that fails is counted and not stored; a record of a read leaves with its tag. A transfer ends with DONE and its ERROR, a raw one having moved its bytes, and with IRQ the module posts 0x0020 or 0x0021 (14:R371, R372, 10:R270). A function reset restores the configuration state of the PCIe function, ends BUSY host DMA with ERROR 6, and ends the ownership of the PCIe host alone; PERST# and a hot reset act so where PCIE_RESET is 0 and are a warm reset where it is 1; a lost link ends BUSY channels with ERROR 6 and changes no owner (14:R370, Table 14.13). Completes: hostDmaStart, hostDmaAbort, bargeModeRecord, hostDmaDone, functionReset, perstOrHotReset, pcieLinkDown. The model's own readings and choices in it: log 102, 103. -/
def Obligations.PcieResetsAndHostDma : Prop :=
  (∀ (s : State) (m : Master) (c : Fin 16) (v : Word), s.accepts m (0x1000 + c.val * 0x40) →
    let ch := s.chan c.val
    let unit := if v.getLsbD 8 then 4096 else 64
    let aligned : Prop := ch.dev.toNat % unit = 0 ∧ ch.host.toNat % 64 = 0
    let slotOk : Prop := v.getLsbD 8 = true → v.getLsbD 4 = false → v.getLsbD 12 = false → (s.slot (v.extractLsb' 13 3).toNat).state ≠ .empty
    let rest (t : State) : Prop := t.mem = s.mem ∧ t.ctx = s.ctx ∧ t.cells = s.cells ∧ t.own = s.own ∧ t.lnk = s.lnk
    (ch.busy = false → aligned → slotOk → s.hostRange ch.dev.toNat ((v.extractLsb' 32 32).toNat * unit) = true →
      ∃ t, exec (.hostDmaStart m c v) s = .next t ∧ rest t ∧ (t.chan c.val).busy = true ∧ (t.chan c.val).done = false ∧ (t.chan c.val).error = 0 ∧ (t.chan c.val).checkFails = 0 ∧ (t.chan c.val).ue = false ∧
        (t.chan c.val).aborting = false ∧ (t.chan c.val).record = 0 ∧ (t.chan c.val).curLen = (v.extractLsb' 32 32).toNat ∧ (t.chan c.val).curBarge = v.getLsbD 8 ∧ (t.chan c.val).curDir = v.getLsbD 4 ∧
        (t.chan c.val).curBase = v.getLsbD 12 ∧ (t.chan c.val).curIrq = v.getLsbD 9 ∧ (t.chan c.val).curSlot = v.extractLsb' 13 3 ∧ (t.chan c.val).curHost = ch.host.toNat ∧ (t.chan c.val).curDev = ch.dev.toNat) ∧
    (∀ e : BitVec 4, ch.busy = false → (e = 2 ∧ ¬ aligned) ∨ (e = 3 ∧ aligned ∧ ¬ slotOk) ∨ (e = 1 ∧ aligned ∧ slotOk ∧ s.hostRange ch.dev.toNat ((v.extractLsb' 32 32).toNat * unit) = false) →
      ∃ t, exec (.hostDmaStart m c v) s = .next t ∧ rest t ∧ (t.chan c.val).busy = false ∧ (t.chan c.val).done = true ∧ (t.chan c.val).error = e ∧ (v.getLsbD 9 = true → s.quiet srcHost → t.shows srcHost 0x0021)) ∧
    (ch.busy = true → (∃ t, exec (.hostDmaStart m c v) s = .next t ∧ rest t ∧ (t.chan c.val).busy = true ∧ (t.chan c.val).record = ch.record ∧ (t.chan c.val).curLen = ch.curLen ∧ (t.chan c.val).curDev = ch.curDev) ∧
      (∃ t, exec (.hostDmaAbort m c v) s = .next t ∧ rest t ∧ (t.chan c.val).busy = true ∧ (t.chan c.val).aborting = true ∧ (t.chan c.val).record = ch.record ∧ (t.chan c.val).curLen = ch.curLen))) ∧
  (∀ (s : State) (c : Fin 16) (data : Bytes) (j : Nat), s.canonical = true → (s.chan c.val).busy = true → (s.chan c.val).curBarge = true → (s.chan c.val).record < (s.chan c.val).curLen →
    let ch := s.chan c.val
    let a := ch.curDev + ch.record * 4096
    let tag : BitVec 256 := BitVec.ofNat 256 (leNat (data.drop 4096))
    (ch.aborting = true → ∃ t, exec (.bargeModeRecord c data) s = .next t ∧ (t.chan c.val).busy = false ∧ (t.chan c.val).error = 4 ∧ t.mem = s.mem) ∧
    (ch.aborting = false → ch.curDir = false → data.length = 4128 → tagOk (data.take 4096) tag = true → ch.curDev % 4096 = 0 → s.baseRuns (stackOf a) = true →
      (ch.curBase = true ∨ s.isLate ch.curSlot.toNat (s.gen ch.curSlot.toNat).toNat = false) →
      ∃ t, exec (.bargeModeRecord c data) s = .next t ∧ (j < 4096 → sget 0 t.mem.bytes (a + j) = data.getD j 0) ∧ ((j < a ∨ a + 4096 ≤ j) → sget 0 t.mem.bytes j = sget 0 s.mem.bytes j) ∧
        t.chan c.val = { ch with record := ch.record + 1 } ∧ t.ctx = s.ctx ∧ t.cells = s.cells ∧ t.own = s.own) ∧
    (ch.aborting = false → ch.curDir = false → data.length = 4128 → tagOk (data.take 4096) tag = false → ch.checkFails ≠ 0xFFFFFF →
      ∃ t, exec (.bargeModeRecord c data) s = .next t ∧ t.mem = s.mem ∧ (t.chan c.val).checkFails = ch.checkFails + 1 ∧ (t.chan c.val).firstFail = (if ch.checkFails = 0 then BitVec.ofNat 32 ch.record else ch.firstFail) ∧
        (t.chan c.val).record = ch.record + 1 ∧ t.own = s.own) ∧
    (ch.aborting = false → ch.curDir = true → s.mem.errs = [] → ch.curDev % 4096 = 0 → tagOk (sread 0 s.mem.bytes a 4096) (s.mem.bargeTag a) = true →
      ∃ t, exec (.bargeModeRecord c data) s = .next t ∧ t.out = .hostWrite (ch.curHost + ch.record * 4128) (sread 0 s.mem.bytes a 4096 ++ leBytes 32 (s.mem.bargeTag a).toNat) :: s.out ∧
        t.chan c.val = { ch with record := ch.record + 1 } ∧ t.mem = s.mem ∧ t.ctx = s.ctx ∧ t.cells = s.cells ∧ t.own = s.own)) ∧
  (∀ (s : State) (c : Fin 16) (data : Bytes) (j : Nat), s.canonical = true → (s.chan c.val).busy = true →
    let ch := s.chan c.val
    let n := ch.curLen * 64
    let ends (t : State) (e : BitVec 4) : Prop := (t.chan c.val).busy = false ∧ (t.chan c.val).done = true ∧ (t.chan c.val).error = e ∧ t.ctx = s.ctx ∧ t.cells = s.cells ∧ t.own = s.own ∧
      (ch.curIrq = true → s.quiet srcHost → t.shows srcHost (if e = 0 then 0x0020 else 0x0021))
    (ch.curBarge = true → ch.aborting = false → ch.record = ch.curLen → ∃ t, exec (.hostDmaDone c data) s = .next t ∧ ends t 0 ∧ t.mem = s.mem) ∧
    (ch.curBarge = true → ch.aborting = true → ∃ t, exec (.hostDmaDone c data) s = .next t ∧ ends t 4 ∧ t.mem = s.mem) ∧
    (ch.curBarge = false → ch.aborting = false → ch.curDir = false → ch.curDev % 64 = 0 → data.length = n → ∃ t, exec (.hostDmaDone c data) s = .next t ∧ ends t 0 ∧ t.mem.tags = s.mem.tags ∧
      (j < n → sget 0 t.mem.bytes (ch.curDev + j) = data.getD j 0) ∧ ((j < ch.curDev ∨ ch.curDev + n ≤ j) → sget 0 t.mem.bytes j = sget 0 s.mem.bytes j)) ∧
    (ch.curBarge = false → ch.aborting = false → ch.curDir = true → s.mem.errs = [] → ∃ t, exec (.hostDmaDone c data) s = .next t ∧ ends t 0 ∧ t.mem = s.mem ∧
      t.out = .hostWrite ch.curHost (sread 0 s.mem.bytes ch.curDev n) :: s.out) ∧
    (ch.curBarge = false → ch.aborting = true → ch.curDir = false → ch.curDev % 64 = 0 → data.length = n → ∃ t, exec (.hostDmaDone c data) s = .next t ∧ ends t 4 ∧
      ((j < ch.curDev ∨ ch.curDev + n ≤ j) → sget 0 t.mem.bytes j = sget 0 s.mem.bytes j))) ∧
  (∀ (s : State), s.reachable = true →
    (∃ t, exec .functionReset s = .next t ∧ t.glb.bar2Size = 2 ^ 30 ∧ t.glb.msix = [] ∧ t.glb.msixEnable = false ∧ t.glb.msixMask = false ∧ t.glb.d3 = false ∧ s.endedBusy t 6 ∧ t.glb.bar2Base = s.glb.bar2Base ∧ t.ctx = s.ctx ∧ t.cells = s.cells ∧ t.lnk = s.lnk ∧ t.sec = s.sec ∧
      (s.asleep = false → t.pwr = s.pwr) ∧ t.fuses = s.fuses ∧ (s.shardArrives = false → t.mem = s.mem) ∧
      (s.own.owner = some .host → t.own.owner = none ∧ t.own.epoch = s.own.epoch + 1 ∧ t.evt.ring = none ∧ (s.quiet srcOwn → t.shows srcOwn 0x8007)) ∧
      (s.own.owner ≠ some .host → t.own = s.own ∧ t.evt.ring = s.evt.ring)) ∧
    (s.own.pcieReset = false → exec .perstOrHotReset s = exec .functionReset s) ∧ (s.own.pcieReset = true → exec .perstOrHotReset s = exec (.warmReset 5) s) ∧
    (∃ t, exec .pcieLinkDown s = .next t ∧ s.endedBusy t 6 ∧ t.own = s.own ∧ t.mem = s.mem ∧ t.ctx = s.ctx ∧ t.cells = s.cells ∧ t.lnk = s.lnk ∧ t.evt.ring = s.evt.ring))
/-! ## Events (14) -/

/-- A record write takes the pending source of the earliest AO time, writes its record at TAIL with the ring's phase, and advances TAIL modulo the ring's size, turning the phase where it wraps; it notifies the owner where the ring was empty. With one slot left it is the overflow record, after which nothing is written; without a ring, a free slot or a pending source, in A3, and into a stack in self-refresh nothing is. Where MSI-X is not enabled or the vector is masked, the notification of the PCIe host becomes pending. ENABLE and DISABLE, and a write of EVT_HEAD within the filled range, act as 14:R376 and R378 say, and a wrong one sets ERR or counts as a bad access with KIND 2 (14:R374 to R378). Completes: ringRecordWrite, enable, disable, evtHeadWrite. The model's own readings and choices in it: log 105, 106. -/
def Obligations.RingHoldsRecords : Prop :=
  (∀ (s : State) (r : Ring) (n : Nat) (x : EvRec) (j : Nat), s.canonical = true → s.evt.ring = some r → s.evt.nextPending = some (n, x) →
    let b := leBytes 32 ({ x with phase := s.evt.phase } : EvRec).pack
    let a := r.base + s.evt.tail.toNat * 32
    (s.ringOpen r = true → 2 ≤ s.evt.free r → ∃ t, exec .ringRecordWrite s = .next t ∧ sget none t.evt.pend n = none ∧ (∀ k, k ≠ n → sget none t.evt.pend k = sget none s.evt.pend k) ∧
      t.evt.tail = BitVec.ofNat 16 ((s.evt.tail.toNat + 1) % r.size) ∧ t.evt.phase = (if (s.evt.tail.toNat + 1) % r.size = 0 then !s.evt.phase else s.evt.phase) ∧ t.evt.head = s.evt.head ∧ t.evt.ring = s.evt.ring ∧
      t.evt.overflows = s.evt.overflows ∧ t.own = s.own ∧ t.ctx = s.ctx ∧ t.cells = s.cells ∧
      (r.device = false → t.mem = s.mem ∧ (s.evt.head ≠ s.evt.tail → t.out = .hostWrite a b :: s.out) ∧
        (s.own.owner = some .host → s.glb.vectorMasked = false → s.evt.head = s.evt.tail → t.out = .notify .host :: .hostWrite a b :: s.out) ∧
        (s.own.owner = some .host → (s.glb.msixEnable = false ∨ s.glb.msixMask = true) → s.evt.head = s.evt.tail → t.out = .hostWrite a b :: s.out ∧ t.glb.msixPending = true)) ∧
      (∀ m, m ≠ .host → r.device = true → s.own.owner = some m → s.evt.head = s.evt.tail → t.out = .notify m :: s.out) ∧
      (r.device = true → r.base % 64 = 0 → (j < 32 → sget 0 t.mem.bytes (a + j) = b.getD j 0) ∧ ((j < a ∨ a + 32 ≤ j) → sget 0 t.mem.bytes j = sget 0 s.mem.bytes j))) ∧
    (s.ringOpen r = true → s.evt.free r = 1 → ∃ t, exec .ringRecordWrite s = .next t ∧ t.evt.pend = s.evt.pend ∧ t.evt.overflows = s.evt.overflows + 1 ∧ t.evt.tail = BitVec.ofNat 16 ((s.evt.tail.toNat + 1) % r.size) ∧
      t.own = s.own ∧ t.ctx = s.ctx ∧ t.cells = s.cells) ∧
    ((s.evt.free r = 0 ∨ s.ao.railsOn = false ∨ s.pwr.state = .a3 ∨ (r.device = true ∧ (s.stack (stackOf r.base)).selfRefresh = true)) → exec .ringRecordWrite s = .next s)) ∧
  (∀ (s : State), (s.evt.ring = none ∨ s.evt.nextPending = none) → exec .ringRecordWrite s = .next s) ∧
  (∀ (s : State) (m : Master) (v : Word), s.accepts m 0x20000 → v.getLsbD 1 = false →
    let n := (v.extractLsb' 8 5).toNat
    let fits : Prop := 12 ≤ n ∧ n ≤ 16
    let rest (t : State) : Prop := t.evt.pend = s.evt.pend ∧ t.evt.mask = s.evt.mask ∧ t.mem = s.mem ∧ t.own = s.own ∧ t.ctx = s.ctx ∧ t.cells = s.cells
    (fits → v.getLsbD 2 = false → m = .host → s.evt.base.toNat % 4096 = 0 → ∃ t, exec (.enable m v) s = .next t ∧ rest t ∧ t.evt.ring = some ⟨n, false, s.evt.base.toNat⟩ ∧ t.evt.err = 0 ∧ t.evt.head = 0 ∧ t.evt.tail = 0 ∧ t.evt.phase = true) ∧
    (∀ e : BitVec 4, (e = 1 ∧ ¬ fits) ∨ (e = 2 ∧ fits ∧ v.getLsbD 2 = false ∧ m ≠ .host) ∨ (e = 4 ∧ fits ∧ v.getLsbD 2 = false ∧ m = .host ∧ s.evt.base.toNat % 4096 ≠ 0) →
      ∃ t, exec (.enable m v) s = .next t ∧ rest t ∧ t.evt.err = e ∧ t.evt.ring = s.evt.ring ∧ t.evt.head = s.evt.head ∧ t.evt.tail = s.evt.tail) ∧
    (fits → v.getLsbD 2 = true → ∃ t, exec (.enable m v) s = .next t ∧ rest t ∧ ((t.evt.err = 3 ∧ t.evt.ring = s.evt.ring) ∨ (t.evt.err = 0 ∧ (∃ b, t.evt.ring = some ⟨n, true, b⟩) ∧ t.evt.head = 0 ∧ t.evt.tail = 0)))) ∧
  (∀ (s : State) (m : Master) (v : Word), s.accepts m 0x20000 →
    ∃ t, exec (.disable m v) s = .next t ∧ t.evt.ring = none ∧ t.evt.pend = s.evt.pend ∧ t.evt.head = s.evt.head ∧ t.evt.tail = s.evt.tail ∧ t.mem = s.mem ∧ t.own = s.own ∧ t.ctx = s.ctx ∧ t.cells = s.cells) ∧
  (∀ (s : State) (m : Master) (v : Word), s.accepts m 0x20018 →
    let h := v.toNat % 65536
    (s.evt.ring = none → exec (.evtHeadWrite m v) s = .next (s.answerWrite m 0)) ∧
    (∀ r, s.evt.ring = some r → h < r.size → (h + r.size - s.evt.head.toNat) % r.size ≤ (s.evt.tail.toNat + r.size - s.evt.head.toNat) % r.size →
      ∃ t, exec (.evtHeadWrite m v) s = .next t ∧ t.evt = { s.evt with head := BitVec.ofNat 16 h } ∧ t.mem = s.mem ∧ t.own = s.own ∧ t.ctx = s.ctx ∧ t.cells = s.cells ∧
        (BitVec.ofNat 16 h = s.evt.tail → t = State.answerWrite { s with evt := { s.evt with head := BitVec.ofNat 16 h } } m 0)) ∧
    (∀ r, s.evt.ring = some r → (r.size ≤ h ∨ (s.evt.tail.toNat + r.size - s.evt.head.toNat) % r.size < (h + r.size - s.evt.head.toNat) % r.size) →
      exec (.evtHeadWrite m v) s = .next ((s.bad m 2 0x20018).answerWrite m 0)))

/-- An accepted active level of a listed, enabled sideband input is one activation: it counts and posts 0x0010, unless it comes within 1 ms of the 64th before it, when it starts a storm mask and posts 0x0011; under a mask only the level changes. A level that stays active is no activation, and inputs without a contact never activate. LEVEL is the pin's state against its ACTIVE_LOW bit, and an activation and its end each turn the pin. The mask ends 100 ms after its start, and the input's history is cleared (14:R380, R381). Completes: sidebandActivation, sidebandInputInactive, stormMaskEnd. The model's own readings and choices in it: log 11, 193. -/
def Obligations.SidebandInputs : Prop :=
  ∀ (s : State) (n : Fin 16), s.ao.railsOn = true →
    let times := sget [] s.evt.sbTimes n.val
    let storm : Prop := 64 ≤ times.length ∧ s.now < times.getD 63 0 + msNs
    let rest (t : State) : Prop := t.mem = s.mem ∧ t.own = s.own ∧ t.ctx = s.ctx ∧ t.cells = s.cells ∧ t.glb = s.glb
    let turned (t : State) : Prop := t.evt.sbPin = s.evt.sbPin ^^^ BitVec.twoPow 16 n.val ∧ t.evt.sbActiveLow = s.evt.sbActiveLow
    (n.val < 6 → s.evt.sbLevel.getLsbD n.val = (s.evt.sbPin.getLsbD n.val != s.evt.sbActiveLow.getLsbD n.val)) ∧ (6 ≤ n.val → s.evt.sbLevel.getLsbD n.val = false) ∧
    (n.val < 6 → s.evt.sbEnable.getLsbD n.val = true → s.evt.sbLevel.getLsbD n.val = false → s.evt.sbMasked.getLsbD n.val = false →
      ∃ t, exec (.sidebandActivation n) s = .next t ∧ rest t ∧ turned t ∧ t.evt.sbLevel.getLsbD n.val = true ∧ sget [] t.evt.sbTimes n.val = (s.now :: times).take 64 ∧
        (s.canonical = true → sget 0 t.evt.sbCount n.val = sget 0 s.evt.sbCount n.val + 1) ∧
        (¬ storm → t.evt.sbMasked = s.evt.sbMasked ∧ (s.quiet (0x40 + n.val) → t.shows (0x40 + n.val) 0x0010)) ∧
        (storm → t.evt.sbMasked.getLsbD n.val = true ∧ (s.quiet (0x40 + n.val) → t.shows (0x40 + n.val) 0x0011)) ∧
        (s.asleep = false → t.pwr = s.pwr)) ∧
    (n.val < 6 → s.evt.sbEnable.getLsbD n.val = true → s.evt.sbLevel.getLsbD n.val = false → s.evt.sbMasked.getLsbD n.val = true →
      ∃ t, exec (.sidebandActivation n) s = .next t ∧ t = { s with evt := { s.evt with sbPin := t.evt.sbPin } } ∧ turned t) ∧
    ((6 ≤ n.val ∨ s.evt.sbEnable.getLsbD n.val = false ∨ s.evt.sbLevel.getLsbD n.val = true) → exec (.sidebandActivation n) s = .next s) ∧
    (s.evt.sbEnable.getLsbD n.val = true → s.evt.sbLevel.getLsbD n.val = true → ∃ t, exec (.sidebandInputInactive n) s = .next t ∧ t = { s with evt := { s.evt with sbPin := t.evt.sbPin } } ∧ turned t ∧
      t.evt.sbLevel.getLsbD n.val = false ∧ (∀ k, k ≠ n.val → t.evt.sbLevel.getLsbD k = s.evt.sbLevel.getLsbD k)) ∧
    ((s.evt.sbEnable.getLsbD n.val = false ∨ s.evt.sbLevel.getLsbD n.val = false) → exec (.sidebandInputInactive n) s = .next s) ∧
    (s.evt.sbMasked.getLsbD n.val = true → ∃ t, exec (.stormMaskEnd n) s = .next t ∧ rest t ∧ t.evt.sbMasked.getLsbD n.val = false ∧ (s.canonical = true → sget [] t.evt.sbTimes n.val = []) ∧
      t.evt.sbPin = s.evt.sbPin ∧ t.evt.pend = s.evt.pend ∧ t.ao.time = (s.reach (times.headD 0 + 100 * msNs)).ao.time)

/-! ## Start-up, security and self-test (15) -/

/-- The boot ROM waits for firmware; LOAD_FW fetches an object, which is then in verification; a sound one signed under a good key slot becomes the measured firmware and starts INIT, and any other is refused, counted, and leaves the ROM waiting; the end of INIT makes the module RUNNING. A failed essential block and SCAN end in FAILED, every cell held and empty; SCAN clears the secrets and the measurements, and is refused in FIELD (15:R386 to R390, R395, R402, 13:R352). Completes: romReady, loadFw, fwFetchComplete, initComplete, scan. The model's own readings and choices in it: log 31, 88, 96, 113, 116, 198. -/
def Obligations.BootStates : Prop :=
  (∀ (s : State), s.canonical = true → s.ao.railsOn = true → s.sec.boot = .rom →
    (s.ao.resetKind = 1 → s.ao.resetCause ≠ 5 → exec (.romReady true) s = .next { s with sec := { s.sec with boot := .wait } }) ∧
    ((s.ao.resetKind ≠ 1 ∨ s.ao.resetCause = 5) → ∃ t, exec (.romReady true) s = .next t ∧ t = { s with sec := { s.sec with boot := .wait }, ao := t.ao } ∧ t.ao.logCount = s.ao.logCount + 1) ∧
    ∃ t, exec (.romReady false) s = .next t ∧ t.sec.boot = .failed ∧ (∀ k, t.cell k = (s.cell k).kept) ∧ t.fuses = s.fuses ∧ t.mem = s.mem ∧ t.own = s.own) ∧
  (∀ (s : State) (m : Master), s.accepts m 0x40008 →
    (s.sec.busy = false → s.sec.boot = .wait → exec (.loadFw m) s = .next (State.answerWrite { s with sec := { s.sec with lastCmd := 1, reason := 0, busy := true, boot := .fetch, fetchLen := s.sec.objLen.toNat } } m 0)) ∧
    ((s.sec.busy = true ∨ s.sec.boot ≠ .wait) → ∃ t, exec (.loadFw m) s = .next t ∧ t.sec = { s.sec with lastCmd := 1, reason := 1, fwFails := s.sec.fwFails + 1 } ∧ (s.quiet srcSec → t.shows srcSec 0x7002) ∧
      t.fuses = s.fuses ∧ t.mem = s.mem ∧ t.ctx = s.ctx ∧ t.cells = s.cells ∧ t.own = s.own)) ∧
  (∀ (s : State) (b : Bytes) (found : BootFindings), s.sec.boot = .fetch → b.length = s.sec.fetchLen →
    -- the object stands in VERIFY until its verification ends, by the same command or by the next
    exec (.fwFetchComplete ⟨some b, false⟩ found) s = .next { s with sec := { s.sec with boot := .verify, object := b } } ∧
    exec (.fwFetchComplete ⟨some b, true⟩ found) s = exec (.fwFetchComplete ⟨none, true⟩ found) { s with sec := { s.sec with boot := .verify, object := b } } ∧
    (∃ t, exec (.fwFetchComplete ⟨none, true⟩ found) s = .next t ∧ t.sec.boot = .wait ∧ t.sec.reason = 8 ∧ t.sec.fwFails = s.sec.fwFails + 1 ∧ t.mem = s.mem ∧ t.cells = s.cells)) ∧
  (∀ (s : State) (fetch : FwFetch) (found : BootFindings), s.sec.boot = .verify →
    let b := s.sec.object
    (s.verify 1 b = 0 → ∃ t, exec (.fwFetchComplete fetch found) s = .next t ∧ t.sec.boot = .init ∧ t.sec.fwMeas = shake512 b ∧ t.sec.fwVersion = BitVec.ofNat 32 (objHead b).version ∧ t.sec.object = [] ∧
      t.sec.fwSvn = BitVec.ofNat 8 (objHead b).svn ∧ t.sec.keySlot = BitVec.ofNat 2 (objHead b).keySlot ∧ t.sec.packChain = s.sec.packChain ∧ t.tst.table = (Config.builtinTests (objBody b)).map testRec ∧
      t.fuses = s.fuses ∧ t.own = s.own) ∧
    (s.verify 1 b ≠ 0 → ∃ t, exec (.fwFetchComplete fetch found) s = .next t ∧
      t.sec = { s.sec with boot := .wait, busy := false, object := [], lastCmd := 1, reason := BitVec.ofNat 8 (s.verify 1 b), fwFails := s.sec.fwFails + 1 } ∧
      (s.quiet srcSec → t.shows srcSec 0x7002) ∧ t.fuses = s.fuses ∧ t.mem = s.mem ∧ t.cells = s.cells ∧ t.own = s.own)) ∧
  (∀ (s : State), s.canonical = true → s.sec.boot = .init →
    (∃ t, exec (.initComplete none) s = .next t ∧ t.sec = { s.sec with boot := .running, busy := false } ∧ (s.quiet srcSec → t.shows srcSec 0x7001) ∧ t.fuses = s.fuses ∧ t.mem = s.mem ∧ t.own = s.own) ∧
    (∀ k : Fin 34, 30 ≤ k.val → ∃ t, exec (.initComplete (some k)) s = .next t ∧ t.sec.boot = .failed ∧ (∀ j, t.cell j = (s.cell j).kept) ∧ t.tst.fails = s.tst.fails + 1 ∧ t.fuses = s.fuses ∧ t.mem = s.mem)) ∧
  (∀ (s : State) (m : Master), s.canonical = true → s.accepts m 0x40008 →
    (s.sec.busy = false → s.sec.life ≠ 1 → ∃ t, exec (.scan m) s = .next t ∧ t.sec.boot = .failed ∧ t.sec.seedLock = true ∧ t.sec.scanEn = true ∧ t.sec.idKey = 0 ∧ t.sec.idSeed = 0 ∧ t.sec.fwMeas = 0 ∧
      t.sec.packChain = 0 ∧ t.sec.nonce = 0 ∧ t.tst.table = [] ∧ (∀ k, (t.cell k).spad = []) ∧ (s.quiet srcSec → t.shows srcSec 0x7014) ∧ t.fuses = s.fuses ∧ t.own = s.own ∧ t.mem = s.mem) ∧
    (s.sec.busy = false → s.sec.life = 1 → exec (.scan m) s = .next ((s.secResult 7 9).answerWrite m 0)) ∧ (s.sec.busy = true → exec (.scan m) s = .next ((s.secResult 7 1).answerWrite m 0)))

/-- LOAD_PACK takes the records of a sound pack and extends the chain of measurements; ATTEST takes the report of the moment, which is then signed and written whole; COMMIT_SVN raises the fused version to that of the firmware, 64 at most; REVOKE revokes a slot other than its signer's; LIFECYCLE fuses the next lifecycle. A refusal named here gives its REASON (15:R391 to R400). A write of the register SEC_CMD is the command of its code, with what its fetch brings (15:R409). What the verification of an object means: a REASON of 0 says that it is a signed object of its type for this module, under a programmed, unrevoked key slot that holds the hash of its key, or, for firmware in MANUFACTURE, any programmed slot, not below the fused security version, and that its signature holds (15:R386, R387, Table 15.6). Completes: loadPack, revoke, lifecycle, commitSvn, attest, attestReportWritten. The model's own readings and choices in it: log 31, 113, 114, 116, 198. -/
def Obligations.SecurityCommands : Prop :=
  (∀ (s : State) (m : Master) (b : Bytes), s.accepts m 0x40008 → s.sec.busy = false → b.length = s.sec.objLen.toNat →
    (s.running = true → s.verify 2 b = 0 → (∀ u, packTable s.tst.table (objBody b) = some u →
      ∃ t, exec (.loadPack m (some b)) s = .next t ∧ t.sec = { s.sec with lastCmd := 2, reason := 0, packChain := extendChain s.sec.packChain b } ∧ t.tst = { s.tst with table := u, packs := s.tst.packs + 1 }.heldFrom (packIds (objBody b)) s.now ∧
        (s.quiet srcSec → t.shows srcSec 0x7003) ∧ t.fuses = s.fuses ∧ t.mem = s.mem ∧ t.ctx = s.ctx ∧ t.cells = s.cells ∧ t.own = s.own) ∧
      (packTable s.tst.table (objBody b) = none → ∃ t, exec (.loadPack m (some b)) s = .next t ∧ t.sec = { s.sec with lastCmd := 2, reason := 10 } ∧ t.tst = s.tst ∧ (s.quiet srcSec → t.shows srcSec 0x7004) ∧ t.fuses = s.fuses)) ∧
    (s.running = true → s.verify 2 b ≠ 0 → ∃ t, exec (.loadPack m (some b)) s = .next t ∧ t.sec = { s.sec with lastCmd := 2, reason := BitVec.ofNat 8 (s.verify 2 b) } ∧ t.tst = s.tst ∧ (s.quiet srcSec → t.shows srcSec 0x7004)) ∧
    (∀ k, k = leNat ((objBody b).take 1) → s.verify 3 b = 0 → k < 3 → k ≠ (objHead b).keySlot → ∃ t, exec (.revoke m (some b)) s = .next t ∧ t.fuses = { s.fuses with revoked := s.fuses.revoked ||| BitVec.twoPow 3 k } ∧
        t.sec = { s.sec with lastCmd := 5, reason := 0 } ∧ (s.quiet srcSec → t.shows srcSec 0x7006) ∧ t.tst = s.tst ∧ t.mem = s.mem ∧ t.ctx = s.ctx ∧ t.cells = s.cells ∧ t.own = s.own) ∧
    (s.verify 3 b ≠ 0 → exec (.revoke m (some b)) s = .next ((s.secResult 5 (s.verify 3 b)).answerWrite m 0)) ∧
    (s.sec.life = 1 → s.verify 4 b = 0 → (objHead b).uidBind = s.fuses.uid.toNat → ∃ t, exec (.lifecycle m (some b)) s = .next t ∧ t.fuses = { s.fuses with ret := true } ∧ t.sec = { s.sec with lastCmd := 6, reason := 0 } ∧
      (s.quiet srcSec → t.shows srcSec 0x7007) ∧ t.tst = s.tst ∧ t.mem = s.mem ∧ t.ctx = s.ctx ∧ t.cells = s.cells ∧ t.own = s.own)) ∧
  (∀ (s : State) (m : Master) (o : Option Bytes), s.accepts m 0x40008 →
    (s.sec.busy = false → s.sec.life = 0 → ∃ t, exec (.lifecycle m o) s = .next t ∧ t.fuses = { s.fuses with field := true } ∧ t.sec = { s.sec with lastCmd := 6, reason := 0 } ∧ t.mem = s.mem ∧ t.ctx = s.ctx ∧ t.cells = s.cells ∧ t.own = s.own) ∧
    (s.sec.busy = false → s.sec.life = 2 → exec (.lifecycle m o) s = .next ((s.secResult 6 9).answerWrite m 0)) ∧
    (s.sec.busy = false → ∃ t, exec (.commitSvn m) s = .next t ∧ t.fuses = { s.fuses with svn := max s.fuses.svn (min 64 s.sec.fwSvn.toNat) } ∧ t.sec = { s.sec with lastCmd := 4, reason := 0 } ∧ (s.quiet srcSec → t.shows srcSec 0x7005) ∧
      t.mem = s.mem ∧ t.ctx = s.ctx ∧ t.cells = s.cells ∧ t.own = s.own) ∧
    (s.sec.busy = true → exec (.commitSvn m) s = .next ((s.secResult 4 1).answerWrite m 0) ∧ exec (.revoke m o) s = .next ((s.secResult 5 1).answerWrite m 0) ∧ exec (.lifecycle m o) s = .next ((s.secResult 6 1).answerWrite m 0) ∧
      exec (.attest m) s = .next ((s.secResult 3 1).answerWrite m 0)) ∧
    (s.sec.busy = false → s.running = true → s.sec.seedLock = false → s.sec.life ≠ 2 → s.sec.reportAddr.toNat % 4096 = 0 → validRange s.sec.reportAddr.toNat 51600 = true → clearOfDump s.sec.reportAddr.toNat 51600 = true →
      exec (.attest m) s = .next (State.answerWrite { s with sec := { s.sec with lastCmd := 3, reason := 0, busy := true, report := some ⟨s.sec.reportAddr.toNat, s.reportBody⟩ } } m 0)) ∧
    (s.sec.busy = false → s.running = true → s.sec.seedLock = false → s.sec.life ≠ 2 → (s.sec.reportAddr.toNat % 4096 ≠ 0 ∨ validRange s.sec.reportAddr.toNat 51600 = false) →
      exec (.attest m) s = .next ((s.secResult 3 12).answerWrite m 0))) ∧
  (∀ (s : State) (r : Report) (j : Nat), s.canonical = true → s.sec.report = some r → r.addr % 4096 = 0 → r.body.length = 1744 →
    ∃ t, exec .attestReportWritten s = .next t ∧ t.sec = { s.sec with busy := false, report := none, reportSeq := s.sec.reportSeq + 1 } ∧ (s.quiet srcSec → t.shows srcSec 0x7008) ∧
      (j < 1744 → sget 0 t.mem.bytes (r.addr + j) = r.body.getD j 0) ∧
      (j < 49856 → sget 0 t.mem.bytes (r.addr + 1744 + j) = (Config.slhSign (leBytes 96 s.sec.idSeed.toNat) 0xA0 r.body).getD j 0) ∧
      ((j < r.addr ∨ r.addr + 51600 ≤ j) → sget 0 t.mem.bytes j = sget 0 s.mem.bytes j) ∧ t.fuses = s.fuses ∧ t.tst = s.tst ∧ t.ctx = s.ctx ∧ t.cells = s.cells ∧ t.own = s.own) ∧
  (∀ (s : State) (type : Nat) (b : Bytes), s.verify type b = 0 ↔
    ((objHead b).magic = 0x5746484B ∧ (objHead b).format = 1 ∧ (objHead b).reservedZero = true ∧ (objHead b).length = b.length ∧ lengthOk (objHead b).type b.length = true ∧ (objHead b).type = type ∧
      (objHead b).keySlot < 3 ∧ s.fuses.keyHash (objHead b).keySlot ≠ 0 ∧
      (s.fuses.revoked.getLsbD (objHead b).keySlot = false ∨ (type = 1 ∧ s.sec.life = 0)) ∧ shake512 (leBytes 64 (objHead b).pubkey) = s.fuses.keyHash (objHead b).keySlot ∧
      ((objHead b).uidBind = 0 ∨ (objHead b).uidBind = s.fuses.uid.toNat) ∧ s.fuses.svn ≤ (objHead b).svn ∧ signatureOk (objHead b) b = true)) ∧
  (∀ (s : State) (m : Master) (d : RegData), s.accepts m 0x40008 →
    let by_ (code : Nat) (c : Instr) : Prop := (d.value.extractLsb' 0 4).toNat = code → exec (.registerWrite m 0x40008 true d) s = exec c s
    by_ 1 (.loadFw m) ∧ by_ 2 (.loadPack m d.object) ∧ by_ 3 (.attest m) ∧ by_ 4 (.commitSvn m) ∧ by_ 5 (.revoke m d.object) ∧ by_ 6 (.lifecycle m d.object) ∧ by_ 7 (.scan m))

/-- TST_CMD starts a test that the module holds, for its stepping, on a unit that exists and may be tested now, or defers it while the unit is busy, another test runs on its die, or the module sleeps; it refuses any other with RESULT 3. A due test starts or is deferred likewise. A test that ends counts, a commanded one reports its result and its signature, a failure is counted and posts 0x7011, and the cell of a failed test is out of service (15:R401 to R407). Completes: tstCmd, testDue, testOverdue, testComplete. The model's own readings and choices in it: log 95, 115, 197, 199. -/
def Obligations.SelfTests : Prop :=
  (∀ (s : State) (m : Master) (v : Word), s.accepts m 0x50000 →
    let id := v.extractLsb' 32 32
    let unit := v.extractLsb' 8 8
    let cell := v.extractLsb' 0 7
    let cls := s.classOf id
    let ready : Prop := s.tst.busy = false ∧ s.testRefused id unit.toNat cell.toNat = false
    let job (due : Nat) (excess cmd : Bool) : TestJob := ⟨id, unit, unitCell cls cell, due, excess, cmd, s.unitOut cls unit.toNat cell.toNat⟩
    let rest (t : State) : Prop := t.mem = s.mem ∧ t.own = s.own ∧ t.ctx = s.ctx ∧ t.sec = s.sec ∧ t.fuses = s.fuses
    (ready → s.testWaits cls unit.toNat cell.toNat = false →
      ∃ t, exec (.tstCmd m v) s = .next t ∧ rest t ∧ t.tst.running = s.tst.running ++ [job s.now false true] ∧ t.tst.busy = true ∧ t.tst.result = 0 ∧ t.tst.testId = id ∧ t.tst.unit = unit ∧ t.tst.cell = cell ∧
        t.tst.deferred = s.tst.deferred ∧ (cls = 1 → (t.cell (cellKey unit.toNat cell.toNat)).inReset = true)) ∧
    (ready → s.testWaits cls unit.toNat cell.toNat = true → s.tst.deferred.length < 256 →
      ∃ t, exec (.tstCmd m v) s = .next t ∧ rest t ∧ t.tst = { s.tst with deferred := s.tst.deferred ++ [job s.now false true], result := 4, testId := id, unit := unit, cell := cell } ∧ t.cells = s.cells) ∧
    (s.tst.busy = true → exec (.tstCmd m v) s = .next (State.answerWrite { s with tst := { s.tst with result := 3 } } m 0)) ∧
    (s.tst.busy = false → s.testRefused id unit.toNat cell.toNat = true →
      exec (.tstCmd m v) s = .next (State.answerWrite { s with tst := { s.tst with result := 3, testId := id, unit := unit, cell := cell } } m 0))) ∧
  (∀ (s : State) (cls unit cell : Nat), s.testWaits cls unit cell = true ↔
    ((cls = 1 → s.cellBusy (cellKey unit cell) = true) ∧ (cls ≠ 1 → s.sch.exec.isSome = true)) ∨ s.dieTesting (unitDie cls unit) = true ∨ s.asleep = true ∨ s.pwr.state = .a2 ∨ s.pwr.state = .a3) ∧
  (∀ (s : State) (id : BitVec 32) (unit : BitVec 8) (cell : BitVec 7) (r : TestRec), s.running = true → s.testOf id = some r → unitCell r.cls.toNat cell = cell →
    let cls := r.cls.toNat
    let due := max (sget 0 s.tst.born r.id.toNat) (sget 0 s.tst.ran (testKey r.id unit cell)) + r.intervalH.toNat * 3600000000000
    let job : TestJob := ⟨id, unit, cell, due, false, false, s.unitOut cls unit.toNat cell.toNat⟩
    (s.testRefused id unit.toNat cell.toNat = false → r.intervalH ≠ 0 → s.testHeld id unit cell = false → s.testWaits cls unit.toNat cell.toNat = false →
      ∃ t, exec (.testDue id unit cell) s = .next t ∧ t.tst = { s.tst with running := s.tst.running ++ [job] } ∧ t.ao = (s.reach due).ao ∧ t.mem = s.mem ∧ t.own = s.own ∧ t.ctx = s.ctx ∧ t.sec = s.sec) ∧
    (s.testRefused id unit.toNat cell.toNat = false → r.intervalH ≠ 0 → s.testHeld id unit cell = false → s.testWaits cls unit.toNat cell.toNat = true → s.tst.deferred.length < 256 →
      exec (.testDue id unit cell) s = .next { s.reach due with tst := { s.tst with deferred := s.tst.deferred ++ [job] } }) ∧
    ((r.intervalH = 0 ∨ s.testRefused id unit.toNat cell.toNat = true ∨ s.testHeld id unit cell = true) → exec (.testDue id unit cell) s = .next s)) ∧
  (∀ (s : State) (j : TestJob), unitCell (s.classOf j.id) j.cell = j.cell → s.tst.deferred.find? (fun x => x.id == j.id && x.unit == j.unit && x.cell == j.cell) = some j →
    ∃ t, exec (.testOverdue j.id j.unit j.cell) s = .next t ∧ t.tst = { s.tst with deferred := s.tst.deferred.map (fun x => if x = j then { x with overdue := true } else x) } ∧ t.mem = s.mem ∧ t.ctx = s.ctx ∧ t.cells = s.cells ∧ t.own = s.own) ∧
  (∀ (s : State) (j : TestJob) (r : TestRec) (v : Word), s.canonical = true → s.tst.deferred = [] → s.tst.running.find? (fun x => x.id == j.id && x.unit == j.unit && x.cell == j.cell) = some j → s.testOf j.id = some r → unitCell r.cls.toNat j.cell = j.cell →
    (r.cls = 1 → (s.cell (cellKey j.unit.toNat j.cell.toNat)).power ≠ 0) →
    ∃ t, exec (.testComplete j.id j.unit j.cell v) s = .next t ∧ t.tst.running = s.tst.running.erase j ∧ t.tst.runs = s.tst.runs + 1 ∧ t.own = s.own ∧ t.fuses = s.fuses ∧
      (testPasses r v = true → t.tst.fails = s.tst.fails ∧ (j.cmd = true → s.quiet srcTest → t.shows srcTest 0x7010)) ∧
      (testPasses r v = false → t.tst.fails = s.tst.fails + 1 ∧ (s.quiet srcTest → t.shows srcTest 0x7011)) ∧
      (j.cmd = true → s.tst.testId = j.id → s.tst.unit = j.unit → unitCell r.cls.toNat s.tst.cell = j.cell → t.tst.busy = false ∧ t.tst.signature = v ∧ t.tst.result = (if testPasses r v then 1 else 2)) ∧
      (r.cls = 1 → j.out = false → testPasses r v = false → j.unit.toNat < 16 → j.cell.toNat < 68 → t.ao.oos.contains (cellKey j.unit.toNat j.cell.toNat) = true ∧ (t.cell (cellKey j.unit.toNat j.cell.toNat)).role = .out ∧
        (t.cell (cellKey j.unit.toNat j.cell.toNat)).inReset = true))

/-! ## Power (16) -/

/-- A request for A2 or A3 starts its transition where its conditions hold, and otherwise is refused with its REASON and 0x6008; a request for A0 leaves A2; one written during a transition waits for its end, and a wake that comes in an entry begins its exit there. A1 is entered when no context executes, no test and no generator runs, and left when one is due; a watched source and an exit from L1.2 wake the module. A completed transition sets STATE and posts 0x6007; A2 gates every cell off and puts the trained stacks into self-refresh, and A3 empties the scratchpads (16:R412, R413, Table 16.2, 14:R382). Completes: reqA0, reqA2, reqA3, enterA1, exitA1, wake, l12Exit, powerTransitionComplete. The model's own readings and choices in it: log 105, 107, 110, 194, 195, 200. -/
def Obligations.PowerStates : Prop :=
  (∀ (s : State) (m : Master), s.accepts m 0x30000 →
    let rest (t : State) : Prop := t.mem = s.mem ∧ t.own = s.own ∧ t.ctx = s.ctx ∧ t.cells = s.cells ∧ t.sec = s.sec ∧ t.stks = s.stks
    (s.pwr.trans = none → (s.pwr.state = .a0 ∨ s.pwr.state = .a1) → s.sleepReason 2 = 0 → ∃ t, exec (.reqA2 m) s = .next t ∧ rest t ∧ t.pwr = { s.pwr with req := 2, trans := some ⟨s.pwr.state, .a2, 0x1FF⟩ }) ∧
    (s.pwr.trans = none → (s.pwr.state = .a0 ∨ s.pwr.state = .a1) → s.sleepReason 2 ≠ 0 → ∃ t, exec (.reqA2 m) s = .next t ∧ rest t ∧ t.pwr = { s.pwr with req := 0, reason := BitVec.ofNat 3 (s.sleepReason 2) } ∧
      (s.quiet srcPower → t.shows srcPower 0x6008)) ∧
    (s.pwr.trans = none → s.pwr.state ≠ .a3 → s.sleepReason 3 = 0 → ∃ t, exec (.reqA3 m) s = .next t ∧ rest t ∧ t.pwr = { s.pwr with req := 3, trans := some ⟨s.pwr.state, .a3, 0x1FF⟩ }) ∧
    (s.pwr.trans = none → s.pwr.state ≠ .a3 → s.sleepReason 3 ≠ 0 → ∃ t, exec (.reqA3 m) s = .next t ∧ rest t ∧ t.pwr = { s.pwr with req := 0, reason := BitVec.ofNat 3 (s.sleepReason 3) } ∧
      (s.quiet srcPower → t.shows srcPower 0x6008)) ∧
    (s.pwr.trans = none → s.pwr.state = .a2 → ∃ t, exec (.reqA0 m) s = .next t ∧ rest t ∧ t.pwr.req = 0 ∧ t.pwr.state = .a2 ∧ t.pwr.trans = some ⟨.a2, .a0, 0x1FF⟩ ∧ t.pwr.wakeFrom = 2 ∧ t.pwr.wakeSource = 0x1FF) ∧
    (s.pwr.trans = none → (s.pwr.state = .a0 ∨ s.pwr.state = .a1) → exec (.reqA0 m) s = .next (State.answerWrite { s with pwr := { s.pwr with req := 0 } } m 0)) ∧
    (s.pwr.trans ≠ none → exec (.reqA0 m) s = .next (State.answerWrite { s with pwr := { s.pwr with req := 0, laterReq := some 0 } } m 0) ∧
      exec (.reqA2 m) s = .next (State.answerWrite { s with pwr := { s.pwr with req := 2, laterReq := some 2 } } m 0) ∧
      exec (.reqA3 m) s = .next (State.answerWrite { s with pwr := { s.pwr with req := 3, laterReq := some 3 } } m 0))) ∧
  (∀ (s : State), s.running = true → s.pwr.trans = none →
    (s.pwr.state = .a0 → s.sch.exec = none → s.tst.running = [] → s.generatorRuns = false → exec .enterA1 s = .next { s with pwr := { s.pwr with trans := some ⟨.a0, .a1, 0x1FC⟩ } }) ∧
    ((s.pwr.state ≠ .a0 ∨ s.sch.exec ≠ none ∨ s.tst.running ≠ [] ∨ s.generatorRuns = true) → exec .enterA1 s = .next s) ∧
    (s.pwr.state = .a1 → (s.dueSlot ≠ none ∨ s.tst.running ≠ [] ∨ s.generatorRuns = true) → exec .exitA1 s = .next { s with pwr := { s.pwr with trans := some ⟨.a1, .a0, 0x1FD⟩ } })) ∧
  (∀ (s : State) (src : BitVec 9), s.ao.railsOn = true → s.pwr.trans = none →
    ((s.pwr.state = .a2 ∨ s.pwr.state = .a3) → s.evt.watches src.toNat = true → (src.toNat < 0x40 ∨ 0x58 ≤ src.toNat) →
      ∃ t, exec (.wake src) s = .next t ∧ t.pwr.trans = some ⟨s.pwr.state, .a0, src⟩ ∧ t.pwr.wakeSource = src ∧ (s.quiet src.toNat → ∃ r, sget none t.evt.pend src.toNat = some r) ∧
        t.mem = s.mem ∧ t.own = s.own ∧ t.ctx = s.ctx ∧ t.cells = s.cells) ∧
    (∀ n : Fin 16, (s.pwr.state = .a2 ∨ s.pwr.state = .a3) → src.toNat = 0x40 + n.val → s.evt.watches src.toNat = true → exec (.wake src) s = exec (.sidebandActivation n) s ∧
      (n.val < 6 → s.evt.sbEnable.getLsbD n.val = true → s.evt.sbLevel.getLsbD n.val = false → s.evt.sbMasked.getLsbD n.val = false →
        ∃ t, exec (.wake src) s = .next t ∧ t.pwr.trans = some ⟨s.pwr.state, .a0, src⟩ ∧ t.pwr.wakeSource = src)) ∧
    (∀ m : Fin 8, (s.pwr.state = .a2 ∨ s.pwr.state = .a3) → src.toNat = 0x50 + m.val → s.evt.watches src.toNat = true → exec (.wake src) s = exec (.comparatorOccurrence m (s.heldReading m.val)) s) ∧
    ((s.pwr.state = .a0 ∨ s.pwr.state = .a1 ∨ s.evt.watches src.toNat = false) → exec (.wake src) s = .next s) ∧
    (s.pwr.state = .a3 → ∃ t, exec .l12Exit s = .next t ∧ t.pwr.trans = some ⟨.a3, .a0, 0x1FE⟩ ∧ t.pwr.wakeSource = 0x1FE ∧ t.pwr.wakeFrom = 3 ∧ t.mem = s.mem ∧ t.own = s.own ∧ t.ctx = s.ctx ∧ t.cells = s.cells) ∧
    (s.pwr.state ≠ .a3 → exec .l12Exit s = .next s)) ∧
  -- during an entry the first wake that comes waits, and is begun when the entry has completed, before a waiting request
  (∀ (s : State) (x : Transition) (src : BitVec 9), s.ao.railsOn = true → s.pwr.trans = some x → (x.new = .a2 ∨ x.new = .a3) →
    (s.evt.watches src.toNat = true → (src.toNat < 0x40 ∨ 0x58 ≤ src.toNat) → ∃ t, exec (.wake src) s = .next t ∧ t.pwr = { s.pwr with laterWake := some (s.pwr.laterWake.getD src) }) ∧
    (x.new = .a3 → exec .l12Exit s = .next { s with pwr := { s.pwr with laterWake := some (s.pwr.laterWake.getD 0x1FE) } })) ∧
  (∀ (s : State) (x : Transition) (rom : Bool) (lanes : List (Fin 8 × Fin 32 × Nat)) (c : BitVec 9), s.pwr.trans = some x → (x.new = .a2 ∨ x.new = .a3) → x.old ≠ x.new → s.pwr.laterWake = some c →
    s.evt.watches srcPower = false → ∃ t, exec (.powerTransitionComplete rom lanes) s = .next t ∧ t.pwr.state = x.new ∧ t.pwr.trans = some ⟨x.new, .a0, c⟩ ∧ t.pwr.wakeSource = c ∧ t.pwr.laterWake = none ∧
      t.pwr.laterReq = s.pwr.laterReq) ∧
  (∀ (s : State) (x : Transition) (rom : Bool) (lanes : List (Fin 8 × Fin 32 × Nat)), s.canonical = true → s.pwr.trans = some x → s.pwr.laterWake = none → s.pwr.laterReq = none → x.old ≠ x.new →
    s.evt.watches srcPower = false → s.tst.deferred = [] →
    ∃ t, exec (.powerTransitionComplete rom lanes) s = .next t ∧ t.pwr.state = x.new ∧ t.pwr.trans = none ∧ t.fuses = s.fuses ∧ t.mem = s.mem ∧ t.own = s.own ∧ t.ctx.slots = s.ctx.slots ∧ (s.quiet srcPower → t.shows srcPower 0x6007) ∧
      (x.new = .a2 → (∀ k, (t.cell k).power = 0 ∧ (t.cell k).spad = (s.cell k).spad) ∧ (∀ k, (s.stack k).trained = true → (t.stack k).selfRefresh = true ∧ (t.stack k).trained = true)) ∧
      (x.new = .a3 → ∀ k, (t.cell k).spad = [] ∧ (t.cell k).role = (s.cell k).role) ∧
      (x.old = .a0 → x.new = .a1 → ∀ k, t.cell k = (if (s.cell k).power = 2 then { s.cell k with power := 1 } else s.cell k)) ∧
      (x.old = .a1 → x.new = .a0 → ∀ k, t.cell k = (if (s.cell k).power = 1 then { s.cell k with power := 2 } else s.cell k)) ∧
      (x.old = .a3 → x.new = .a0 → s.running = true → rom = false → t.sec.boot = .wait))

/-- The next waiting cell that the budget lets begin starts, counts, and above 30 mV of droop halves the budget and posts 0x6009; a millisecond without droop restores it. A droop trip stretches the clock until it ends, and the stretched periods count (16:R414 to R416, 07:R177). Completes: cellStart, startLimitRestore, droopTrip, stretchEnd. The model's own readings and choices in it: log 112. -/
def Obligations.CellStartsAndStretch : Prop :=
  (∀ (s : State) (d : Fin 16) (c : Fin 68) (mV : Nat), s.startsNow = true →
    (s.nextStart = some (cellKey d.val c.val) → ∃ t, exec (.cellStart d c mV) s = .next t ∧ t.cell (cellKey d.val c.val) = { s.cell (cellKey d.val c.val) with power := 2 } ∧
      (∀ k, k ≠ cellKey d.val c.val → t.cell k = s.cell k) ∧ t.pwr.starts = s.pwr.starts + 1 ∧ t.pwr.recent = s.pwr.recent.filter (fun x => decide (s.now < x.1 + 1000)) ++ [(s.now, cellKey d.val c.val / 68)] ∧
      (mV ≤ 30 → t.pwr.halved = s.pwr.halved ∧ t.pwr.halvings = s.pwr.halvings ∧ t.evt = s.evt) ∧
      (30 < mV → t.pwr.halved = true ∧ t.pwr.lastDroop = s.now ∧ (s.pwr.halved = false → t.pwr.halvings = s.pwr.halvings + 1 ∧ (s.quiet srcPower → t.shows srcPower 0x6009))) ∧
      t.mem = s.mem ∧ t.own = s.own ∧ t.ctx = s.ctx) ∧
    (s.nextStart ≠ some (cellKey d.val c.val) → exec (.cellStart d c mV) s = .next s)) ∧
  (∀ (s : State) (k : Nat), s.nextStart = some k → (s.cell k).power = 0 ∧ (s.cell k).inReset = false ∧ (s.pwr.last s.now).length < (if s.pwr.halved then 8 else 16) ∧
    (s.pwr.last s.now).countP (fun x => x.2 == k / 68) < (if s.pwr.halved then 2 else 4)) ∧
  (∀ (s : State), (s.pwr.halved = true → ∃ t, exec .startLimitRestore s = .next t ∧ t.pwr = { s.pwr with halved := false } ∧ t.mem = s.mem ∧ t.ctx = s.ctx ∧ t.cells = s.cells) ∧ (s.pwr.halved = false → exec .startLimitRestore s = .next s)) ∧
  (∀ (s : State) (d : Fin 16) (n : Nat),
    (s.tickRuns = true → s.dieState d.val = 0 → ∃ t, exec (.droopTrip d) s = .next t ∧ t = { s with pwr := { s.pwr with stretching := true, tripped := t.pwr.tripped } } ∧ d.val ∈ t.pwr.tripped) ∧
    (s.pwr.stretching = true → ∃ t, exec (.stretchEnd n) s = .next t ∧ t.sch = { s.sch with stretch := s.sch.stretch + BitVec.ofNat 64 n } ∧ t.pwr = { s.pwr with stretching := false, tripped := [] } ∧ t.mem = s.mem ∧ t.ctx = s.ctx ∧ t.cells = s.cells) ∧
    (s.pwr.stretching = false → exec (.stretchEnd n) s = .next s))

/-- A sample of a powered sensor is its reading, and an absent one is invalid and posts 0x6006 where the sensor was valid; a stack is HOT above 85 °C until it falls below 80 °C. A thermal or power update doubles its request while a limit is passed, halves it while every reading lies below the lower limits, and keeps it otherwise; the request's rise from 0 posts 0x6001 or 0x6002. The power and the current are the averages of the readings of sensors 44 and 43; without a valid one the power request cannot fall. A flow that has been low for 10 s, and is valid, posts 0x6005 once (16:R421 to R424, R426, 09:R246). Completes: sensorSample, thermalUpdate, powerUpdate, flowWarning. The model's own readings and choices in it: log 109. -/
def Obligations.SensorsAndThrottle : Prop :=
  (∀ (s : State) (n : Fin 82) (v : Option (BitVec 32)), s.canonical = true → n.val ≠ 46 → n.val ≠ 47 → s.sensorPowered n.val = true → s.pwr.sensorBad.contains n.val = false →
    ∃ t, exec (.sensorSample n v) s = .next t ∧ t.sensor n.val = (match v with | some x => ⟨true, x⟩ | none => ⟨false, 0⟩) ∧ (∀ k, k ≠ n.val → t.sensor k = s.sensor k) ∧
      (v = none → s.ao.railsOn = true → (s.sensor n.val).valid = true → s.quiet srcPower → t.shows srcPower 0x6006) ∧
      (∀ x, v = some x → 32 ≤ n.val → n.val < 40 → (85000 < x.toInt → (t.stack (n.val - 32)).hot = true) ∧ (x.toInt < 80000 → (t.stack (n.val - 32)).hot = false) ∧
        (80000 ≤ x.toInt → x.toInt ≤ 85000 → t.stks = s.stks)) ∧ t.mem = s.mem ∧ t.own = s.own ∧ t.ctx = s.ctx ∧ t.cells = s.cells) ∧
  (∀ (s : State), exec (.sensorSample 47 none) s = .next s) ∧
  (∀ (s : State), s.tickRuns = true →
    let die (p : Int → Prop) : Prop := ∃ i, i < 32 ∧ (s.sensor i).valid = true ∧ p (s.sensor i).value.toInt
    let dram (p : Int → Prop) : Prop := ∃ i, 32 ≤ i ∧ i < 40 ∧ (s.sensor i).valid = true ∧ p (s.sensor i).value.toInt
    let up : Prop := die (fun v => 105000 ≤ v) ∨ dram (fun v => 95000 ≤ v)
    let down : Prop := die (fun _ => True) ∧ dram (fun _ => True) ∧ ¬ die (fun v => 100000 ≤ v) ∧ ¬ dram (fun v => 90000 ≤ v)
    ∃ t, exec .thermalUpdate s = .next t ∧ (up → t.sch.thermalQ.toNat = min 65535 (max 1 (2 * s.sch.thermalQ.toNat))) ∧ (down → t.sch.thermalQ.toNat = s.sch.thermalQ.toNat / 2) ∧
      (¬ up → ¬ down → t.sch.thermalQ = s.sch.thermalQ) ∧ (up → s.sch.thermalQ = 0 → s.quiet srcPower → t.shows srcPower 0x6001) ∧ t.sch.powerQ = s.sch.powerQ ∧ (s.asleep = false → t.pwr = s.pwr) ∧ t.mem = s.mem ∧ t.ctx = s.ctx ∧ t.cells = s.cells) ∧
  (∀ (s : State) (ps is : List Nat), s.ao.railsOn = true → s.pwr.state ≠ .a3 →
    let cap := min 3600 (max 1200 s.pwr.cap.toNat) * 1000
    -- the averages over the reading that the sensor holds and the further ones, compared without a division
    let pSum := (s.sensor 44).value.toInt + Int.ofNat ps.sum
    let iSum := (s.sensor 43).value.toInt + Int.ofNat is.sum
    let pN := ps.length + 1
    let iN := is.length + 1
    let up : Prop := ((s.sensor 44).valid = true ∧ Int.ofNat (cap * pN) < pSum) ∨ ((s.sensor 43).valid = true ∧ Int.ofNat (76000 * iN) < iSum)
    let down : Prop := (s.sensor 44).valid = true ∧ (s.sensor 43).valid = true ∧ 100 * pSum < Int.ofNat (95 * cap * pN) ∧ iSum < Int.ofNat (72000 * iN)
    ∃ t, exec (.powerUpdate ps is) s = .next t ∧ (up → t.sch.powerQ.toNat = min 65535 (max 1 (2 * s.sch.powerQ.toNat))) ∧ (down → ¬ up → t.sch.powerQ.toNat = s.sch.powerQ.toNat / 2) ∧
      (¬ up → ¬ down → t.sch.powerQ = s.sch.powerQ) ∧ (up → s.sch.powerQ = 0 → s.quiet srcPower → t.shows srcPower 0x6002) ∧ t.sch.thermalQ = s.sch.thermalQ ∧ (s.asleep = false → t.pwr = s.pwr) ∧
      t.mem = s.mem ∧ t.ctx = s.ctx ∧ t.cells = s.cells) ∧
  (∀ (s : State) (x : Nat), s.pwr.flowSince = some x →
    (s.pwr.flowPosted = false → (s.sensor 46).valid = true → s.sensorPowered 46 = true → ∃ t, exec .flowWarning s = .next t ∧ t.pwr.flowPosted = true ∧ (s.asleep = false → t.pwr = { s.pwr with flowPosted := true }) ∧
      (s.quiet srcPower → t.shows srcPower 0x6005) ∧ t.mem = s.mem ∧ t.ctx = s.ctx ∧ t.cells = s.cells) ∧
    ((s.pwr.flowPosted = true ∨ (s.sensor 46).valid = false ∨ s.sensorPowered 46 = false) → exec .flowWarning s = .next s))

/-- An enabled comparator whose condition becomes true occurs once: it posts 0x6010 or 0x6011, and comparator 0 cuts the main rails, as a thermal trip does, which latches THERMTRIP_N. Without the main rails the main domains hold nothing but the fuses and the fields that only a power-on reset clears; they start again when the input has been in range, and after a trip only when it has fallen as well. A condition becomes false past its hysteresis. A loss of the always-on supply takes the rest, and the supply comes back with the domain as at its reset, the main rails off (16:R417 to R419, R425, 00:R10). Completes: comparatorOccurrence, comparatorConditionClears, thermtrip, mainPowerRestore, alwaysOnPowerLoss, alwaysOnPowerApplied. The model's own readings and choices in it: log 11, 88, 111, 112. -/
def Obligations.AlwaysOnDomain : Prop :=
  let dark (s t : State) : Prop := t.ao.railsOn = false ∧ t.sec.boot = .rom ∧ t.own = .reset ∧ t.ctx = .reset ∧ t.cells = [] ∧ t.mem = ⟨[], [], []⟩ ∧ t.evt.pend = [] ∧ t.evt.ring = none ∧ t.fuses = s.fuses
  let kept (s t : State) : Prop := t.pwr.aoCmp = s.pwr.aoCmp ∧ t.pwr.cmpEn = s.pwr.cmpEn ∧ t.pwr.sigdet = s.pwr.sigdet ∧ t.pwr.outletLim = s.pwr.outletLim ∧ t.pwr.inletLim = s.pwr.inletLim ∧ t.evt.wakeEn = s.evt.wakeEn ∧ t.evt.sbEnable = s.evt.sbEnable
  (∀ (s : State) (m : Fin 8) (v : BitVec 32), s.ao.aoPower = true → s.ao.cmpActive.getLsbD m.val = false →
    (m.val = 0 → s.mayOccur 0 v = true → s.ao.railsOn = true → ∃ t, exec (.comparatorOccurrence m v) s = .next t ∧ dark s t ∧ kept s t ∧ t.ao.logCount = s.ao.logCount + 1 ∧ t.ao.cmpActive.getLsbD 0 = true ∧ t.out = .mainGood false :: s.out) ∧
    (1 ≤ m.val → m.val < 7 → (m.val = 1 ∨ s.pwr.cmpEn.getLsbD m.val = true) → s.mayOccur m.val v = true → s.ao.railsOn = true →
      ∃ t, exec (.comparatorOccurrence m v) s = .next t ∧ t.ao.cmpActive.getLsbD m.val = true ∧ (s.quiet (0x50 + m.val) → t.shows (0x50 + m.val) (if m.val < 4 then 0x6010 else 0x6011)) ∧
        (s.asleep = false → t.pwr = s.pwr) ∧ t.mem = s.mem ∧ t.own = s.own ∧ t.ctx = s.ctx ∧ t.cells = s.cells) ∧
    (m.val = 7 → s.pwr.cmpEn.getLsbD 7 = true → s.pwr.aoCmp ≠ 0 → ∃ t, exec (.comparatorOccurrence m v) s = .next t ∧ t.pwr.aoCmp = 0 ∧ t.ao.cmpActive.getLsbD 7 = false ∧
      t.ao.time = (s.reach s.pwr.aoCmp.toNat).ao.time ∧ (s.ao.railsOn = true → s.quiet 0x57 → t.shows 0x57 0x6011) ∧ t.mem = s.mem ∧ t.own = s.own ∧ t.ctx = s.ctx ∧ t.cells = s.cells)) ∧
  (∀ (s : State) (m : Fin 8) (v : BitVec 32), s.ao.aoPower = true →
    (s.ao.cmpActive.getLsbD m.val = true → exec (.comparatorOccurrence m v) s = .next s) ∧
    (s.mayClear m.val v = false → exec (.comparatorConditionClears ⟨m, v⟩) s = .next s) ∧
    (m.val = 0 → (s.mayClear 0 v = true ↔ 46500 ≤ v.toInt ∧ v.toInt ≤ 58500)) ∧ (m.val = 1 → (s.mayClear 1 v = true ↔ 3150 ≤ v.toInt)) ∧
    (m.val = 2 → (s.mayClear 2 v = true ↔ v.toInt + 2000 ≤ Int.ofNat (s.pwr.inletLim.toNat * 1000))) ∧ (m.val = 3 → (s.mayClear 3 v = true ↔ v.toInt + 2000 ≤ Int.ofNat (s.pwr.outletLim.toNat * 1000))) ∧
    (s.mayClear m.val v = true → ∃ t, exec (.comparatorConditionClears ⟨m, v⟩) s = .next t ∧ t = { s with ao := { s.ao with cmpActive := t.ao.cmpActive } } ∧ t.ao.cmpActive.getLsbD m.val = false ∧ (∀ k, k ≠ m.val → t.ao.cmpActive.getLsbD k = s.ao.cmpActive.getLsbD k))) ∧
  (∀ (s : State) (d : Fin 32), s.ao.railsOn = true → ∃ t, exec (.thermtrip d) s = .next t ∧ dark s t ∧ kept s t ∧ t.ao.tripLatched = true ∧ t.ao.inputFell = false ∧ t.ao.logCount = s.ao.logCount + 1 ∧ t.ao.time = s.ao.time ∧
    t.out = .mainGood false :: .thermtrip :: s.out) ∧
  (∀ (s : State), s.ao.railsOn = false → s.ao.aoPower = true →
    let inRange : Prop := s.ao.cmpActive.getLsbD 0 = false ∧ ((s.sensor 42).valid = true → 47000 ≤ (s.sensor 42).value.toInt ∧ (s.sensor 42).value.toInt ≤ 58500)
    (inRange → (s.ao.tripLatched = false ∨ s.ao.inputFell = true) → ∃ t, exec .mainPowerRestore s = .next t ∧ t.ao.railsOn = true ∧ t.ao.tripLatched = false ∧ t.ao.resetKind = 3 ∧ t.ao.resetCause = 6 ∧
      t.ao.logCount = s.ao.logCount + 1 ∧ t.ao.oos = s.ao.oos ∧ t.ao.retired = s.ao.retired ∧ t.sec.boot = .rom ∧ t.own = .reset ∧ t.ctx = .reset ∧ t.mem = ⟨[], [], []⟩ ∧ t.fuses = s.fuses ∧ t.out = .mainGood true :: s.out) ∧
    ((¬ inRange ∨ (s.ao.tripLatched = true ∧ s.ao.inputFell = false)) → exec .mainPowerRestore s = .next s)) ∧
  (∀ (s : State), s.ao.aoPower = true → ∃ t, exec .alwaysOnPowerLoss s = .next t ∧ dark s t ∧ t.pwr = .reset ∧ t.evt = .reset ∧ t.ao.aoPower = false ∧ t.ao.time = 0 ∧ t.ao.log = [] ∧ t.ao.oos = [] ∧ t.ao.retired = [] ∧ t.ao.gens = []) ∧
  (∀ (s : State), s.ao.aoPower = false → ∃ t, exec .alwaysOnPowerApplied s = .next t ∧ t.ao.aoPower = true ∧ t.ao.railsOn = false ∧ t.ao.time = 0 ∧ t.ao.log = [] ∧ t.ao.oos = [] ∧ t.fuses = s.fuses ∧ t.mem = s.mem ∧ t.own = s.own)

/-! ## Rules of the manual, as it states them -/

/-- Step numbers (01:R28): the step number increments by one at each step boundary; the context whose number would pass 2^40 − 1 faults there, and no step follows. -/
def Obligations.StepNumbersAdvance : Prop :=
  ∀ (s : State) (w : Now), s.canonical = true → s.nowAt = some w → s.sch.begun = true → s.sch.state = .boundary → s.sch.pound = w.g.pounds.length →
    ((s.slot w.slot).step.toNat ≠ 2 ^ 40 - 1 → ∃ t, exec .stepBoundary s = .next t ∧ (t.slot w.slot).step = (s.slot w.slot).step + 1) ∧
    ((s.slot w.slot).step.toNat = 2 ^ 40 - 1 → (s.slot w.slot).state = .active → s.sch.exec.map (·.val) = some w.slot →
      ∃ t, exec .stepBoundary s = .next t ∧ (t.slot w.slot).state = .faulted ∧ t.sch.exec = none ∧ (t.slot w.slot).step = (s.slot w.slot).step)

/-- Occurrences (14:R374): an occurrence latches its record where its source is neither masked nor pending; where it is pending the latched record stands, marked COALESCED, and EVT_COALESCED counts; where it is masked EVT_MASKED counts and nothing is latched; the error log takes each one of its classes, and a warm reset loses what was latched. -/
def Obligations.OccurrencesLatch : Prop :=
  (∀ (s : State) (code source : Nat) (slot : Option Nat) (sev : Nat) (p : BitVec 128),
    let r := s.eventRecord code source slot sev p
    let t := s.postSev code source slot sev p
    (s.isMasked source = false → sget none s.evt.pend source = none → sget none t.evt.pend source = some r ∧ t.evt.coalesced = s.evt.coalesced ∧ t.evt.masked = s.evt.masked) ∧
    (∀ q, s.isMasked source = false → sget none s.evt.pend source = some q → sget none t.evt.pend source = some { q with coalesced := true } ∧ t.evt.coalesced = s.evt.coalesced + 1 ∧ t.evt.masked = s.evt.masked) ∧
    (s.isMasked source = true → t.evt.pend = s.evt.pend ∧ t.evt.masked = s.evt.masked + 1 ∧ t.evt.coalesced = s.evt.coalesced) ∧
    (∀ k, k ≠ source → sget none t.evt.pend k = sget none s.evt.pend k) ∧
    (isLogged code = true → sget none t.ao.log s.ao.logNext.toNat = some r ∧ t.ao.logCount = s.ao.logCount + 1) ∧ (isLogged code = false → t.ao = s.ao)) ∧
  (∀ (s : State) (c : BitVec 8), s.ao.railsOn = true → ∃ t, exec (.warmReset c) s = .next t ∧ t.evt.pend = [] ∧ ∀ k, t.evt.pendingWord k = 0)

/-- The lifecycle and the pack chain (15:R394, R398): in FIELD a LIFECYCLE command without a valid object is refused, in RETURN every one, and an accepted one posts 0x7007; the pack chain is zero after a warm and a power-on reset, and each accepted pack replaces it. -/
def Obligations.LifecycleAndPackChain : Prop :=
  (∀ (s : State) (m : Master) (o : Option Bytes), s.accepts m 0x40008 →
    (s.sec.life = 1 → (∀ b, o = some b → b.length = s.sec.objLen.toNat → s.verify 4 b = 0 → (objHead b).uidBind ≠ s.fuses.uid.toNat) →
      ∃ t, exec (.lifecycle m o) s = .next t ∧ t.fuses = s.fuses ∧ t.sec.reason ≠ 0 ∧ t.sec.lastCmd = 6) ∧
    (s.sec.life = 2 → ∃ t, exec (.lifecycle m o) s = .next t ∧ t.fuses = s.fuses ∧ t.sec.reason ≠ 0 ∧ t.sec.lastCmd = 6) ∧
    (∃ t, exec (.lifecycle m o) s = .next t ∧ (t.sec.reason = 0 → s.quiet srcSec → t.shows srcSec 0x7007)) ∧
    (∃ t, exec (.loadPack m o) s = .next t ∧ (t.sec.reason = 0 → ∃ b, o = some b ∧ t.sec.packChain = shake512 (leBytes 64 s.sec.packChain.toNat ++ leBytes 64 (shake512 b).toNat)) ∧
      (t.sec.reason ≠ 0 → t.sec.packChain = s.sec.packChain))) ∧
  (∀ (s : State) (c : BitVec 8), s.ao.railsOn = true → ∃ t, exec (.warmReset c) s = .next t ∧ t.sec.packChain = 0) ∧
  (∀ (s : State), s.mayPower = true → ∃ t, exec .powerOnReset s = .next t ∧ t.sec.packChain = 0)
end

