-- ==== Sys2Proof/Laws/Sparse.lean ====
section
/-! SUPPORT. Sparse tables: reading after writing, and that every operation keeps the canonical form. -/

namespace Sys2Proof.Machine

open Sys2Proof

variable {α : Type}

@[simp] theorem sget_nil (d : α) (n : Nat) : sget d [] n = d := rfl

theorem sget_cons (d : α) (k : Nat) (v : α) (t : Sparse α) (n : Nat) :
    sget d ((k, v) :: t) n = if k = n then v else sget d t n := rfl

variable [DecidableEq α]

@[simp] theorem swf_nil (d : α) : swf d [] = true := rfl

theorem swfFrom_cons (d : α) (n k : Nat) (v : α) (t : Sparse α) :
    swfFrom d n ((k, v) :: t) = true ↔ n ≤ k ∧ v ≠ d ∧ swfFrom d (k + 1) t = true := by
  simp [swfFrom, and_assoc]

theorem swfFrom_mono (d : α) {m n : Nat} (h : m ≤ n) {t : Sparse α} (ht : swfFrom d n t = true) : swfFrom d m t = true := by
  cases t with
  | nil => rfl
  | cons x t =>
    obtain ⟨k, v⟩ := x
    rw [swfFrom_cons] at ht ⊢
    exact ⟨Nat.le_trans h ht.1, ht.2⟩

/-- A key below all keys of a canonical table reads as the default. -/
theorem sget_of_lt (d : α) {n m : Nat} {t : Sparse α} (ht : swfFrom d n t = true) (h : m < n) : sget d t m = d := by
  induction t generalizing n with
  | nil => rfl
  | cons x t ih =>
    obtain ⟨k, v⟩ := x
    rw [swfFrom_cons] at ht
    rw [sget_cons, if_neg (by omega)]
    exact ih ht.2.2 (by omega)

/-- A write leaves every other key alone. -/
theorem sget_sset_ne (d : α) (t : Sparse α) {n m : Nat} (v : α) (h : m ≠ n) : sget d (sset d t n v) m = sget d t m := by
  induction t with
  | nil => simp only [sset, sput]; split <;> simp [sget_cons, Ne.symm h]
  | cons x t ih =>
    obtain ⟨k, w⟩ := x
    simp only [sset]
    split
    · simp only [sput]; split <;> simp [sget_cons, Ne.symm h]
    · split
      · rename_i h1 h2
        subst h2
        simp only [sput]; split <;> simp [sget_cons, Ne.symm h]
      · simp only [sget_cons, ih]

/-- A read after a write to the same key gives the value written, if it is not the default. -/
theorem sget_sset_new (d : α) (t : Sparse α) (n : Nat) {v : α} (hv : v ≠ d) : sget d (sset d t n v) n = v := by
  induction t with
  | nil => simp [sset, sput, hv, sget_cons]
  | cons x t ih =>
    obtain ⟨k, w⟩ := x
    simp only [sset]
    split
    · simp [sput, hv, sget_cons]
    · split
      · simp [sput, hv, sget_cons]
      · rw [sget_cons, if_neg (by omega), ih]

/-- A read after a write to the same key of a canonical table. -/
theorem sget_sset_self (d : α) {t : Sparse α} (ht : swf d t = true) (n : Nat) (v : α) : sget d (sset d t n v) n = v := by
  by_cases hv : v = d
  · subst hv
    have key : ∀ (m : Nat) (t : Sparse α), swfFrom v m t = true → sget v (sset v t n v) n = v := by
      intro m t
      induction t generalizing m with
      | nil => intro _; simp [sset, sput]
      | cons x t ih =>
        obtain ⟨k, w⟩ := x
        intro h
        rw [swfFrom_cons] at h
        simp only [sset]
        split
        · simp only [sput, if_true, sget_cons]
          rw [if_neg (by omega)]
          exact sget_of_lt v h.2.2 (by omega)
        · split
          · simp only [sput, if_true]
            exact sget_of_lt v h.2.2 (by omega)
          · rw [sget_cons, if_neg (by omega)]
            exact ih (k + 1) h.2.2
    exact key 0 t ht
  · exact sget_sset_new d t n hv

theorem swfFrom_sset (d : α) {m n : Nat} (hn : m ≤ n) (v : α) {t : Sparse α} (ht : swfFrom d m t = true) :
    swfFrom d m (sset d t n v) = true := by
  induction t generalizing m with
  | nil =>
    simp only [sset, sput]
    split
    · rfl
    · rename_i h
      rw [swfFrom_cons]
      exact ⟨hn, h, rfl⟩
  | cons x t ih =>
    obtain ⟨k, w⟩ := x
    have h := (swfFrom_cons d m k w t).mp ht
    simp only [sset]
    split
    · rename_i hlt
      simp only [sput]
      split
      · exact ht
      · rename_i hv
        rw [swfFrom_cons, swfFrom_cons]
        exact ⟨hn, hv, by omega, h.2⟩
    · split
      · rename_i heq
        subst heq
        simp only [sput]
        split
        · exact swfFrom_mono d (by omega) h.2.2
        · rename_i hv
          rw [swfFrom_cons]
          exact ⟨h.1, hv, h.2.2⟩
      · rw [swfFrom_cons]
        exact ⟨h.1, h.2.1, ih (by omega) h.2.2⟩

/-- A write keeps the canonical form. -/
theorem swf_sset (d : α) {t : Sparse α} (ht : swf d t = true) (n : Nat) (v : α) : swf d (sset d t n v) = true :=
  swfFrom_sset d (Nat.zero_le n) v ht

/-- A write of consecutive keys keeps the canonical form. -/
theorem swf_swrite (d : α) (l : List α) {t : Sparse α} (ht : swf d t = true) (a : Nat) : swf d (swrite d t a l) = true := by
  induction l generalizing t a with
  | nil => exact ht
  | cons v l ih => exact ih (swf_sset d ht a v) (a + 1)

/-- Removing entries keeps the canonical form. -/
theorem swf_filter (d : α) (p : Nat × α → Bool) {t : Sparse α} (ht : swf d t = true) : swf d (t.filter p) = true := by
  have key : ∀ (m : Nat) (t : Sparse α), swfFrom d m t = true → swfFrom d m (t.filter p) = true := by
    intro m t
    induction t generalizing m with
    | nil => exact id
    | cons x t ih =>
      obtain ⟨k, w⟩ := x
      intro h
      rw [swfFrom_cons] at h
      rw [List.filter_cons]
      split
      · rw [swfFrom_cons]
        exact ⟨h.1, h.2.1, ih (k + 1) h.2.2⟩
      · exact ih m (swfFrom_mono d (by omega) h.2.2)
  exact key 0 t ht

omit [DecidableEq α] in
/-- A table without the entries of some keys reads as the default there, and as before elsewhere. -/
theorem sget_filter (d : α) (p : Nat → Bool) (t : Sparse α) (k : Nat) : sget d (t.filter (fun x => p x.1)) k = if p k then sget d t k else d := by
  induction t with
  | nil => simp [sget]
  | cons x t ih =>
    obtain ⟨m, w⟩ := x
    rw [List.filter_cons]
    by_cases hk : m = k
    · subst hk
      by_cases hp : p m <;> simp_all [sget]
    · by_cases hp : p m <;> simp_all [sget]

/-- Changing every value keeps the canonical form. -/
theorem swf_smap (d : α) (f : α → α) {t : Sparse α} (ht : swf d t = true) : swf d (smap d f t) = true := by
  have key : ∀ (m : Nat) (t : Sparse α), swfFrom d m t = true → swfFrom d m (smap d f t) = true := by
    intro m t
    induction t generalizing m with
    | nil => exact id
    | cons x t ih =>
      obtain ⟨k, w⟩ := x
      intro h
      rw [swfFrom_cons] at h
      simp only [smap, sput]
      split
      · exact swfFrom_mono d (by omega) (ih (k + 1) h.2.2)
      · rename_i hv
        rw [swfFrom_cons]
        exact ⟨h.1, hv, ih (k + 1) h.2.2⟩
  exact key 0 t ht

/-- A write of consecutive keys leaves the keys outside the range alone. -/
theorem sget_swrite_out (d : α) (l : List α) (t : Sparse α) {a m : Nat} (h : m < a ∨ a + l.length ≤ m) :
    sget d (swrite d t a l) m = sget d t m := by
  induction l generalizing t a with
  | nil => rfl
  | cons v l ih =>
    simp only [List.length_cons] at h
    rw [swrite, ih (sset d t a v) (by omega), sget_sset_ne d t v (by omega)]

/-- A read inside a range just written gives the value written. -/
theorem sget_swrite_in (d : α) (l : List α) {t : Sparse α} (ht : swf d t = true) {a m : Nat} (h : a ≤ m) (h' : m < a + l.length) :
    sget d (swrite d t a l) m = l.getD (m - a) d := by
  induction l generalizing t a with
  | nil => simp at h'; omega
  | cons v l ih =>
    simp only [List.length_cons] at h'
    rw [swrite]
    by_cases hm : m = a
    · subst hm
      rw [sget_swrite_out d l _ (by omega), sget_sset_self d ht]
      simp
    · rw [ih (swf_sset d ht a v) (by omega) (by omega)]
      have : m - a = (m - (a + 1)) + 1 := by omega
      rw [this]
      simp

/-- A read of a range just written gives what was written. -/
theorem sread_swrite (d : α) {t : Sparse α} (ht : swf d t = true) (a : Nat) (l : List α) : sread d (swrite d t a l) a l.length = l := by
  unfold sread
  apply List.ext_getElem
  · simp
  · intro i h1 h2
    simp only [List.length_map, List.length_range] at h1
    rw [List.getElem_map, List.getElem_range, sget_swrite_in d l ht (by omega) (by omega), Nat.add_sub_cancel_left]
    simp [h2]

end Sys2Proof.Machine
end

