-- ==== Sys2Proof/Laws/State.lean ====
section
/-! SUPPORT. What each named update leaves alone: one lemma for each field of State and each update, and what the updated table reads. -/

namespace Sys2Proof.Machine

open Sys2Proof

variable (s : State)

@[simp] theorem State.setSlot_pending (n : Nat) (v : Slot) : (s.setSlot n v).pending = s.pending := rfl
@[simp] theorem State.setSlot_out (n : Nat) (v : Slot) : (s.setSlot n v).out = s.out := rfl
@[simp] theorem State.setSlot_fresh (n : Nat) (v : Slot) : (s.setSlot n v).fresh = s.fresh := rfl
@[simp] theorem State.setSlot_ao (n : Nat) (v : Slot) : (s.setSlot n v).ao = s.ao := rfl
@[simp] theorem State.setSlot_fuses (n : Nat) (v : Slot) : (s.setSlot n v).fuses = s.fuses := rfl
@[simp] theorem State.setSlot_sec (n : Nat) (v : Slot) : (s.setSlot n v).sec = s.sec := rfl
@[simp] theorem State.setSlot_tst (n : Nat) (v : Slot) : (s.setSlot n v).tst = s.tst := rfl
@[simp] theorem State.setSlot_glb (n : Nat) (v : Slot) : (s.setSlot n v).glb = s.glb := rfl
@[simp] theorem State.setSlot_own (n : Nat) (v : Slot) : (s.setSlot n v).own = s.own := rfl
@[simp] theorem State.setSlot_evt (n : Nat) (v : Slot) : (s.setSlot n v).evt = s.evt := rfl
@[simp] theorem State.setSlot_pwr (n : Nat) (v : Slot) : (s.setSlot n v).pwr = s.pwr := rfl
@[simp] theorem State.setSlot_sch (n : Nat) (v : Slot) : (s.setSlot n v).sch = s.sch := rfl
@[simp] theorem State.setSlot_num (n : Nat) (v : Slot) : (s.setSlot n v).num = s.num := rfl
@[simp] theorem State.setSlot_wld (n : Nat) (v : Slot) : (s.setSlot n v).wld = s.wld := rfl
@[simp] theorem State.setSlot_flt (n : Nat) (v : Slot) : (s.setSlot n v).flt = s.flt := rfl
@[simp] theorem State.setSlot_stacks (n : Nat) (v : Slot) : (s.setSlot n v).stks = s.stks := rfl
@[simp] theorem State.setSlot_mem (n : Nat) (v : Slot) : (s.setSlot n v).mem = s.mem := rfl
@[simp] theorem State.setSlot_lnk (n : Nat) (v : Slot) : (s.setSlot n v).lnk = s.lnk := rfl
@[simp] theorem State.setSlot_cells (n : Nat) (v : Slot) : (s.setSlot n v).cells = s.cells := rfl
@[simp] theorem State.setSlot_flight (n : Nat) (v : Slot) : (s.setSlot n v).flight = s.flight := rfl

@[simp] theorem State.modSlot_pending (n : Nat) (f : Slot → Slot) : (s.modSlot n f).pending = s.pending := rfl
@[simp] theorem State.modSlot_out (n : Nat) (f : Slot → Slot) : (s.modSlot n f).out = s.out := rfl
@[simp] theorem State.modSlot_fresh (n : Nat) (f : Slot → Slot) : (s.modSlot n f).fresh = s.fresh := rfl
@[simp] theorem State.modSlot_ao (n : Nat) (f : Slot → Slot) : (s.modSlot n f).ao = s.ao := rfl
@[simp] theorem State.modSlot_fuses (n : Nat) (f : Slot → Slot) : (s.modSlot n f).fuses = s.fuses := rfl
@[simp] theorem State.modSlot_sec (n : Nat) (f : Slot → Slot) : (s.modSlot n f).sec = s.sec := rfl
@[simp] theorem State.modSlot_tst (n : Nat) (f : Slot → Slot) : (s.modSlot n f).tst = s.tst := rfl
@[simp] theorem State.modSlot_glb (n : Nat) (f : Slot → Slot) : (s.modSlot n f).glb = s.glb := rfl
@[simp] theorem State.modSlot_own (n : Nat) (f : Slot → Slot) : (s.modSlot n f).own = s.own := rfl
@[simp] theorem State.modSlot_evt (n : Nat) (f : Slot → Slot) : (s.modSlot n f).evt = s.evt := rfl
@[simp] theorem State.modSlot_pwr (n : Nat) (f : Slot → Slot) : (s.modSlot n f).pwr = s.pwr := rfl
@[simp] theorem State.modSlot_sch (n : Nat) (f : Slot → Slot) : (s.modSlot n f).sch = s.sch := rfl
@[simp] theorem State.modSlot_num (n : Nat) (f : Slot → Slot) : (s.modSlot n f).num = s.num := rfl
@[simp] theorem State.modSlot_wld (n : Nat) (f : Slot → Slot) : (s.modSlot n f).wld = s.wld := rfl
@[simp] theorem State.modSlot_flt (n : Nat) (f : Slot → Slot) : (s.modSlot n f).flt = s.flt := rfl
@[simp] theorem State.modSlot_stacks (n : Nat) (f : Slot → Slot) : (s.modSlot n f).stks = s.stks := rfl
@[simp] theorem State.modSlot_mem (n : Nat) (f : Slot → Slot) : (s.modSlot n f).mem = s.mem := rfl
@[simp] theorem State.modSlot_lnk (n : Nat) (f : Slot → Slot) : (s.modSlot n f).lnk = s.lnk := rfl
@[simp] theorem State.modSlot_cells (n : Nat) (f : Slot → Slot) : (s.modSlot n f).cells = s.cells := rfl
@[simp] theorem State.modSlot_flight (n : Nat) (f : Slot → Slot) : (s.modSlot n f).flight = s.flight := rfl

@[simp] theorem State.setCell_pending (k : Nat) (v : Cell) : (s.setCell k v).pending = s.pending := rfl
@[simp] theorem State.setCell_out (k : Nat) (v : Cell) : (s.setCell k v).out = s.out := rfl
@[simp] theorem State.setCell_fresh (k : Nat) (v : Cell) : (s.setCell k v).fresh = s.fresh := rfl
@[simp] theorem State.setCell_ao (k : Nat) (v : Cell) : (s.setCell k v).ao = s.ao := rfl
@[simp] theorem State.setCell_fuses (k : Nat) (v : Cell) : (s.setCell k v).fuses = s.fuses := rfl
@[simp] theorem State.setCell_sec (k : Nat) (v : Cell) : (s.setCell k v).sec = s.sec := rfl
@[simp] theorem State.setCell_tst (k : Nat) (v : Cell) : (s.setCell k v).tst = s.tst := rfl
@[simp] theorem State.setCell_glb (k : Nat) (v : Cell) : (s.setCell k v).glb = s.glb := rfl
@[simp] theorem State.setCell_own (k : Nat) (v : Cell) : (s.setCell k v).own = s.own := rfl
@[simp] theorem State.setCell_evt (k : Nat) (v : Cell) : (s.setCell k v).evt = s.evt := rfl
@[simp] theorem State.setCell_pwr (k : Nat) (v : Cell) : (s.setCell k v).pwr = s.pwr := rfl
@[simp] theorem State.setCell_ctx (k : Nat) (v : Cell) : (s.setCell k v).ctx = s.ctx := rfl
@[simp] theorem State.setCell_sch (k : Nat) (v : Cell) : (s.setCell k v).sch = s.sch := rfl
@[simp] theorem State.setCell_num (k : Nat) (v : Cell) : (s.setCell k v).num = s.num := rfl
@[simp] theorem State.setCell_wld (k : Nat) (v : Cell) : (s.setCell k v).wld = s.wld := rfl
@[simp] theorem State.setCell_flt (k : Nat) (v : Cell) : (s.setCell k v).flt = s.flt := rfl
@[simp] theorem State.setCell_stacks (k : Nat) (v : Cell) : (s.setCell k v).stks = s.stks := rfl
@[simp] theorem State.setCell_mem (k : Nat) (v : Cell) : (s.setCell k v).mem = s.mem := rfl
@[simp] theorem State.setCell_lnk (k : Nat) (v : Cell) : (s.setCell k v).lnk = s.lnk := rfl
@[simp] theorem State.setCell_flight (k : Nat) (v : Cell) : (s.setCell k v).flight = s.flight := rfl

@[simp] theorem State.modCell_pending (k : Nat) (f : Cell → Cell) : (s.modCell k f).pending = s.pending := rfl
@[simp] theorem State.modCell_out (k : Nat) (f : Cell → Cell) : (s.modCell k f).out = s.out := rfl
@[simp] theorem State.modCell_fresh (k : Nat) (f : Cell → Cell) : (s.modCell k f).fresh = s.fresh := rfl
@[simp] theorem State.modCell_ao (k : Nat) (f : Cell → Cell) : (s.modCell k f).ao = s.ao := rfl
@[simp] theorem State.modCell_fuses (k : Nat) (f : Cell → Cell) : (s.modCell k f).fuses = s.fuses := rfl
@[simp] theorem State.modCell_sec (k : Nat) (f : Cell → Cell) : (s.modCell k f).sec = s.sec := rfl
@[simp] theorem State.modCell_tst (k : Nat) (f : Cell → Cell) : (s.modCell k f).tst = s.tst := rfl
@[simp] theorem State.modCell_glb (k : Nat) (f : Cell → Cell) : (s.modCell k f).glb = s.glb := rfl
@[simp] theorem State.modCell_own (k : Nat) (f : Cell → Cell) : (s.modCell k f).own = s.own := rfl
@[simp] theorem State.modCell_evt (k : Nat) (f : Cell → Cell) : (s.modCell k f).evt = s.evt := rfl
@[simp] theorem State.modCell_pwr (k : Nat) (f : Cell → Cell) : (s.modCell k f).pwr = s.pwr := rfl
@[simp] theorem State.modCell_ctx (k : Nat) (f : Cell → Cell) : (s.modCell k f).ctx = s.ctx := rfl
@[simp] theorem State.modCell_sch (k : Nat) (f : Cell → Cell) : (s.modCell k f).sch = s.sch := rfl
@[simp] theorem State.modCell_num (k : Nat) (f : Cell → Cell) : (s.modCell k f).num = s.num := rfl
@[simp] theorem State.modCell_wld (k : Nat) (f : Cell → Cell) : (s.modCell k f).wld = s.wld := rfl
@[simp] theorem State.modCell_flt (k : Nat) (f : Cell → Cell) : (s.modCell k f).flt = s.flt := rfl
@[simp] theorem State.modCell_stacks (k : Nat) (f : Cell → Cell) : (s.modCell k f).stks = s.stks := rfl
@[simp] theorem State.modCell_mem (k : Nat) (f : Cell → Cell) : (s.modCell k f).mem = s.mem := rfl
@[simp] theorem State.modCell_lnk (k : Nat) (f : Cell → Cell) : (s.modCell k f).lnk = s.lnk := rfl
@[simp] theorem State.modCell_flight (k : Nat) (f : Cell → Cell) : (s.modCell k f).flight = s.flight := rfl

@[simp] theorem State.setStack_pending (k : Nat) (v : Stack) : (s.setStack k v).pending = s.pending := rfl
@[simp] theorem State.setStack_out (k : Nat) (v : Stack) : (s.setStack k v).out = s.out := rfl
@[simp] theorem State.setStack_fresh (k : Nat) (v : Stack) : (s.setStack k v).fresh = s.fresh := rfl
@[simp] theorem State.setStack_ao (k : Nat) (v : Stack) : (s.setStack k v).ao = s.ao := rfl
@[simp] theorem State.setStack_fuses (k : Nat) (v : Stack) : (s.setStack k v).fuses = s.fuses := rfl
@[simp] theorem State.setStack_sec (k : Nat) (v : Stack) : (s.setStack k v).sec = s.sec := rfl
@[simp] theorem State.setStack_tst (k : Nat) (v : Stack) : (s.setStack k v).tst = s.tst := rfl
@[simp] theorem State.setStack_glb (k : Nat) (v : Stack) : (s.setStack k v).glb = s.glb := rfl
@[simp] theorem State.setStack_own (k : Nat) (v : Stack) : (s.setStack k v).own = s.own := rfl
@[simp] theorem State.setStack_evt (k : Nat) (v : Stack) : (s.setStack k v).evt = s.evt := rfl
@[simp] theorem State.setStack_pwr (k : Nat) (v : Stack) : (s.setStack k v).pwr = s.pwr := rfl
@[simp] theorem State.setStack_ctx (k : Nat) (v : Stack) : (s.setStack k v).ctx = s.ctx := rfl
@[simp] theorem State.setStack_sch (k : Nat) (v : Stack) : (s.setStack k v).sch = s.sch := rfl
@[simp] theorem State.setStack_num (k : Nat) (v : Stack) : (s.setStack k v).num = s.num := rfl
@[simp] theorem State.setStack_wld (k : Nat) (v : Stack) : (s.setStack k v).wld = s.wld := rfl
@[simp] theorem State.setStack_flt (k : Nat) (v : Stack) : (s.setStack k v).flt = s.flt := rfl
@[simp] theorem State.setStack_mem (k : Nat) (v : Stack) : (s.setStack k v).mem = s.mem := rfl
@[simp] theorem State.setStack_lnk (k : Nat) (v : Stack) : (s.setStack k v).lnk = s.lnk := rfl
@[simp] theorem State.setStack_cells (k : Nat) (v : Stack) : (s.setStack k v).cells = s.cells := rfl
@[simp] theorem State.setStack_flight (k : Nat) (v : Stack) : (s.setStack k v).flight = s.flight := rfl

@[simp] theorem State.modStack_pending (k : Nat) (f : Stack → Stack) : (s.modStack k f).pending = s.pending := rfl
@[simp] theorem State.modStack_out (k : Nat) (f : Stack → Stack) : (s.modStack k f).out = s.out := rfl
@[simp] theorem State.modStack_fresh (k : Nat) (f : Stack → Stack) : (s.modStack k f).fresh = s.fresh := rfl
@[simp] theorem State.modStack_ao (k : Nat) (f : Stack → Stack) : (s.modStack k f).ao = s.ao := rfl
@[simp] theorem State.modStack_fuses (k : Nat) (f : Stack → Stack) : (s.modStack k f).fuses = s.fuses := rfl
@[simp] theorem State.modStack_sec (k : Nat) (f : Stack → Stack) : (s.modStack k f).sec = s.sec := rfl
@[simp] theorem State.modStack_tst (k : Nat) (f : Stack → Stack) : (s.modStack k f).tst = s.tst := rfl
@[simp] theorem State.modStack_glb (k : Nat) (f : Stack → Stack) : (s.modStack k f).glb = s.glb := rfl
@[simp] theorem State.modStack_own (k : Nat) (f : Stack → Stack) : (s.modStack k f).own = s.own := rfl
@[simp] theorem State.modStack_evt (k : Nat) (f : Stack → Stack) : (s.modStack k f).evt = s.evt := rfl
@[simp] theorem State.modStack_pwr (k : Nat) (f : Stack → Stack) : (s.modStack k f).pwr = s.pwr := rfl
@[simp] theorem State.modStack_ctx (k : Nat) (f : Stack → Stack) : (s.modStack k f).ctx = s.ctx := rfl
@[simp] theorem State.modStack_sch (k : Nat) (f : Stack → Stack) : (s.modStack k f).sch = s.sch := rfl
@[simp] theorem State.modStack_num (k : Nat) (f : Stack → Stack) : (s.modStack k f).num = s.num := rfl
@[simp] theorem State.modStack_wld (k : Nat) (f : Stack → Stack) : (s.modStack k f).wld = s.wld := rfl
@[simp] theorem State.modStack_flt (k : Nat) (f : Stack → Stack) : (s.modStack k f).flt = s.flt := rfl
@[simp] theorem State.modStack_mem (k : Nat) (f : Stack → Stack) : (s.modStack k f).mem = s.mem := rfl
@[simp] theorem State.modStack_lnk (k : Nat) (f : Stack → Stack) : (s.modStack k f).lnk = s.lnk := rfl
@[simp] theorem State.modStack_cells (k : Nat) (f : Stack → Stack) : (s.modStack k f).cells = s.cells := rfl
@[simp] theorem State.modStack_flight (k : Nat) (f : Stack → Stack) : (s.modStack k f).flight = s.flight := rfl

@[simp] theorem State.setPort_pending (k : Nat) (v : Port) : (s.setPort k v).pending = s.pending := rfl
@[simp] theorem State.setPort_out (k : Nat) (v : Port) : (s.setPort k v).out = s.out := rfl
@[simp] theorem State.setPort_fresh (k : Nat) (v : Port) : (s.setPort k v).fresh = s.fresh := rfl
@[simp] theorem State.setPort_ao (k : Nat) (v : Port) : (s.setPort k v).ao = s.ao := rfl
@[simp] theorem State.setPort_fuses (k : Nat) (v : Port) : (s.setPort k v).fuses = s.fuses := rfl
@[simp] theorem State.setPort_sec (k : Nat) (v : Port) : (s.setPort k v).sec = s.sec := rfl
@[simp] theorem State.setPort_tst (k : Nat) (v : Port) : (s.setPort k v).tst = s.tst := rfl
@[simp] theorem State.setPort_glb (k : Nat) (v : Port) : (s.setPort k v).glb = s.glb := rfl
@[simp] theorem State.setPort_own (k : Nat) (v : Port) : (s.setPort k v).own = s.own := rfl
@[simp] theorem State.setPort_evt (k : Nat) (v : Port) : (s.setPort k v).evt = s.evt := rfl
@[simp] theorem State.setPort_pwr (k : Nat) (v : Port) : (s.setPort k v).pwr = s.pwr := rfl
@[simp] theorem State.setPort_ctx (k : Nat) (v : Port) : (s.setPort k v).ctx = s.ctx := rfl
@[simp] theorem State.setPort_sch (k : Nat) (v : Port) : (s.setPort k v).sch = s.sch := rfl
@[simp] theorem State.setPort_num (k : Nat) (v : Port) : (s.setPort k v).num = s.num := rfl
@[simp] theorem State.setPort_wld (k : Nat) (v : Port) : (s.setPort k v).wld = s.wld := rfl
@[simp] theorem State.setPort_flt (k : Nat) (v : Port) : (s.setPort k v).flt = s.flt := rfl
@[simp] theorem State.setPort_stacks (k : Nat) (v : Port) : (s.setPort k v).stks = s.stks := rfl
@[simp] theorem State.setPort_mem (k : Nat) (v : Port) : (s.setPort k v).mem = s.mem := rfl
@[simp] theorem State.setPort_cells (k : Nat) (v : Port) : (s.setPort k v).cells = s.cells := rfl
@[simp] theorem State.setPort_flight (k : Nat) (v : Port) : (s.setPort k v).flight = s.flight := rfl

@[simp] theorem State.modPort_pending (k : Nat) (f : Port → Port) : (s.modPort k f).pending = s.pending := rfl
@[simp] theorem State.modPort_out (k : Nat) (f : Port → Port) : (s.modPort k f).out = s.out := rfl
@[simp] theorem State.modPort_fresh (k : Nat) (f : Port → Port) : (s.modPort k f).fresh = s.fresh := rfl
@[simp] theorem State.modPort_ao (k : Nat) (f : Port → Port) : (s.modPort k f).ao = s.ao := rfl
@[simp] theorem State.modPort_fuses (k : Nat) (f : Port → Port) : (s.modPort k f).fuses = s.fuses := rfl
@[simp] theorem State.modPort_sec (k : Nat) (f : Port → Port) : (s.modPort k f).sec = s.sec := rfl
@[simp] theorem State.modPort_tst (k : Nat) (f : Port → Port) : (s.modPort k f).tst = s.tst := rfl
@[simp] theorem State.modPort_glb (k : Nat) (f : Port → Port) : (s.modPort k f).glb = s.glb := rfl
@[simp] theorem State.modPort_own (k : Nat) (f : Port → Port) : (s.modPort k f).own = s.own := rfl
@[simp] theorem State.modPort_evt (k : Nat) (f : Port → Port) : (s.modPort k f).evt = s.evt := rfl
@[simp] theorem State.modPort_pwr (k : Nat) (f : Port → Port) : (s.modPort k f).pwr = s.pwr := rfl
@[simp] theorem State.modPort_ctx (k : Nat) (f : Port → Port) : (s.modPort k f).ctx = s.ctx := rfl
@[simp] theorem State.modPort_sch (k : Nat) (f : Port → Port) : (s.modPort k f).sch = s.sch := rfl
@[simp] theorem State.modPort_num (k : Nat) (f : Port → Port) : (s.modPort k f).num = s.num := rfl
@[simp] theorem State.modPort_wld (k : Nat) (f : Port → Port) : (s.modPort k f).wld = s.wld := rfl
@[simp] theorem State.modPort_flt (k : Nat) (f : Port → Port) : (s.modPort k f).flt = s.flt := rfl
@[simp] theorem State.modPort_stacks (k : Nat) (f : Port → Port) : (s.modPort k f).stks = s.stks := rfl
@[simp] theorem State.modPort_mem (k : Nat) (f : Port → Port) : (s.modPort k f).mem = s.mem := rfl
@[simp] theorem State.modPort_cells (k : Nat) (f : Port → Port) : (s.modPort k f).cells = s.cells := rfl
@[simp] theorem State.modPort_flight (k : Nat) (f : Port → Port) : (s.modPort k f).flight = s.flight := rfl

@[simp] theorem State.setChan_pending (k : Nat) (v : DmaChan) : (s.setChan k v).pending = s.pending := rfl
@[simp] theorem State.setChan_out (k : Nat) (v : DmaChan) : (s.setChan k v).out = s.out := rfl
@[simp] theorem State.setChan_fresh (k : Nat) (v : DmaChan) : (s.setChan k v).fresh = s.fresh := rfl
@[simp] theorem State.setChan_ao (k : Nat) (v : DmaChan) : (s.setChan k v).ao = s.ao := rfl
@[simp] theorem State.setChan_fuses (k : Nat) (v : DmaChan) : (s.setChan k v).fuses = s.fuses := rfl
@[simp] theorem State.setChan_sec (k : Nat) (v : DmaChan) : (s.setChan k v).sec = s.sec := rfl
@[simp] theorem State.setChan_tst (k : Nat) (v : DmaChan) : (s.setChan k v).tst = s.tst := rfl
@[simp] theorem State.setChan_own (k : Nat) (v : DmaChan) : (s.setChan k v).own = s.own := rfl
@[simp] theorem State.setChan_evt (k : Nat) (v : DmaChan) : (s.setChan k v).evt = s.evt := rfl
@[simp] theorem State.setChan_pwr (k : Nat) (v : DmaChan) : (s.setChan k v).pwr = s.pwr := rfl
@[simp] theorem State.setChan_ctx (k : Nat) (v : DmaChan) : (s.setChan k v).ctx = s.ctx := rfl
@[simp] theorem State.setChan_sch (k : Nat) (v : DmaChan) : (s.setChan k v).sch = s.sch := rfl
@[simp] theorem State.setChan_num (k : Nat) (v : DmaChan) : (s.setChan k v).num = s.num := rfl
@[simp] theorem State.setChan_wld (k : Nat) (v : DmaChan) : (s.setChan k v).wld = s.wld := rfl
@[simp] theorem State.setChan_flt (k : Nat) (v : DmaChan) : (s.setChan k v).flt = s.flt := rfl
@[simp] theorem State.setChan_stacks (k : Nat) (v : DmaChan) : (s.setChan k v).stks = s.stks := rfl
@[simp] theorem State.setChan_mem (k : Nat) (v : DmaChan) : (s.setChan k v).mem = s.mem := rfl
@[simp] theorem State.setChan_lnk (k : Nat) (v : DmaChan) : (s.setChan k v).lnk = s.lnk := rfl
@[simp] theorem State.setChan_cells (k : Nat) (v : DmaChan) : (s.setChan k v).cells = s.cells := rfl
@[simp] theorem State.setChan_flight (k : Nat) (v : DmaChan) : (s.setChan k v).flight = s.flight := rfl

@[simp] theorem State.modChan_pending (k : Nat) (f : DmaChan → DmaChan) : (s.modChan k f).pending = s.pending := rfl
@[simp] theorem State.modChan_out (k : Nat) (f : DmaChan → DmaChan) : (s.modChan k f).out = s.out := rfl
@[simp] theorem State.modChan_fresh (k : Nat) (f : DmaChan → DmaChan) : (s.modChan k f).fresh = s.fresh := rfl
@[simp] theorem State.modChan_ao (k : Nat) (f : DmaChan → DmaChan) : (s.modChan k f).ao = s.ao := rfl
@[simp] theorem State.modChan_fuses (k : Nat) (f : DmaChan → DmaChan) : (s.modChan k f).fuses = s.fuses := rfl
@[simp] theorem State.modChan_sec (k : Nat) (f : DmaChan → DmaChan) : (s.modChan k f).sec = s.sec := rfl
@[simp] theorem State.modChan_tst (k : Nat) (f : DmaChan → DmaChan) : (s.modChan k f).tst = s.tst := rfl
@[simp] theorem State.modChan_own (k : Nat) (f : DmaChan → DmaChan) : (s.modChan k f).own = s.own := rfl
@[simp] theorem State.modChan_evt (k : Nat) (f : DmaChan → DmaChan) : (s.modChan k f).evt = s.evt := rfl
@[simp] theorem State.modChan_pwr (k : Nat) (f : DmaChan → DmaChan) : (s.modChan k f).pwr = s.pwr := rfl
@[simp] theorem State.modChan_ctx (k : Nat) (f : DmaChan → DmaChan) : (s.modChan k f).ctx = s.ctx := rfl
@[simp] theorem State.modChan_sch (k : Nat) (f : DmaChan → DmaChan) : (s.modChan k f).sch = s.sch := rfl
@[simp] theorem State.modChan_num (k : Nat) (f : DmaChan → DmaChan) : (s.modChan k f).num = s.num := rfl
@[simp] theorem State.modChan_wld (k : Nat) (f : DmaChan → DmaChan) : (s.modChan k f).wld = s.wld := rfl
@[simp] theorem State.modChan_flt (k : Nat) (f : DmaChan → DmaChan) : (s.modChan k f).flt = s.flt := rfl
@[simp] theorem State.modChan_stacks (k : Nat) (f : DmaChan → DmaChan) : (s.modChan k f).stks = s.stks := rfl
@[simp] theorem State.modChan_mem (k : Nat) (f : DmaChan → DmaChan) : (s.modChan k f).mem = s.mem := rfl
@[simp] theorem State.modChan_lnk (k : Nat) (f : DmaChan → DmaChan) : (s.modChan k f).lnk = s.lnk := rfl
@[simp] theorem State.modChan_cells (k : Nat) (f : DmaChan → DmaChan) : (s.modChan k f).cells = s.cells := rfl
@[simp] theorem State.modChan_flight (k : Nat) (f : DmaChan → DmaChan) : (s.modChan k f).flight = s.flight := rfl

@[simp] theorem State.setNumSlot_pending (k : Nat) (v : NumSlot) : (s.setNumSlot k v).pending = s.pending := rfl
@[simp] theorem State.setNumSlot_out (k : Nat) (v : NumSlot) : (s.setNumSlot k v).out = s.out := rfl
@[simp] theorem State.setNumSlot_fresh (k : Nat) (v : NumSlot) : (s.setNumSlot k v).fresh = s.fresh := rfl
@[simp] theorem State.setNumSlot_ao (k : Nat) (v : NumSlot) : (s.setNumSlot k v).ao = s.ao := rfl
@[simp] theorem State.setNumSlot_fuses (k : Nat) (v : NumSlot) : (s.setNumSlot k v).fuses = s.fuses := rfl
@[simp] theorem State.setNumSlot_sec (k : Nat) (v : NumSlot) : (s.setNumSlot k v).sec = s.sec := rfl
@[simp] theorem State.setNumSlot_tst (k : Nat) (v : NumSlot) : (s.setNumSlot k v).tst = s.tst := rfl
@[simp] theorem State.setNumSlot_glb (k : Nat) (v : NumSlot) : (s.setNumSlot k v).glb = s.glb := rfl
@[simp] theorem State.setNumSlot_own (k : Nat) (v : NumSlot) : (s.setNumSlot k v).own = s.own := rfl
@[simp] theorem State.setNumSlot_evt (k : Nat) (v : NumSlot) : (s.setNumSlot k v).evt = s.evt := rfl
@[simp] theorem State.setNumSlot_pwr (k : Nat) (v : NumSlot) : (s.setNumSlot k v).pwr = s.pwr := rfl
@[simp] theorem State.setNumSlot_ctx (k : Nat) (v : NumSlot) : (s.setNumSlot k v).ctx = s.ctx := rfl
@[simp] theorem State.setNumSlot_sch (k : Nat) (v : NumSlot) : (s.setNumSlot k v).sch = s.sch := rfl
@[simp] theorem State.setNumSlot_wld (k : Nat) (v : NumSlot) : (s.setNumSlot k v).wld = s.wld := rfl
@[simp] theorem State.setNumSlot_flt (k : Nat) (v : NumSlot) : (s.setNumSlot k v).flt = s.flt := rfl
@[simp] theorem State.setNumSlot_stacks (k : Nat) (v : NumSlot) : (s.setNumSlot k v).stks = s.stks := rfl
@[simp] theorem State.setNumSlot_mem (k : Nat) (v : NumSlot) : (s.setNumSlot k v).mem = s.mem := rfl
@[simp] theorem State.setNumSlot_lnk (k : Nat) (v : NumSlot) : (s.setNumSlot k v).lnk = s.lnk := rfl
@[simp] theorem State.setNumSlot_cells (k : Nat) (v : NumSlot) : (s.setNumSlot k v).cells = s.cells := rfl
@[simp] theorem State.setNumSlot_flight (k : Nat) (v : NumSlot) : (s.setNumSlot k v).flight = s.flight := rfl

@[simp] theorem State.setDieState_pending (d v : Nat) : (s.setDieState d v).pending = s.pending := rfl
@[simp] theorem State.setDieState_out (d v : Nat) : (s.setDieState d v).out = s.out := rfl
@[simp] theorem State.setDieState_fresh (d v : Nat) : (s.setDieState d v).fresh = s.fresh := rfl
@[simp] theorem State.setDieState_ao (d v : Nat) : (s.setDieState d v).ao = s.ao := rfl
@[simp] theorem State.setDieState_fuses (d v : Nat) : (s.setDieState d v).fuses = s.fuses := rfl
@[simp] theorem State.setDieState_sec (d v : Nat) : (s.setDieState d v).sec = s.sec := rfl
@[simp] theorem State.setDieState_tst (d v : Nat) : (s.setDieState d v).tst = s.tst := rfl
@[simp] theorem State.setDieState_glb (d v : Nat) : (s.setDieState d v).glb = s.glb := rfl
@[simp] theorem State.setDieState_own (d v : Nat) : (s.setDieState d v).own = s.own := rfl
@[simp] theorem State.setDieState_evt (d v : Nat) : (s.setDieState d v).evt = s.evt := rfl
@[simp] theorem State.setDieState_pwr (d v : Nat) : (s.setDieState d v).pwr = s.pwr := rfl
@[simp] theorem State.setDieState_ctx (d v : Nat) : (s.setDieState d v).ctx = s.ctx := rfl
@[simp] theorem State.setDieState_sch (d v : Nat) : (s.setDieState d v).sch = s.sch := rfl
@[simp] theorem State.setDieState_num (d v : Nat) : (s.setDieState d v).num = s.num := rfl
@[simp] theorem State.setDieState_wld (d v : Nat) : (s.setDieState d v).wld = s.wld := rfl
@[simp] theorem State.setDieState_stacks (d v : Nat) : (s.setDieState d v).stks = s.stks := rfl
@[simp] theorem State.setDieState_mem (d v : Nat) : (s.setDieState d v).mem = s.mem := rfl
@[simp] theorem State.setDieState_lnk (d v : Nat) : (s.setDieState d v).lnk = s.lnk := rfl
@[simp] theorem State.setDieState_cells (d v : Nat) : (s.setDieState d v).cells = s.cells := rfl
@[simp] theorem State.setDieState_flight (d v : Nat) : (s.setDieState d v).flight = s.flight := rfl

@[simp] theorem State.emit_pending (o : Output) : (s.emit o).pending = s.pending := rfl
@[simp] theorem State.emit_fresh (o : Output) : (s.emit o).fresh = s.fresh := rfl
@[simp] theorem State.emit_ao (o : Output) : (s.emit o).ao = s.ao := rfl
@[simp] theorem State.emit_fuses (o : Output) : (s.emit o).fuses = s.fuses := rfl
@[simp] theorem State.emit_sec (o : Output) : (s.emit o).sec = s.sec := rfl
@[simp] theorem State.emit_tst (o : Output) : (s.emit o).tst = s.tst := rfl
@[simp] theorem State.emit_glb (o : Output) : (s.emit o).glb = s.glb := rfl
@[simp] theorem State.emit_own (o : Output) : (s.emit o).own = s.own := rfl
@[simp] theorem State.emit_evt (o : Output) : (s.emit o).evt = s.evt := rfl
@[simp] theorem State.emit_pwr (o : Output) : (s.emit o).pwr = s.pwr := rfl
@[simp] theorem State.emit_ctx (o : Output) : (s.emit o).ctx = s.ctx := rfl
@[simp] theorem State.emit_sch (o : Output) : (s.emit o).sch = s.sch := rfl
@[simp] theorem State.emit_num (o : Output) : (s.emit o).num = s.num := rfl
@[simp] theorem State.emit_wld (o : Output) : (s.emit o).wld = s.wld := rfl
@[simp] theorem State.emit_flt (o : Output) : (s.emit o).flt = s.flt := rfl
@[simp] theorem State.emit_stacks (o : Output) : (s.emit o).stks = s.stks := rfl
@[simp] theorem State.emit_mem (o : Output) : (s.emit o).mem = s.mem := rfl
@[simp] theorem State.emit_lnk (o : Output) : (s.emit o).lnk = s.lnk := rfl
@[simp] theorem State.emit_cells (o : Output) : (s.emit o).cells = s.cells := rfl
@[simp] theorem State.emit_flight (o : Output) : (s.emit o).flight = s.flight := rfl

@[simp] theorem State.setTime_pending (t : Nat) : (s.setTime t).pending = s.pending := rfl
@[simp] theorem State.setTime_out (t : Nat) : (s.setTime t).out = s.out := rfl
@[simp] theorem State.setTime_fresh (t : Nat) : (s.setTime t).fresh = s.fresh := rfl
@[simp] theorem State.setTime_fuses (t : Nat) : (s.setTime t).fuses = s.fuses := rfl
@[simp] theorem State.setTime_sec (t : Nat) : (s.setTime t).sec = s.sec := rfl
@[simp] theorem State.setTime_tst (t : Nat) : (s.setTime t).tst = s.tst := rfl
@[simp] theorem State.setTime_glb (t : Nat) : (s.setTime t).glb = s.glb := rfl
@[simp] theorem State.setTime_own (t : Nat) : (s.setTime t).own = s.own := rfl
@[simp] theorem State.setTime_evt (t : Nat) : (s.setTime t).evt = s.evt := rfl
@[simp] theorem State.setTime_pwr (t : Nat) : (s.setTime t).pwr = s.pwr := rfl
@[simp] theorem State.setTime_ctx (t : Nat) : (s.setTime t).ctx = s.ctx := rfl
@[simp] theorem State.setTime_sch (t : Nat) : (s.setTime t).sch = s.sch := rfl
@[simp] theorem State.setTime_num (t : Nat) : (s.setTime t).num = s.num := rfl
@[simp] theorem State.setTime_wld (t : Nat) : (s.setTime t).wld = s.wld := rfl
@[simp] theorem State.setTime_flt (t : Nat) : (s.setTime t).flt = s.flt := rfl
@[simp] theorem State.setTime_stacks (t : Nat) : (s.setTime t).stks = s.stks := rfl
@[simp] theorem State.setTime_mem (t : Nat) : (s.setTime t).mem = s.mem := rfl
@[simp] theorem State.setTime_lnk (t : Nat) : (s.setTime t).lnk = s.lnk := rfl
@[simp] theorem State.setTime_cells (t : Nat) : (s.setTime t).cells = s.cells := rfl
@[simp] theorem State.setTime_flight (t : Nat) : (s.setTime t).flight = s.flight := rfl

/-! The blocks' registers beside the updated table. -/
@[simp] theorem State.setSlot_ctx_loadAddr (n : Nat) (v : Slot) : (s.setSlot n v).ctx.loadAddr = s.ctx.loadAddr := rfl
@[simp] theorem State.setSlot_ctx_loadLen (n : Nat) (v : Slot) : (s.setSlot n v).ctx.loadLen = s.ctx.loadLen := rfl
@[simp] theorem State.setSlot_ctx_seedLo (n : Nat) (v : Slot) : (s.setSlot n v).ctx.seedLo = s.ctx.seedLo := rfl
@[simp] theorem State.setSlot_ctx_seedHi (n : Nat) (v : Slot) : (s.setSlot n v).ctx.seedHi = s.ctx.seedHi := rfl
@[simp] theorem State.setSlot_ctx_busy (n : Nat) (v : Slot) : (s.setSlot n v).ctx.busy = s.ctx.busy := rfl
@[simp] theorem State.setSlot_ctx_slot (n : Nat) (v : Slot) : (s.setSlot n v).ctx.slot = s.ctx.slot := rfl
@[simp] theorem State.setSlot_ctx_reason (n : Nat) (v : Slot) : (s.setSlot n v).ctx.reason = s.ctx.reason := rfl
@[simp] theorem State.setSlot_ctx_section_ (n : Nat) (v : Slot) : (s.setSlot n v).ctx.section_ = s.ctx.section_ := rfl
@[simp] theorem State.setSlot_ctx_record (n : Nat) (v : Slot) : (s.setSlot n v).ctx.record = s.ctx.record := rfl
@[simp] theorem State.setSlot_ctx_curAddr (n : Nat) (v : Slot) : (s.setSlot n v).ctx.curAddr = s.ctx.curAddr := rfl
@[simp] theorem State.setSlot_ctx_curLen (n : Nat) (v : Slot) : (s.setSlot n v).ctx.curLen = s.ctx.curLen := rfl
@[simp] theorem State.setSlot_ctx_curSeed (n : Nat) (v : Slot) : (s.setSlot n v).ctx.curSeed = s.ctx.curSeed := rfl
@[simp] theorem State.setSlot_ctx_target (n : Nat) (v : Slot) : (s.setSlot n v).ctx.target = s.ctx.target := rfl
@[simp] theorem State.modSlot_ctx_loadAddr (n : Nat) (f : Slot → Slot) : (s.modSlot n f).ctx.loadAddr = s.ctx.loadAddr := rfl
@[simp] theorem State.modSlot_ctx_loadLen (n : Nat) (f : Slot → Slot) : (s.modSlot n f).ctx.loadLen = s.ctx.loadLen := rfl
@[simp] theorem State.modSlot_ctx_seedLo (n : Nat) (f : Slot → Slot) : (s.modSlot n f).ctx.seedLo = s.ctx.seedLo := rfl
@[simp] theorem State.modSlot_ctx_seedHi (n : Nat) (f : Slot → Slot) : (s.modSlot n f).ctx.seedHi = s.ctx.seedHi := rfl
@[simp] theorem State.modSlot_ctx_busy (n : Nat) (f : Slot → Slot) : (s.modSlot n f).ctx.busy = s.ctx.busy := rfl
@[simp] theorem State.modSlot_ctx_slot (n : Nat) (f : Slot → Slot) : (s.modSlot n f).ctx.slot = s.ctx.slot := rfl
@[simp] theorem State.modSlot_ctx_reason (n : Nat) (f : Slot → Slot) : (s.modSlot n f).ctx.reason = s.ctx.reason := rfl
@[simp] theorem State.modSlot_ctx_section_ (n : Nat) (f : Slot → Slot) : (s.modSlot n f).ctx.section_ = s.ctx.section_ := rfl
@[simp] theorem State.modSlot_ctx_record (n : Nat) (f : Slot → Slot) : (s.modSlot n f).ctx.record = s.ctx.record := rfl
@[simp] theorem State.modSlot_ctx_curAddr (n : Nat) (f : Slot → Slot) : (s.modSlot n f).ctx.curAddr = s.ctx.curAddr := rfl
@[simp] theorem State.modSlot_ctx_curLen (n : Nat) (f : Slot → Slot) : (s.modSlot n f).ctx.curLen = s.ctx.curLen := rfl
@[simp] theorem State.modSlot_ctx_curSeed (n : Nat) (f : Slot → Slot) : (s.modSlot n f).ctx.curSeed = s.ctx.curSeed := rfl
@[simp] theorem State.modSlot_ctx_target (n : Nat) (f : Slot → Slot) : (s.modSlot n f).ctx.target = s.ctx.target := rfl
@[simp] theorem State.setTime_ao_logCount (t : Nat) : (s.setTime t).ao.logCount = s.ao.logCount := rfl
@[simp] theorem State.setTime_ao_logNext (t : Nat) : (s.setTime t).ao.logNext = s.ao.logNext := rfl
@[simp] theorem State.setTime_ao_log (t : Nat) : (s.setTime t).ao.log = s.ao.log := rfl
@[simp] theorem State.setTime_ao_retired (t : Nat) : (s.setTime t).ao.retired = s.ao.retired := rfl
@[simp] theorem State.setTime_ao_repairs (t : Nat) : (s.setTime t).ao.repairs = s.ao.repairs := rfl
@[simp] theorem State.setTime_ao_cursors (t : Nat) : (s.setTime t).ao.cursors = s.ao.cursors := rfl
@[simp] theorem State.setTime_ao_oos (t : Nat) : (s.setTime t).ao.oos = s.ao.oos := rfl
@[simp] theorem State.setTime_ao_gens (t : Nat) : (s.setTime t).ao.gens = s.ao.gens := rfl
@[simp] theorem State.setTime_ao_resetKind (t : Nat) : (s.setTime t).ao.resetKind = s.ao.resetKind := rfl
@[simp] theorem State.setTime_ao_resetCause (t : Nat) : (s.setTime t).ao.resetCause = s.ao.resetCause := rfl
@[simp] theorem State.setTime_ao_resetUs (t : Nat) : (s.setTime t).ao.resetUs = s.ao.resetUs := rfl
@[simp] theorem State.setTime_ao_cmpActive (t : Nat) : (s.setTime t).ao.cmpActive = s.ao.cmpActive := rfl
@[simp] theorem State.setTime_ao_railsOn (t : Nat) : (s.setTime t).ao.railsOn = s.ao.railsOn := rfl
@[simp] theorem State.setTime_ao_aoPower (t : Nat) : (s.setTime t).ao.aoPower = s.ao.aoPower := rfl
@[simp] theorem State.setTime_ao_tripLatched (t : Nat) : (s.setTime t).ao.tripLatched = s.ao.tripLatched := rfl
@[simp] theorem State.setTime_ao_inputFell (t : Nat) : (s.setTime t).ao.inputFell = s.ao.inputFell := rfl

/-! Reading after an update. -/
theorem State.setSlot_slot_ne {n m : Nat} (v : Slot) (h : m ≠ n) : (s.setSlot n v).slot m = s.slot m := sget_sset_ne _ _ v h
theorem State.setSlot_slot_new (n : Nat) {v : Slot} (hv : v ≠ .reset) : (s.setSlot n v).slot n = v := sget_sset_new _ _ n hv
theorem State.modSlot_slot_ne {n m : Nat} (f : Slot → Slot) (h : m ≠ n) : (s.modSlot n f).slot m = s.slot m := sget_sset_ne _ _ _ h
theorem State.setCell_cell_ne {n m : Nat} (v : Cell) (h : m ≠ n) : (s.setCell n v).cell m = s.cell m := sget_sset_ne _ _ v h
theorem State.setCell_cell_new (n : Nat) {v : Cell} (hv : v ≠ .reset) : (s.setCell n v).cell n = v := sget_sset_new _ _ n hv
theorem State.modCell_cell_ne {n m : Nat} (f : Cell → Cell) (h : m ≠ n) : (s.modCell n f).cell m = s.cell m := sget_sset_ne _ _ _ h
theorem State.setStack_stack_ne {n m : Nat} (v : Stack) (h : m ≠ n) : (s.setStack n v).stack m = s.stack m := sget_sset_ne _ _ v h
theorem State.setStack_stack_new (n : Nat) {v : Stack} (hv : v ≠ .reset) : (s.setStack n v).stack n = v := sget_sset_new _ _ n hv
theorem State.modStack_stack_ne {n m : Nat} (f : Stack → Stack) (h : m ≠ n) : (s.modStack n f).stack m = s.stack m := sget_sset_ne _ _ _ h
theorem State.setPort_port_ne {n m : Nat} (v : Port) (h : m ≠ n) : (s.setPort n v).port m = s.port m := sget_sset_ne _ _ v h
theorem State.setPort_port_new (n : Nat) {v : Port} (hv : v ≠ .reset) : (s.setPort n v).port n = v := sget_sset_new _ _ n hv
theorem State.modPort_port_ne {n m : Nat} (f : Port → Port) (h : m ≠ n) : (s.modPort n f).port m = s.port m := sget_sset_ne _ _ _ h
theorem State.setChan_chan_ne {n m : Nat} (v : DmaChan) (h : m ≠ n) : (s.setChan n v).chan m = s.chan m := sget_sset_ne _ _ v h
theorem State.setChan_chan_new (n : Nat) {v : DmaChan} (hv : v ≠ .reset) : (s.setChan n v).chan n = v := sget_sset_new _ _ n hv
theorem State.modChan_chan_ne {n m : Nat} (f : DmaChan → DmaChan) (h : m ≠ n) : (s.modChan n f).chan m = s.chan m := sget_sset_ne _ _ _ h
theorem State.setSlot_slot (n : Nat) (v : Slot) (h : swf .reset s.ctx.slots = true) : (s.setSlot n v).slot n = v := sget_sset_self _ h n v
theorem State.modSlot_slot (n : Nat) (f : Slot → Slot) (h : swf .reset s.ctx.slots = true) : (s.modSlot n f).slot n = f (s.slot n) := sget_sset_self _ h n _
theorem State.setCell_cell (n : Nat) (v : Cell) (h : swf .reset s.cells = true) : (s.setCell n v).cell n = v := sget_sset_self _ h n v
theorem State.modCell_cell (n : Nat) (f : Cell → Cell) (h : swf .reset s.cells = true) : (s.modCell n f).cell n = f (s.cell n) := sget_sset_self _ h n _
theorem State.setStack_stack (n : Nat) (v : Stack) (h : swf .reset s.stks = true) : (s.setStack n v).stack n = v := sget_sset_self _ h n v
theorem State.modStack_stack (n : Nat) (f : Stack → Stack) (h : swf .reset s.stks = true) : (s.modStack n f).stack n = f (s.stack n) := sget_sset_self _ h n _
theorem State.setPort_port (n : Nat) (v : Port) (h : swf .reset s.lnk.ports = true) : (s.setPort n v).port n = v := sget_sset_self _ h n v
theorem State.modPort_port (n : Nat) (f : Port → Port) (h : swf .reset s.lnk.ports = true) : (s.modPort n f).port n = f (s.port n) := sget_sset_self _ h n _
theorem State.setChan_chan (n : Nat) (v : DmaChan) (h : swf .reset s.glb.dma = true) : (s.setChan n v).chan n = v := sget_sset_self _ h n v
theorem State.modChan_chan (n : Nat) (f : DmaChan → DmaChan) (h : swf .reset s.glb.dma = true) : (s.modChan n f).chan n = f (s.chan n) := sget_sset_self _ h n _
theorem State.setNumSlot_numSlot (n : Nat) (v : NumSlot) (h : swf .zero s.num.slots = true) : (s.setNumSlot n v).numSlot n = v := sget_sset_self _ h n v

/-! Reading one table after an update of another. -/
@[simp] theorem State.setSlot_read_cell (i : Nat) (v : Slot) (n : Nat) : (s.setSlot i v).cell n = s.cell n := rfl
@[simp] theorem State.setSlot_read_stack (i : Nat) (v : Slot) (n : Nat) : (s.setSlot i v).stack n = s.stack n := rfl
@[simp] theorem State.setSlot_read_port (i : Nat) (v : Slot) (n : Nat) : (s.setSlot i v).port n = s.port n := rfl
@[simp] theorem State.setSlot_read_chan (i : Nat) (v : Slot) (n : Nat) : (s.setSlot i v).chan n = s.chan n := rfl
@[simp] theorem State.setSlot_read_numSlot (i : Nat) (v : Slot) (n : Nat) : (s.setSlot i v).numSlot n = s.numSlot n := rfl
@[simp] theorem State.setSlot_read_gen (i : Nat) (v : Slot) (n : Nat) : (s.setSlot i v).gen n = s.gen n := rfl
@[simp] theorem State.setSlot_read_dieState (i : Nat) (v : Slot) (n : Nat) : (s.setSlot i v).dieState n = s.dieState n := rfl
@[simp] theorem State.modSlot_read_cell (i : Nat) (f : Slot → Slot) (n : Nat) : (s.modSlot i f).cell n = s.cell n := rfl
@[simp] theorem State.modSlot_read_stack (i : Nat) (f : Slot → Slot) (n : Nat) : (s.modSlot i f).stack n = s.stack n := rfl
@[simp] theorem State.modSlot_read_port (i : Nat) (f : Slot → Slot) (n : Nat) : (s.modSlot i f).port n = s.port n := rfl
@[simp] theorem State.modSlot_read_chan (i : Nat) (f : Slot → Slot) (n : Nat) : (s.modSlot i f).chan n = s.chan n := rfl
@[simp] theorem State.modSlot_read_numSlot (i : Nat) (f : Slot → Slot) (n : Nat) : (s.modSlot i f).numSlot n = s.numSlot n := rfl
@[simp] theorem State.modSlot_read_gen (i : Nat) (f : Slot → Slot) (n : Nat) : (s.modSlot i f).gen n = s.gen n := rfl
@[simp] theorem State.modSlot_read_dieState (i : Nat) (f : Slot → Slot) (n : Nat) : (s.modSlot i f).dieState n = s.dieState n := rfl
@[simp] theorem State.setCell_read_slot (k : Nat) (v : Cell) (n : Nat) : (s.setCell k v).slot n = s.slot n := rfl
@[simp] theorem State.setCell_read_stack (k : Nat) (v : Cell) (n : Nat) : (s.setCell k v).stack n = s.stack n := rfl
@[simp] theorem State.setCell_read_port (k : Nat) (v : Cell) (n : Nat) : (s.setCell k v).port n = s.port n := rfl
@[simp] theorem State.setCell_read_chan (k : Nat) (v : Cell) (n : Nat) : (s.setCell k v).chan n = s.chan n := rfl
@[simp] theorem State.setCell_read_numSlot (k : Nat) (v : Cell) (n : Nat) : (s.setCell k v).numSlot n = s.numSlot n := rfl
@[simp] theorem State.setCell_read_gen (k : Nat) (v : Cell) (n : Nat) : (s.setCell k v).gen n = s.gen n := rfl
@[simp] theorem State.setCell_read_dieState (k : Nat) (v : Cell) (n : Nat) : (s.setCell k v).dieState n = s.dieState n := rfl
@[simp] theorem State.modCell_read_slot (k : Nat) (f : Cell → Cell) (n : Nat) : (s.modCell k f).slot n = s.slot n := rfl
@[simp] theorem State.modCell_read_stack (k : Nat) (f : Cell → Cell) (n : Nat) : (s.modCell k f).stack n = s.stack n := rfl
@[simp] theorem State.modCell_read_port (k : Nat) (f : Cell → Cell) (n : Nat) : (s.modCell k f).port n = s.port n := rfl
@[simp] theorem State.modCell_read_chan (k : Nat) (f : Cell → Cell) (n : Nat) : (s.modCell k f).chan n = s.chan n := rfl
@[simp] theorem State.modCell_read_numSlot (k : Nat) (f : Cell → Cell) (n : Nat) : (s.modCell k f).numSlot n = s.numSlot n := rfl
@[simp] theorem State.modCell_read_gen (k : Nat) (f : Cell → Cell) (n : Nat) : (s.modCell k f).gen n = s.gen n := rfl
@[simp] theorem State.modCell_read_dieState (k : Nat) (f : Cell → Cell) (n : Nat) : (s.modCell k f).dieState n = s.dieState n := rfl
@[simp] theorem State.setStack_read_slot (k : Nat) (v : Stack) (n : Nat) : (s.setStack k v).slot n = s.slot n := rfl
@[simp] theorem State.setStack_read_cell (k : Nat) (v : Stack) (n : Nat) : (s.setStack k v).cell n = s.cell n := rfl
@[simp] theorem State.setStack_read_port (k : Nat) (v : Stack) (n : Nat) : (s.setStack k v).port n = s.port n := rfl
@[simp] theorem State.setStack_read_chan (k : Nat) (v : Stack) (n : Nat) : (s.setStack k v).chan n = s.chan n := rfl
@[simp] theorem State.setStack_read_numSlot (k : Nat) (v : Stack) (n : Nat) : (s.setStack k v).numSlot n = s.numSlot n := rfl
@[simp] theorem State.setStack_read_gen (k : Nat) (v : Stack) (n : Nat) : (s.setStack k v).gen n = s.gen n := rfl
@[simp] theorem State.setStack_read_dieState (k : Nat) (v : Stack) (n : Nat) : (s.setStack k v).dieState n = s.dieState n := rfl
@[simp] theorem State.modStack_read_slot (k : Nat) (f : Stack → Stack) (n : Nat) : (s.modStack k f).slot n = s.slot n := rfl
@[simp] theorem State.modStack_read_cell (k : Nat) (f : Stack → Stack) (n : Nat) : (s.modStack k f).cell n = s.cell n := rfl
@[simp] theorem State.modStack_read_port (k : Nat) (f : Stack → Stack) (n : Nat) : (s.modStack k f).port n = s.port n := rfl
@[simp] theorem State.modStack_read_chan (k : Nat) (f : Stack → Stack) (n : Nat) : (s.modStack k f).chan n = s.chan n := rfl
@[simp] theorem State.modStack_read_numSlot (k : Nat) (f : Stack → Stack) (n : Nat) : (s.modStack k f).numSlot n = s.numSlot n := rfl
@[simp] theorem State.modStack_read_gen (k : Nat) (f : Stack → Stack) (n : Nat) : (s.modStack k f).gen n = s.gen n := rfl
@[simp] theorem State.modStack_read_dieState (k : Nat) (f : Stack → Stack) (n : Nat) : (s.modStack k f).dieState n = s.dieState n := rfl
@[simp] theorem State.setPort_read_slot (k : Nat) (v : Port) (n : Nat) : (s.setPort k v).slot n = s.slot n := rfl
@[simp] theorem State.setPort_read_cell (k : Nat) (v : Port) (n : Nat) : (s.setPort k v).cell n = s.cell n := rfl
@[simp] theorem State.setPort_read_stack (k : Nat) (v : Port) (n : Nat) : (s.setPort k v).stack n = s.stack n := rfl
@[simp] theorem State.setPort_read_chan (k : Nat) (v : Port) (n : Nat) : (s.setPort k v).chan n = s.chan n := rfl
@[simp] theorem State.setPort_read_numSlot (k : Nat) (v : Port) (n : Nat) : (s.setPort k v).numSlot n = s.numSlot n := rfl
@[simp] theorem State.setPort_read_gen (k : Nat) (v : Port) (n : Nat) : (s.setPort k v).gen n = s.gen n := rfl
@[simp] theorem State.setPort_read_dieState (k : Nat) (v : Port) (n : Nat) : (s.setPort k v).dieState n = s.dieState n := rfl
@[simp] theorem State.modPort_read_slot (k : Nat) (f : Port → Port) (n : Nat) : (s.modPort k f).slot n = s.slot n := rfl
@[simp] theorem State.modPort_read_cell (k : Nat) (f : Port → Port) (n : Nat) : (s.modPort k f).cell n = s.cell n := rfl
@[simp] theorem State.modPort_read_stack (k : Nat) (f : Port → Port) (n : Nat) : (s.modPort k f).stack n = s.stack n := rfl
@[simp] theorem State.modPort_read_chan (k : Nat) (f : Port → Port) (n : Nat) : (s.modPort k f).chan n = s.chan n := rfl
@[simp] theorem State.modPort_read_numSlot (k : Nat) (f : Port → Port) (n : Nat) : (s.modPort k f).numSlot n = s.numSlot n := rfl
@[simp] theorem State.modPort_read_gen (k : Nat) (f : Port → Port) (n : Nat) : (s.modPort k f).gen n = s.gen n := rfl
@[simp] theorem State.modPort_read_dieState (k : Nat) (f : Port → Port) (n : Nat) : (s.modPort k f).dieState n = s.dieState n := rfl
@[simp] theorem State.setChan_read_slot (k : Nat) (v : DmaChan) (n : Nat) : (s.setChan k v).slot n = s.slot n := rfl
@[simp] theorem State.setChan_read_cell (k : Nat) (v : DmaChan) (n : Nat) : (s.setChan k v).cell n = s.cell n := rfl
@[simp] theorem State.setChan_read_stack (k : Nat) (v : DmaChan) (n : Nat) : (s.setChan k v).stack n = s.stack n := rfl
@[simp] theorem State.setChan_read_port (k : Nat) (v : DmaChan) (n : Nat) : (s.setChan k v).port n = s.port n := rfl
@[simp] theorem State.setChan_read_numSlot (k : Nat) (v : DmaChan) (n : Nat) : (s.setChan k v).numSlot n = s.numSlot n := rfl
@[simp] theorem State.setChan_read_gen (k : Nat) (v : DmaChan) (n : Nat) : (s.setChan k v).gen n = s.gen n := rfl
@[simp] theorem State.setChan_read_dieState (k : Nat) (v : DmaChan) (n : Nat) : (s.setChan k v).dieState n = s.dieState n := rfl
@[simp] theorem State.modChan_read_slot (k : Nat) (f : DmaChan → DmaChan) (n : Nat) : (s.modChan k f).slot n = s.slot n := rfl
@[simp] theorem State.modChan_read_cell (k : Nat) (f : DmaChan → DmaChan) (n : Nat) : (s.modChan k f).cell n = s.cell n := rfl
@[simp] theorem State.modChan_read_stack (k : Nat) (f : DmaChan → DmaChan) (n : Nat) : (s.modChan k f).stack n = s.stack n := rfl
@[simp] theorem State.modChan_read_port (k : Nat) (f : DmaChan → DmaChan) (n : Nat) : (s.modChan k f).port n = s.port n := rfl
@[simp] theorem State.modChan_read_numSlot (k : Nat) (f : DmaChan → DmaChan) (n : Nat) : (s.modChan k f).numSlot n = s.numSlot n := rfl
@[simp] theorem State.modChan_read_gen (k : Nat) (f : DmaChan → DmaChan) (n : Nat) : (s.modChan k f).gen n = s.gen n := rfl
@[simp] theorem State.modChan_read_dieState (k : Nat) (f : DmaChan → DmaChan) (n : Nat) : (s.modChan k f).dieState n = s.dieState n := rfl
@[simp] theorem State.setNumSlot_read_slot (k : Nat) (v : NumSlot) (n : Nat) : (s.setNumSlot k v).slot n = s.slot n := rfl
@[simp] theorem State.setNumSlot_read_cell (k : Nat) (v : NumSlot) (n : Nat) : (s.setNumSlot k v).cell n = s.cell n := rfl
@[simp] theorem State.setNumSlot_read_stack (k : Nat) (v : NumSlot) (n : Nat) : (s.setNumSlot k v).stack n = s.stack n := rfl
@[simp] theorem State.setNumSlot_read_port (k : Nat) (v : NumSlot) (n : Nat) : (s.setNumSlot k v).port n = s.port n := rfl
@[simp] theorem State.setNumSlot_read_chan (k : Nat) (v : NumSlot) (n : Nat) : (s.setNumSlot k v).chan n = s.chan n := rfl
@[simp] theorem State.setNumSlot_read_gen (k : Nat) (v : NumSlot) (n : Nat) : (s.setNumSlot k v).gen n = s.gen n := rfl
@[simp] theorem State.setNumSlot_read_dieState (k : Nat) (v : NumSlot) (n : Nat) : (s.setNumSlot k v).dieState n = s.dieState n := rfl
@[simp] theorem State.setDieState_read_slot (d v : Nat) (n : Nat) : (s.setDieState d v).slot n = s.slot n := rfl
@[simp] theorem State.setDieState_read_cell (d v : Nat) (n : Nat) : (s.setDieState d v).cell n = s.cell n := rfl
@[simp] theorem State.setDieState_read_stack (d v : Nat) (n : Nat) : (s.setDieState d v).stack n = s.stack n := rfl
@[simp] theorem State.setDieState_read_port (d v : Nat) (n : Nat) : (s.setDieState d v).port n = s.port n := rfl
@[simp] theorem State.setDieState_read_chan (d v : Nat) (n : Nat) : (s.setDieState d v).chan n = s.chan n := rfl
@[simp] theorem State.setDieState_read_numSlot (d v : Nat) (n : Nat) : (s.setDieState d v).numSlot n = s.numSlot n := rfl
@[simp] theorem State.setDieState_read_gen (d v : Nat) (n : Nat) : (s.setDieState d v).gen n = s.gen n := rfl
@[simp] theorem State.emit_read_slot (o : Output) (n : Nat) : (s.emit o).slot n = s.slot n := rfl
@[simp] theorem State.emit_read_cell (o : Output) (n : Nat) : (s.emit o).cell n = s.cell n := rfl
@[simp] theorem State.emit_read_stack (o : Output) (n : Nat) : (s.emit o).stack n = s.stack n := rfl
@[simp] theorem State.emit_read_port (o : Output) (n : Nat) : (s.emit o).port n = s.port n := rfl
@[simp] theorem State.emit_read_chan (o : Output) (n : Nat) : (s.emit o).chan n = s.chan n := rfl
@[simp] theorem State.emit_read_numSlot (o : Output) (n : Nat) : (s.emit o).numSlot n = s.numSlot n := rfl
@[simp] theorem State.emit_read_gen (o : Output) (n : Nat) : (s.emit o).gen n = s.gen n := rfl
@[simp] theorem State.emit_read_dieState (o : Output) (n : Nat) : (s.emit o).dieState n = s.dieState n := rfl
@[simp] theorem State.setTime_read_slot (t : Nat) (n : Nat) : (s.setTime t).slot n = s.slot n := rfl
@[simp] theorem State.setTime_read_cell (t : Nat) (n : Nat) : (s.setTime t).cell n = s.cell n := rfl
@[simp] theorem State.setTime_read_stack (t : Nat) (n : Nat) : (s.setTime t).stack n = s.stack n := rfl
@[simp] theorem State.setTime_read_port (t : Nat) (n : Nat) : (s.setTime t).port n = s.port n := rfl
@[simp] theorem State.setTime_read_chan (t : Nat) (n : Nat) : (s.setTime t).chan n = s.chan n := rfl
@[simp] theorem State.setTime_read_numSlot (t : Nat) (n : Nat) : (s.setTime t).numSlot n = s.numSlot n := rfl
@[simp] theorem State.setTime_read_gen (t : Nat) (n : Nat) : (s.setTime t).gen n = s.gen n := rfl
@[simp] theorem State.setTime_read_dieState (t : Nat) (n : Nat) : (s.setTime t).dieState n = s.dieState n := rfl

end Sys2Proof.Machine
end

