-- ==== Sys2Proof/Laws/Blocks.lean ====
section
/-! SUPPORT. What the updates of one block's table leave alone: the sensors, the parts of collectives and the surveys of the fabric. -/

namespace Sys2Proof.Machine

open Sys2Proof

variable (s : State)

@[simp] theorem State.setSensor_pending (n : Nat) (r : Reading) : (s.setSensor n r).pending = s.pending := rfl
@[simp] theorem State.setSensor_out (n : Nat) (r : Reading) : (s.setSensor n r).out = s.out := rfl
@[simp] theorem State.setSensor_fresh (n : Nat) (r : Reading) : (s.setSensor n r).fresh = s.fresh := rfl
@[simp] theorem State.setSensor_ao (n : Nat) (r : Reading) : (s.setSensor n r).ao = s.ao := rfl
@[simp] theorem State.setSensor_fuses (n : Nat) (r : Reading) : (s.setSensor n r).fuses = s.fuses := rfl
@[simp] theorem State.setSensor_sec (n : Nat) (r : Reading) : (s.setSensor n r).sec = s.sec := rfl
@[simp] theorem State.setSensor_tst (n : Nat) (r : Reading) : (s.setSensor n r).tst = s.tst := rfl
@[simp] theorem State.setSensor_glb (n : Nat) (r : Reading) : (s.setSensor n r).glb = s.glb := rfl
@[simp] theorem State.setSensor_own (n : Nat) (r : Reading) : (s.setSensor n r).own = s.own := rfl
@[simp] theorem State.setSensor_evt (n : Nat) (r : Reading) : (s.setSensor n r).evt = s.evt := rfl
@[simp] theorem State.setSensor_ctx (n : Nat) (r : Reading) : (s.setSensor n r).ctx = s.ctx := rfl
@[simp] theorem State.setSensor_sch (n : Nat) (r : Reading) : (s.setSensor n r).sch = s.sch := rfl
@[simp] theorem State.setSensor_num (n : Nat) (r : Reading) : (s.setSensor n r).num = s.num := rfl
@[simp] theorem State.setSensor_wld (n : Nat) (r : Reading) : (s.setSensor n r).wld = s.wld := rfl
@[simp] theorem State.setSensor_flt (n : Nat) (r : Reading) : (s.setSensor n r).flt = s.flt := rfl
@[simp] theorem State.setSensor_stacks (n : Nat) (r : Reading) : (s.setSensor n r).stks = s.stks := rfl
@[simp] theorem State.setSensor_mem (n : Nat) (r : Reading) : (s.setSensor n r).mem = s.mem := rfl
@[simp] theorem State.setSensor_lnk (n : Nat) (r : Reading) : (s.setSensor n r).lnk = s.lnk := rfl
@[simp] theorem State.setSensor_cells (n : Nat) (r : Reading) : (s.setSensor n r).cells = s.cells := rfl
@[simp] theorem State.setSensor_flight (n : Nat) (r : Reading) : (s.setSensor n r).flight = s.flight := rfl

@[simp] theorem State.setPart_pending (p : CollPart) : (s.setPart p).pending = s.pending := rfl
@[simp] theorem State.setPart_out (p : CollPart) : (s.setPart p).out = s.out := rfl
@[simp] theorem State.setPart_fresh (p : CollPart) : (s.setPart p).fresh = s.fresh := rfl
@[simp] theorem State.setPart_ao (p : CollPart) : (s.setPart p).ao = s.ao := rfl
@[simp] theorem State.setPart_fuses (p : CollPart) : (s.setPart p).fuses = s.fuses := rfl
@[simp] theorem State.setPart_sec (p : CollPart) : (s.setPart p).sec = s.sec := rfl
@[simp] theorem State.setPart_tst (p : CollPart) : (s.setPart p).tst = s.tst := rfl
@[simp] theorem State.setPart_glb (p : CollPart) : (s.setPart p).glb = s.glb := rfl
@[simp] theorem State.setPart_own (p : CollPart) : (s.setPart p).own = s.own := rfl
@[simp] theorem State.setPart_evt (p : CollPart) : (s.setPart p).evt = s.evt := rfl
@[simp] theorem State.setPart_pwr (p : CollPart) : (s.setPart p).pwr = s.pwr := rfl
@[simp] theorem State.setPart_ctx (p : CollPart) : (s.setPart p).ctx = s.ctx := rfl
@[simp] theorem State.setPart_sch (p : CollPart) : (s.setPart p).sch = s.sch := rfl
@[simp] theorem State.setPart_num (p : CollPart) : (s.setPart p).num = s.num := rfl
@[simp] theorem State.setPart_wld (p : CollPart) : (s.setPart p).wld = s.wld := rfl
@[simp] theorem State.setPart_flt (p : CollPart) : (s.setPart p).flt = s.flt := rfl
@[simp] theorem State.setPart_stacks (p : CollPart) : (s.setPart p).stks = s.stks := rfl
@[simp] theorem State.setPart_mem (p : CollPart) : (s.setPart p).mem = s.mem := rfl
@[simp] theorem State.setPart_cells (p : CollPart) : (s.setPart p).cells = s.cells := rfl
@[simp] theorem State.setPart_flight (p : CollPart) : (s.setPart p).flight = s.flight := rfl

@[simp] theorem State.setSurvey_pending (p : SurveyPart) : (s.setSurvey p).pending = s.pending := rfl
@[simp] theorem State.setSurvey_out (p : SurveyPart) : (s.setSurvey p).out = s.out := rfl
@[simp] theorem State.setSurvey_fresh (p : SurveyPart) : (s.setSurvey p).fresh = s.fresh := rfl
@[simp] theorem State.setSurvey_ao (p : SurveyPart) : (s.setSurvey p).ao = s.ao := rfl
@[simp] theorem State.setSurvey_fuses (p : SurveyPart) : (s.setSurvey p).fuses = s.fuses := rfl
@[simp] theorem State.setSurvey_sec (p : SurveyPart) : (s.setSurvey p).sec = s.sec := rfl
@[simp] theorem State.setSurvey_tst (p : SurveyPart) : (s.setSurvey p).tst = s.tst := rfl
@[simp] theorem State.setSurvey_glb (p : SurveyPart) : (s.setSurvey p).glb = s.glb := rfl
@[simp] theorem State.setSurvey_own (p : SurveyPart) : (s.setSurvey p).own = s.own := rfl
@[simp] theorem State.setSurvey_evt (p : SurveyPart) : (s.setSurvey p).evt = s.evt := rfl
@[simp] theorem State.setSurvey_pwr (p : SurveyPart) : (s.setSurvey p).pwr = s.pwr := rfl
@[simp] theorem State.setSurvey_ctx (p : SurveyPart) : (s.setSurvey p).ctx = s.ctx := rfl
@[simp] theorem State.setSurvey_sch (p : SurveyPart) : (s.setSurvey p).sch = s.sch := rfl
@[simp] theorem State.setSurvey_num (p : SurveyPart) : (s.setSurvey p).num = s.num := rfl
@[simp] theorem State.setSurvey_wld (p : SurveyPart) : (s.setSurvey p).wld = s.wld := rfl
@[simp] theorem State.setSurvey_flt (p : SurveyPart) : (s.setSurvey p).flt = s.flt := rfl
@[simp] theorem State.setSurvey_stacks (p : SurveyPart) : (s.setSurvey p).stks = s.stks := rfl
@[simp] theorem State.setSurvey_mem (p : SurveyPart) : (s.setSurvey p).mem = s.mem := rfl
@[simp] theorem State.setSurvey_cells (p : SurveyPart) : (s.setSurvey p).cells = s.cells := rfl
@[simp] theorem State.setSurvey_flight (p : SurveyPart) : (s.setSurvey p).flight = s.flight := rfl

/-- A sensor that has been set reads so, where the table is canonical. -/
theorem State.setSensor_sensor {s : State} (h : swf ⟨false, 0⟩ s.pwr.sensors = true) (n : Nat) (r : Reading) : (s.setSensor n r).sensor n = r :=
  sget_sset_self _ h n r

theorem State.setSensor_sensor_ne {n k : Nat} (r : Reading) (h : k ≠ n) : (s.setSensor n r).sensor k = s.sensor k :=
  sget_sset_ne _ _ r h

/-- A part that has been set is among the parts. -/
theorem State.mem_setPart (p : CollPart) : p ∈ (s.setPart p).lnk.parts := List.mem_append_right _ List.mem_cons_self

theorem State.mem_setSurvey (p : SurveyPart) : p ∈ (s.setSurvey p).lnk.surveys := List.mem_append_right _ List.mem_cons_self

end Sys2Proof.Machine
end

