-- ==== Sys2Proof/Laws/Ops.lean ====
section
/-! SUPPORT. What the shared operations of Machine/Ops.lean can do: events and the error log, the write gate, stored words. -/

namespace Sys2Proof.Machine

open Sys2Proof

variable (s : State)

/-! ## Events: the event controller and the log change, nothing else (14:R374, 13:R352) -/

/-! A wake changes the power state alone, and that only in A2 and A3 (14:R382, 16:R413) -/

theorem State.wakeOn_awake {source : Nat} (h : s.asleep = false) : s.wakeOn source = s := by simp [State.wakeOn, h]
@[simp] theorem State.wakeOn_pending (source : Nat) : (s.wakeOn source).pending = s.pending := by
  unfold State.wakeOn State.beginExit; repeat' split
  all_goals rfl
@[simp] theorem State.wakeOn_out (source : Nat) : (s.wakeOn source).out = s.out := by
  unfold State.wakeOn State.beginExit; repeat' split
  all_goals rfl
@[simp] theorem State.wakeOn_fresh (source : Nat) : (s.wakeOn source).fresh = s.fresh := by
  unfold State.wakeOn State.beginExit; repeat' split
  all_goals rfl
@[simp] theorem State.wakeOn_ao (source : Nat) : (s.wakeOn source).ao = s.ao := by
  unfold State.wakeOn State.beginExit; repeat' split
  all_goals rfl
@[simp] theorem State.wakeOn_fuses (source : Nat) : (s.wakeOn source).fuses = s.fuses := by
  unfold State.wakeOn State.beginExit; repeat' split
  all_goals rfl
@[simp] theorem State.wakeOn_sec (source : Nat) : (s.wakeOn source).sec = s.sec := by
  unfold State.wakeOn State.beginExit; repeat' split
  all_goals rfl
@[simp] theorem State.wakeOn_tst (source : Nat) : (s.wakeOn source).tst = s.tst := by
  unfold State.wakeOn State.beginExit; repeat' split
  all_goals rfl
@[simp] theorem State.wakeOn_glb (source : Nat) : (s.wakeOn source).glb = s.glb := by
  unfold State.wakeOn State.beginExit; repeat' split
  all_goals rfl
@[simp] theorem State.wakeOn_own (source : Nat) : (s.wakeOn source).own = s.own := by
  unfold State.wakeOn State.beginExit; repeat' split
  all_goals rfl
@[simp] theorem State.wakeOn_evt (source : Nat) : (s.wakeOn source).evt = s.evt := by
  unfold State.wakeOn State.beginExit; repeat' split
  all_goals rfl
@[simp] theorem State.wakeOn_ctx (source : Nat) : (s.wakeOn source).ctx = s.ctx := by
  unfold State.wakeOn State.beginExit; repeat' split
  all_goals rfl
@[simp] theorem State.wakeOn_sch (source : Nat) : (s.wakeOn source).sch = s.sch := by
  unfold State.wakeOn State.beginExit; repeat' split
  all_goals rfl
@[simp] theorem State.wakeOn_num (source : Nat) : (s.wakeOn source).num = s.num := by
  unfold State.wakeOn State.beginExit; repeat' split
  all_goals rfl
@[simp] theorem State.wakeOn_wld (source : Nat) : (s.wakeOn source).wld = s.wld := by
  unfold State.wakeOn State.beginExit; repeat' split
  all_goals rfl
@[simp] theorem State.wakeOn_flt (source : Nat) : (s.wakeOn source).flt = s.flt := by
  unfold State.wakeOn State.beginExit; repeat' split
  all_goals rfl
@[simp] theorem State.wakeOn_stks (source : Nat) : (s.wakeOn source).stks = s.stks := by
  unfold State.wakeOn State.beginExit; repeat' split
  all_goals rfl
@[simp] theorem State.wakeOn_mem (source : Nat) : (s.wakeOn source).mem = s.mem := by
  unfold State.wakeOn State.beginExit; repeat' split
  all_goals rfl
@[simp] theorem State.wakeOn_lnk (source : Nat) : (s.wakeOn source).lnk = s.lnk := by
  unfold State.wakeOn State.beginExit; repeat' split
  all_goals rfl
@[simp] theorem State.wakeOn_cells (source : Nat) : (s.wakeOn source).cells = s.cells := by
  unfold State.wakeOn State.beginExit; repeat' split
  all_goals rfl
@[simp] theorem State.wakeOn_flight (source : Nat) : (s.wakeOn source).flight = s.flight := by
  unfold State.wakeOn State.beginExit; repeat' split
  all_goals rfl
@[simp] theorem State.wakeOn_pwr_state (source : Nat) : (s.wakeOn source).pwr.state = s.pwr.state := by
  unfold State.wakeOn State.beginExit; repeat' split
  all_goals rfl
@[simp] theorem State.wakeOn_pwr_reason (source : Nat) : (s.wakeOn source).pwr.reason = s.pwr.reason := by
  unfold State.wakeOn State.beginExit; repeat' split
  all_goals rfl
@[simp] theorem State.wakeOn_pwr_req (source : Nat) : (s.wakeOn source).pwr.req = s.pwr.req := by
  unfold State.wakeOn State.beginExit; repeat' split
  all_goals rfl
@[simp] theorem State.wakeOn_pwr_laterReq (source : Nat) : (s.wakeOn source).pwr.laterReq = s.pwr.laterReq := by
  unfold State.wakeOn State.beginExit; repeat' split
  all_goals rfl
@[simp] theorem State.wakeOn_pwr_cap (source : Nat) : (s.wakeOn source).pwr.cap = s.pwr.cap := by
  unfold State.wakeOn State.beginExit; repeat' split
  all_goals rfl
@[simp] theorem State.wakeOn_pwr_cp (source : Nat) : (s.wakeOn source).pwr.cp = s.pwr.cp := by
  unfold State.wakeOn State.beginExit; repeat' split
  all_goals rfl
@[simp] theorem State.wakeOn_pwr_aoCmp (source : Nat) : (s.wakeOn source).pwr.aoCmp = s.pwr.aoCmp := by
  unfold State.wakeOn State.beginExit; repeat' split
  all_goals rfl
@[simp] theorem State.wakeOn_pwr_outletLim (source : Nat) : (s.wakeOn source).pwr.outletLim = s.pwr.outletLim := by
  unfold State.wakeOn State.beginExit; repeat' split
  all_goals rfl
@[simp] theorem State.wakeOn_pwr_inletLim (source : Nat) : (s.wakeOn source).pwr.inletLim = s.pwr.inletLim := by
  unfold State.wakeOn State.beginExit; repeat' split
  all_goals rfl
@[simp] theorem State.wakeOn_pwr_cmpEn (source : Nat) : (s.wakeOn source).pwr.cmpEn = s.pwr.cmpEn := by
  unfold State.wakeOn State.beginExit; repeat' split
  all_goals rfl
@[simp] theorem State.wakeOn_pwr_sigdet (source : Nat) : (s.wakeOn source).pwr.sigdet = s.pwr.sigdet := by
  unfold State.wakeOn State.beginExit; repeat' split
  all_goals rfl
@[simp] theorem State.wakeOn_pwr_starts (source : Nat) : (s.wakeOn source).pwr.starts = s.pwr.starts := by
  unfold State.wakeOn State.beginExit; repeat' split
  all_goals rfl
@[simp] theorem State.wakeOn_pwr_halvings (source : Nat) : (s.wakeOn source).pwr.halvings = s.pwr.halvings := by
  unfold State.wakeOn State.beginExit; repeat' split
  all_goals rfl
@[simp] theorem State.wakeOn_pwr_halved (source : Nat) : (s.wakeOn source).pwr.halved = s.pwr.halved := by
  unfold State.wakeOn State.beginExit; repeat' split
  all_goals rfl
@[simp] theorem State.wakeOn_pwr_lastDroop (source : Nat) : (s.wakeOn source).pwr.lastDroop = s.pwr.lastDroop := by
  unfold State.wakeOn State.beginExit; repeat' split
  all_goals rfl
@[simp] theorem State.wakeOn_pwr_recent (source : Nat) : (s.wakeOn source).pwr.recent = s.pwr.recent := by
  unfold State.wakeOn State.beginExit; repeat' split
  all_goals rfl
@[simp] theorem State.wakeOn_pwr_sensors (source : Nat) : (s.wakeOn source).pwr.sensors = s.pwr.sensors := by
  unfold State.wakeOn State.beginExit; repeat' split
  all_goals rfl
@[simp] theorem State.wakeOn_pwr_sensorBad (source : Nat) : (s.wakeOn source).pwr.sensorBad = s.pwr.sensorBad := by
  unfold State.wakeOn State.beginExit; repeat' split
  all_goals rfl
@[simp] theorem State.wakeOn_pwr_stretching (source : Nat) : (s.wakeOn source).pwr.stretching = s.pwr.stretching := by
  unfold State.wakeOn State.beginExit; repeat' split
  all_goals rfl
@[simp] theorem State.wakeOn_pwr_tripped (source : Nat) : (s.wakeOn source).pwr.tripped = s.pwr.tripped := by
  unfold State.wakeOn State.beginExit; repeat' split
  all_goals rfl
@[simp] theorem State.wakeOn_pwr_flowSince (source : Nat) : (s.wakeOn source).pwr.flowSince = s.pwr.flowSince := by
  unfold State.wakeOn State.beginExit; repeat' split
  all_goals rfl
@[simp] theorem State.wakeOn_pwr_flowPosted (source : Nat) : (s.wakeOn source).pwr.flowPosted = s.pwr.flowPosted := by
  unfold State.wakeOn State.beginExit; repeat' split
  all_goals rfl

@[simp] theorem State.latch_pending (source : Nat) (r : EvRec) : (s.latch source r).pending = s.pending := by
  unfold State.latch; split <;> try rfl
  split <;> rfl
@[simp] theorem State.latch_out (source : Nat) (r : EvRec) : (s.latch source r).out = s.out := by
  unfold State.latch; split <;> try rfl
  split <;> rfl
@[simp] theorem State.latch_fresh (source : Nat) (r : EvRec) : (s.latch source r).fresh = s.fresh := by
  unfold State.latch; split <;> try rfl
  split <;> rfl
@[simp] theorem State.latch_ao (source : Nat) (r : EvRec) : (s.latch source r).ao = s.ao := by
  unfold State.latch; split <;> try rfl
  split <;> rfl
@[simp] theorem State.latch_fuses (source : Nat) (r : EvRec) : (s.latch source r).fuses = s.fuses := by
  unfold State.latch; split <;> try rfl
  split <;> rfl
@[simp] theorem State.latch_sec (source : Nat) (r : EvRec) : (s.latch source r).sec = s.sec := by
  unfold State.latch; split <;> try rfl
  split <;> rfl
@[simp] theorem State.latch_tst (source : Nat) (r : EvRec) : (s.latch source r).tst = s.tst := by
  unfold State.latch; split <;> try rfl
  split <;> rfl
@[simp] theorem State.latch_glb (source : Nat) (r : EvRec) : (s.latch source r).glb = s.glb := by
  unfold State.latch; split <;> try rfl
  split <;> rfl
@[simp] theorem State.latch_own (source : Nat) (r : EvRec) : (s.latch source r).own = s.own := by
  unfold State.latch; split <;> try rfl
  split <;> rfl
@[simp] theorem State.latch_pwr (source : Nat) (r : EvRec) : (s.latch source r).pwr = s.pwr := by
  unfold State.latch; split <;> try rfl
  split <;> rfl
@[simp] theorem State.latch_ctx (source : Nat) (r : EvRec) : (s.latch source r).ctx = s.ctx := by
  unfold State.latch; split <;> try rfl
  split <;> rfl
@[simp] theorem State.latch_sch (source : Nat) (r : EvRec) : (s.latch source r).sch = s.sch := by
  unfold State.latch; split <;> try rfl
  split <;> rfl
@[simp] theorem State.latch_num (source : Nat) (r : EvRec) : (s.latch source r).num = s.num := by
  unfold State.latch; split <;> try rfl
  split <;> rfl
@[simp] theorem State.latch_wld (source : Nat) (r : EvRec) : (s.latch source r).wld = s.wld := by
  unfold State.latch; split <;> try rfl
  split <;> rfl
@[simp] theorem State.latch_flt (source : Nat) (r : EvRec) : (s.latch source r).flt = s.flt := by
  unfold State.latch; split <;> try rfl
  split <;> rfl
@[simp] theorem State.latch_stacks (source : Nat) (r : EvRec) : (s.latch source r).stks = s.stks := by
  unfold State.latch; split <;> try rfl
  split <;> rfl
@[simp] theorem State.latch_mem (source : Nat) (r : EvRec) : (s.latch source r).mem = s.mem := by
  unfold State.latch; split <;> try rfl
  split <;> rfl
@[simp] theorem State.latch_lnk (source : Nat) (r : EvRec) : (s.latch source r).lnk = s.lnk := by
  unfold State.latch; split <;> try rfl
  split <;> rfl
@[simp] theorem State.latch_cells (source : Nat) (r : EvRec) : (s.latch source r).cells = s.cells := by
  unfold State.latch; split <;> try rfl
  split <;> rfl
@[simp] theorem State.latch_flight (source : Nat) (r : EvRec) : (s.latch source r).flight = s.flight := by
  unfold State.latch; split <;> try rfl
  split <;> rfl
@[simp] theorem State.latch_evt_err (source : Nat) (r : EvRec) : (s.latch source r).evt.err = s.evt.err := by
  unfold State.latch; split <;> try rfl
  split <;> rfl
@[simp] theorem State.latch_evt_sizeLog2 (source : Nat) (r : EvRec) : (s.latch source r).evt.sizeLog2 = s.evt.sizeLog2 := by
  unfold State.latch; split <;> try rfl
  split <;> rfl
@[simp] theorem State.latch_evt_loc (source : Nat) (r : EvRec) : (s.latch source r).evt.loc = s.evt.loc := by
  unfold State.latch; split <;> try rfl
  split <;> rfl
@[simp] theorem State.latch_evt_ring (source : Nat) (r : EvRec) : (s.latch source r).evt.ring = s.evt.ring := by
  unfold State.latch; split <;> try rfl
  split <;> rfl
@[simp] theorem State.latch_evt_base (source : Nat) (r : EvRec) : (s.latch source r).evt.base = s.evt.base := by
  unfold State.latch; split <;> try rfl
  split <;> rfl
@[simp] theorem State.latch_evt_head (source : Nat) (r : EvRec) : (s.latch source r).evt.head = s.evt.head := by
  unfold State.latch; split <;> try rfl
  split <;> rfl
@[simp] theorem State.latch_evt_tail (source : Nat) (r : EvRec) : (s.latch source r).evt.tail = s.evt.tail := by
  unfold State.latch; split <;> try rfl
  split <;> rfl
@[simp] theorem State.latch_evt_phase (source : Nat) (r : EvRec) : (s.latch source r).evt.phase = s.evt.phase := by
  unfold State.latch; split <;> try rfl
  split <;> rfl
@[simp] theorem State.latch_evt_overflows (source : Nat) (r : EvRec) : (s.latch source r).evt.overflows = s.evt.overflows := by
  unfold State.latch; split <;> try rfl
  split <;> rfl
@[simp] theorem State.latch_evt_sbEnable (source : Nat) (r : EvRec) : (s.latch source r).evt.sbEnable = s.evt.sbEnable := by
  unfold State.latch; split <;> try rfl
  split <;> rfl
@[simp] theorem State.latch_evt_sbActiveLow (source : Nat) (r : EvRec) : (s.latch source r).evt.sbActiveLow = s.evt.sbActiveLow := by
  unfold State.latch; split <;> try rfl
  split <;> rfl
@[simp] theorem State.latch_evt_sbMasked (source : Nat) (r : EvRec) : (s.latch source r).evt.sbMasked = s.evt.sbMasked := by
  unfold State.latch; split <;> try rfl
  split <;> rfl
@[simp] theorem State.latch_evt_sbPin (source : Nat) (r : EvRec) : (s.latch source r).evt.sbPin = s.evt.sbPin := by
  unfold State.latch; split <;> try rfl
  split <;> rfl
@[simp] theorem State.latch_evt_sbTimes (source : Nat) (r : EvRec) : (s.latch source r).evt.sbTimes = s.evt.sbTimes := by
  unfold State.latch; split <;> try rfl
  split <;> rfl
@[simp] theorem State.latch_evt_sbCount (source : Nat) (r : EvRec) : (s.latch source r).evt.sbCount = s.evt.sbCount := by
  unfold State.latch; split <;> try rfl
  split <;> rfl
@[simp] theorem State.latch_evt_mask (source : Nat) (r : EvRec) : (s.latch source r).evt.mask = s.evt.mask := by
  unfold State.latch; split <;> try rfl
  split <;> rfl
@[simp] theorem State.latch_evt_wakeEn (source : Nat) (r : EvRec) : (s.latch source r).evt.wakeEn = s.evt.wakeEn := by
  unfold State.latch; split <;> try rfl
  split <;> rfl
@[simp] theorem State.latch_evt_wakeSrc (source : Nat) (r : EvRec) : (s.latch source r).evt.wakeSrc = s.evt.wakeSrc := by
  unfold State.latch; split <;> try rfl
  split <;> rfl
@[simp] theorem State.postSev_pending (code source : Nat) (slot : Option Nat) (sev : Nat) (p : BitVec 128) :
    (s.postSev code source slot sev p).pending = s.pending := by
  simp only [State.postSev, State.wakeOn_pending, State.latch_pending]; split <;> rfl
@[simp] theorem State.post_pending (code source : Nat) (slot : Option Nat) (p : BitVec 128) :
    (s.post code source slot p).pending = s.pending := s.postSev_pending ..
@[simp] theorem State.postSev_out (code source : Nat) (slot : Option Nat) (sev : Nat) (p : BitVec 128) :
    (s.postSev code source slot sev p).out = s.out := by
  simp only [State.postSev, State.wakeOn_out, State.latch_out]; split <;> rfl
@[simp] theorem State.post_out (code source : Nat) (slot : Option Nat) (p : BitVec 128) :
    (s.post code source slot p).out = s.out := s.postSev_out ..
@[simp] theorem State.postSev_fresh (code source : Nat) (slot : Option Nat) (sev : Nat) (p : BitVec 128) :
    (s.postSev code source slot sev p).fresh = s.fresh := by
  simp only [State.postSev, State.wakeOn_fresh, State.latch_fresh]; split <;> rfl
@[simp] theorem State.post_fresh (code source : Nat) (slot : Option Nat) (p : BitVec 128) :
    (s.post code source slot p).fresh = s.fresh := s.postSev_fresh ..
@[simp] theorem State.postSev_fuses (code source : Nat) (slot : Option Nat) (sev : Nat) (p : BitVec 128) :
    (s.postSev code source slot sev p).fuses = s.fuses := by
  simp only [State.postSev, State.wakeOn_fuses, State.latch_fuses]; split <;> rfl
@[simp] theorem State.post_fuses (code source : Nat) (slot : Option Nat) (p : BitVec 128) :
    (s.post code source slot p).fuses = s.fuses := s.postSev_fuses ..
@[simp] theorem State.postSev_sec (code source : Nat) (slot : Option Nat) (sev : Nat) (p : BitVec 128) :
    (s.postSev code source slot sev p).sec = s.sec := by
  simp only [State.postSev, State.wakeOn_sec, State.latch_sec]; split <;> rfl
@[simp] theorem State.post_sec (code source : Nat) (slot : Option Nat) (p : BitVec 128) :
    (s.post code source slot p).sec = s.sec := s.postSev_sec ..
@[simp] theorem State.postSev_tst (code source : Nat) (slot : Option Nat) (sev : Nat) (p : BitVec 128) :
    (s.postSev code source slot sev p).tst = s.tst := by
  simp only [State.postSev, State.wakeOn_tst, State.latch_tst]; split <;> rfl
@[simp] theorem State.post_tst (code source : Nat) (slot : Option Nat) (p : BitVec 128) :
    (s.post code source slot p).tst = s.tst := s.postSev_tst ..
@[simp] theorem State.postSev_glb (code source : Nat) (slot : Option Nat) (sev : Nat) (p : BitVec 128) :
    (s.postSev code source slot sev p).glb = s.glb := by
  simp only [State.postSev, State.wakeOn_glb, State.latch_glb]; split <;> rfl
@[simp] theorem State.post_glb (code source : Nat) (slot : Option Nat) (p : BitVec 128) :
    (s.post code source slot p).glb = s.glb := s.postSev_glb ..
@[simp] theorem State.postSev_own (code source : Nat) (slot : Option Nat) (sev : Nat) (p : BitVec 128) :
    (s.postSev code source slot sev p).own = s.own := by
  simp only [State.postSev, State.wakeOn_own, State.latch_own]; split <;> rfl
@[simp] theorem State.post_own (code source : Nat) (slot : Option Nat) (p : BitVec 128) :
    (s.post code source slot p).own = s.own := s.postSev_own ..
/-- Outside A2 and A3 an occurrence leaves the power state alone (14:R382). -/
theorem State.postSev_pwr {code source : Nat} {slot : Option Nat} {sev : Nat} {p : BitVec 128} (h : s.asleep = false) :
    (s.postSev code source slot sev p).pwr = s.pwr := by
  unfold State.postSev
  rw [State.wakeOn_awake]
  · rw [State.latch_pwr]; split <;> rfl
  · have hp : ((if isLogged code then s.logRecord (s.eventRecord code source slot sev p) else s).latch source (s.eventRecord code source slot sev p)).pwr = s.pwr := by
      rw [State.latch_pwr]; split <;> rfl
    unfold State.asleep at h ⊢
    rw [hp]; exact h
theorem State.post_pwr {code source : Nat} {slot : Option Nat} {p : BitVec 128} (h : s.asleep = false) :
    (s.post code source slot p).pwr = s.pwr := s.postSev_pwr h
@[simp] theorem State.postSev_pwr_state (code source : Nat) (slot : Option Nat) (sev : Nat) (p : BitVec 128) :
    (s.postSev code source slot sev p).pwr.state = s.pwr.state := by
  simp only [State.postSev, State.wakeOn_pwr_state, State.latch_pwr]; split <;> rfl
@[simp] theorem State.post_pwr_state (code source : Nat) (slot : Option Nat) (p : BitVec 128) :
    (s.post code source slot p).pwr.state = s.pwr.state := s.postSev_pwr_state ..
@[simp] theorem State.postSev_pwr_reason (code source : Nat) (slot : Option Nat) (sev : Nat) (p : BitVec 128) :
    (s.postSev code source slot sev p).pwr.reason = s.pwr.reason := by
  simp only [State.postSev, State.wakeOn_pwr_reason, State.latch_pwr]; split <;> rfl
@[simp] theorem State.post_pwr_reason (code source : Nat) (slot : Option Nat) (p : BitVec 128) :
    (s.post code source slot p).pwr.reason = s.pwr.reason := s.postSev_pwr_reason ..
@[simp] theorem State.postSev_pwr_req (code source : Nat) (slot : Option Nat) (sev : Nat) (p : BitVec 128) :
    (s.postSev code source slot sev p).pwr.req = s.pwr.req := by
  simp only [State.postSev, State.wakeOn_pwr_req, State.latch_pwr]; split <;> rfl
@[simp] theorem State.post_pwr_req (code source : Nat) (slot : Option Nat) (p : BitVec 128) :
    (s.post code source slot p).pwr.req = s.pwr.req := s.postSev_pwr_req ..
@[simp] theorem State.postSev_pwr_laterReq (code source : Nat) (slot : Option Nat) (sev : Nat) (p : BitVec 128) :
    (s.postSev code source slot sev p).pwr.laterReq = s.pwr.laterReq := by
  simp only [State.postSev, State.wakeOn_pwr_laterReq, State.latch_pwr]; split <;> rfl
@[simp] theorem State.post_pwr_laterReq (code source : Nat) (slot : Option Nat) (p : BitVec 128) :
    (s.post code source slot p).pwr.laterReq = s.pwr.laterReq := s.postSev_pwr_laterReq ..
@[simp] theorem State.postSev_pwr_cap (code source : Nat) (slot : Option Nat) (sev : Nat) (p : BitVec 128) :
    (s.postSev code source slot sev p).pwr.cap = s.pwr.cap := by
  simp only [State.postSev, State.wakeOn_pwr_cap, State.latch_pwr]; split <;> rfl
@[simp] theorem State.post_pwr_cap (code source : Nat) (slot : Option Nat) (p : BitVec 128) :
    (s.post code source slot p).pwr.cap = s.pwr.cap := s.postSev_pwr_cap ..
@[simp] theorem State.postSev_pwr_cp (code source : Nat) (slot : Option Nat) (sev : Nat) (p : BitVec 128) :
    (s.postSev code source slot sev p).pwr.cp = s.pwr.cp := by
  simp only [State.postSev, State.wakeOn_pwr_cp, State.latch_pwr]; split <;> rfl
@[simp] theorem State.post_pwr_cp (code source : Nat) (slot : Option Nat) (p : BitVec 128) :
    (s.post code source slot p).pwr.cp = s.pwr.cp := s.postSev_pwr_cp ..
@[simp] theorem State.postSev_pwr_aoCmp (code source : Nat) (slot : Option Nat) (sev : Nat) (p : BitVec 128) :
    (s.postSev code source slot sev p).pwr.aoCmp = s.pwr.aoCmp := by
  simp only [State.postSev, State.wakeOn_pwr_aoCmp, State.latch_pwr]; split <;> rfl
@[simp] theorem State.post_pwr_aoCmp (code source : Nat) (slot : Option Nat) (p : BitVec 128) :
    (s.post code source slot p).pwr.aoCmp = s.pwr.aoCmp := s.postSev_pwr_aoCmp ..
@[simp] theorem State.postSev_pwr_outletLim (code source : Nat) (slot : Option Nat) (sev : Nat) (p : BitVec 128) :
    (s.postSev code source slot sev p).pwr.outletLim = s.pwr.outletLim := by
  simp only [State.postSev, State.wakeOn_pwr_outletLim, State.latch_pwr]; split <;> rfl
@[simp] theorem State.post_pwr_outletLim (code source : Nat) (slot : Option Nat) (p : BitVec 128) :
    (s.post code source slot p).pwr.outletLim = s.pwr.outletLim := s.postSev_pwr_outletLim ..
@[simp] theorem State.postSev_pwr_inletLim (code source : Nat) (slot : Option Nat) (sev : Nat) (p : BitVec 128) :
    (s.postSev code source slot sev p).pwr.inletLim = s.pwr.inletLim := by
  simp only [State.postSev, State.wakeOn_pwr_inletLim, State.latch_pwr]; split <;> rfl
@[simp] theorem State.post_pwr_inletLim (code source : Nat) (slot : Option Nat) (p : BitVec 128) :
    (s.post code source slot p).pwr.inletLim = s.pwr.inletLim := s.postSev_pwr_inletLim ..
@[simp] theorem State.postSev_pwr_cmpEn (code source : Nat) (slot : Option Nat) (sev : Nat) (p : BitVec 128) :
    (s.postSev code source slot sev p).pwr.cmpEn = s.pwr.cmpEn := by
  simp only [State.postSev, State.wakeOn_pwr_cmpEn, State.latch_pwr]; split <;> rfl
@[simp] theorem State.post_pwr_cmpEn (code source : Nat) (slot : Option Nat) (p : BitVec 128) :
    (s.post code source slot p).pwr.cmpEn = s.pwr.cmpEn := s.postSev_pwr_cmpEn ..
@[simp] theorem State.postSev_pwr_sigdet (code source : Nat) (slot : Option Nat) (sev : Nat) (p : BitVec 128) :
    (s.postSev code source slot sev p).pwr.sigdet = s.pwr.sigdet := by
  simp only [State.postSev, State.wakeOn_pwr_sigdet, State.latch_pwr]; split <;> rfl
@[simp] theorem State.post_pwr_sigdet (code source : Nat) (slot : Option Nat) (p : BitVec 128) :
    (s.post code source slot p).pwr.sigdet = s.pwr.sigdet := s.postSev_pwr_sigdet ..
@[simp] theorem State.postSev_pwr_starts (code source : Nat) (slot : Option Nat) (sev : Nat) (p : BitVec 128) :
    (s.postSev code source slot sev p).pwr.starts = s.pwr.starts := by
  simp only [State.postSev, State.wakeOn_pwr_starts, State.latch_pwr]; split <;> rfl
@[simp] theorem State.post_pwr_starts (code source : Nat) (slot : Option Nat) (p : BitVec 128) :
    (s.post code source slot p).pwr.starts = s.pwr.starts := s.postSev_pwr_starts ..
@[simp] theorem State.postSev_pwr_halvings (code source : Nat) (slot : Option Nat) (sev : Nat) (p : BitVec 128) :
    (s.postSev code source slot sev p).pwr.halvings = s.pwr.halvings := by
  simp only [State.postSev, State.wakeOn_pwr_halvings, State.latch_pwr]; split <;> rfl
@[simp] theorem State.post_pwr_halvings (code source : Nat) (slot : Option Nat) (p : BitVec 128) :
    (s.post code source slot p).pwr.halvings = s.pwr.halvings := s.postSev_pwr_halvings ..
@[simp] theorem State.postSev_pwr_halved (code source : Nat) (slot : Option Nat) (sev : Nat) (p : BitVec 128) :
    (s.postSev code source slot sev p).pwr.halved = s.pwr.halved := by
  simp only [State.postSev, State.wakeOn_pwr_halved, State.latch_pwr]; split <;> rfl
@[simp] theorem State.post_pwr_halved (code source : Nat) (slot : Option Nat) (p : BitVec 128) :
    (s.post code source slot p).pwr.halved = s.pwr.halved := s.postSev_pwr_halved ..
@[simp] theorem State.postSev_pwr_lastDroop (code source : Nat) (slot : Option Nat) (sev : Nat) (p : BitVec 128) :
    (s.postSev code source slot sev p).pwr.lastDroop = s.pwr.lastDroop := by
  simp only [State.postSev, State.wakeOn_pwr_lastDroop, State.latch_pwr]; split <;> rfl
@[simp] theorem State.post_pwr_lastDroop (code source : Nat) (slot : Option Nat) (p : BitVec 128) :
    (s.post code source slot p).pwr.lastDroop = s.pwr.lastDroop := s.postSev_pwr_lastDroop ..
@[simp] theorem State.postSev_pwr_recent (code source : Nat) (slot : Option Nat) (sev : Nat) (p : BitVec 128) :
    (s.postSev code source slot sev p).pwr.recent = s.pwr.recent := by
  simp only [State.postSev, State.wakeOn_pwr_recent, State.latch_pwr]; split <;> rfl
@[simp] theorem State.post_pwr_recent (code source : Nat) (slot : Option Nat) (p : BitVec 128) :
    (s.post code source slot p).pwr.recent = s.pwr.recent := s.postSev_pwr_recent ..
@[simp] theorem State.postSev_pwr_sensors (code source : Nat) (slot : Option Nat) (sev : Nat) (p : BitVec 128) :
    (s.postSev code source slot sev p).pwr.sensors = s.pwr.sensors := by
  simp only [State.postSev, State.wakeOn_pwr_sensors, State.latch_pwr]; split <;> rfl
@[simp] theorem State.post_pwr_sensors (code source : Nat) (slot : Option Nat) (p : BitVec 128) :
    (s.post code source slot p).pwr.sensors = s.pwr.sensors := s.postSev_pwr_sensors ..
@[simp] theorem State.postSev_pwr_sensorBad (code source : Nat) (slot : Option Nat) (sev : Nat) (p : BitVec 128) :
    (s.postSev code source slot sev p).pwr.sensorBad = s.pwr.sensorBad := by
  simp only [State.postSev, State.wakeOn_pwr_sensorBad, State.latch_pwr]; split <;> rfl
@[simp] theorem State.post_pwr_sensorBad (code source : Nat) (slot : Option Nat) (p : BitVec 128) :
    (s.post code source slot p).pwr.sensorBad = s.pwr.sensorBad := s.postSev_pwr_sensorBad ..
@[simp] theorem State.postSev_pwr_stretching (code source : Nat) (slot : Option Nat) (sev : Nat) (p : BitVec 128) :
    (s.postSev code source slot sev p).pwr.stretching = s.pwr.stretching := by
  simp only [State.postSev, State.wakeOn_pwr_stretching, State.latch_pwr]; split <;> rfl
@[simp] theorem State.post_pwr_stretching (code source : Nat) (slot : Option Nat) (p : BitVec 128) :
    (s.post code source slot p).pwr.stretching = s.pwr.stretching := s.postSev_pwr_stretching ..
@[simp] theorem State.postSev_pwr_tripped (code source : Nat) (slot : Option Nat) (sev : Nat) (p : BitVec 128) :
    (s.postSev code source slot sev p).pwr.tripped = s.pwr.tripped := by
  simp only [State.postSev, State.wakeOn_pwr_tripped, State.latch_pwr]; split <;> rfl
@[simp] theorem State.post_pwr_tripped (code source : Nat) (slot : Option Nat) (p : BitVec 128) :
    (s.post code source slot p).pwr.tripped = s.pwr.tripped := s.postSev_pwr_tripped ..
@[simp] theorem State.postSev_pwr_flowSince (code source : Nat) (slot : Option Nat) (sev : Nat) (p : BitVec 128) :
    (s.postSev code source slot sev p).pwr.flowSince = s.pwr.flowSince := by
  simp only [State.postSev, State.wakeOn_pwr_flowSince, State.latch_pwr]; split <;> rfl
@[simp] theorem State.post_pwr_flowSince (code source : Nat) (slot : Option Nat) (p : BitVec 128) :
    (s.post code source slot p).pwr.flowSince = s.pwr.flowSince := s.postSev_pwr_flowSince ..
@[simp] theorem State.postSev_pwr_flowPosted (code source : Nat) (slot : Option Nat) (sev : Nat) (p : BitVec 128) :
    (s.postSev code source slot sev p).pwr.flowPosted = s.pwr.flowPosted := by
  simp only [State.postSev, State.wakeOn_pwr_flowPosted, State.latch_pwr]; split <;> rfl
@[simp] theorem State.post_pwr_flowPosted (code source : Nat) (slot : Option Nat) (p : BitVec 128) :
    (s.post code source slot p).pwr.flowPosted = s.pwr.flowPosted := s.postSev_pwr_flowPosted ..
@[simp] theorem State.postSev_ctx (code source : Nat) (slot : Option Nat) (sev : Nat) (p : BitVec 128) :
    (s.postSev code source slot sev p).ctx = s.ctx := by
  simp only [State.postSev, State.wakeOn_ctx, State.latch_ctx]; split <;> rfl
@[simp] theorem State.post_ctx (code source : Nat) (slot : Option Nat) (p : BitVec 128) :
    (s.post code source slot p).ctx = s.ctx := s.postSev_ctx ..
@[simp] theorem State.postSev_sch (code source : Nat) (slot : Option Nat) (sev : Nat) (p : BitVec 128) :
    (s.postSev code source slot sev p).sch = s.sch := by
  simp only [State.postSev, State.wakeOn_sch, State.latch_sch]; split <;> rfl
@[simp] theorem State.post_sch (code source : Nat) (slot : Option Nat) (p : BitVec 128) :
    (s.post code source slot p).sch = s.sch := s.postSev_sch ..
@[simp] theorem State.postSev_num (code source : Nat) (slot : Option Nat) (sev : Nat) (p : BitVec 128) :
    (s.postSev code source slot sev p).num = s.num := by
  simp only [State.postSev, State.wakeOn_num, State.latch_num]; split <;> rfl
@[simp] theorem State.post_num (code source : Nat) (slot : Option Nat) (p : BitVec 128) :
    (s.post code source slot p).num = s.num := s.postSev_num ..
@[simp] theorem State.postSev_wld (code source : Nat) (slot : Option Nat) (sev : Nat) (p : BitVec 128) :
    (s.postSev code source slot sev p).wld = s.wld := by
  simp only [State.postSev, State.wakeOn_wld, State.latch_wld]; split <;> rfl
@[simp] theorem State.post_wld (code source : Nat) (slot : Option Nat) (p : BitVec 128) :
    (s.post code source slot p).wld = s.wld := s.postSev_wld ..
@[simp] theorem State.postSev_flt (code source : Nat) (slot : Option Nat) (sev : Nat) (p : BitVec 128) :
    (s.postSev code source slot sev p).flt = s.flt := by
  simp only [State.postSev, State.wakeOn_flt, State.latch_flt]; split <;> rfl
@[simp] theorem State.post_flt (code source : Nat) (slot : Option Nat) (p : BitVec 128) :
    (s.post code source slot p).flt = s.flt := s.postSev_flt ..
@[simp] theorem State.postSev_stacks (code source : Nat) (slot : Option Nat) (sev : Nat) (p : BitVec 128) :
    (s.postSev code source slot sev p).stks = s.stks := by
  simp only [State.postSev, State.wakeOn_stks, State.latch_stacks]; split <;> rfl
@[simp] theorem State.post_stacks (code source : Nat) (slot : Option Nat) (p : BitVec 128) :
    (s.post code source slot p).stks = s.stks := s.postSev_stacks ..
@[simp] theorem State.postSev_mem (code source : Nat) (slot : Option Nat) (sev : Nat) (p : BitVec 128) :
    (s.postSev code source slot sev p).mem = s.mem := by
  simp only [State.postSev, State.wakeOn_mem, State.latch_mem]; split <;> rfl
@[simp] theorem State.post_mem (code source : Nat) (slot : Option Nat) (p : BitVec 128) :
    (s.post code source slot p).mem = s.mem := s.postSev_mem ..
@[simp] theorem State.postSev_lnk (code source : Nat) (slot : Option Nat) (sev : Nat) (p : BitVec 128) :
    (s.postSev code source slot sev p).lnk = s.lnk := by
  simp only [State.postSev, State.wakeOn_lnk, State.latch_lnk]; split <;> rfl
@[simp] theorem State.post_lnk (code source : Nat) (slot : Option Nat) (p : BitVec 128) :
    (s.post code source slot p).lnk = s.lnk := s.postSev_lnk ..
@[simp] theorem State.postSev_cells (code source : Nat) (slot : Option Nat) (sev : Nat) (p : BitVec 128) :
    (s.postSev code source slot sev p).cells = s.cells := by
  simp only [State.postSev, State.wakeOn_cells, State.latch_cells]; split <;> rfl
@[simp] theorem State.post_cells (code source : Nat) (slot : Option Nat) (p : BitVec 128) :
    (s.post code source slot p).cells = s.cells := s.postSev_cells ..
@[simp] theorem State.postSev_flight (code source : Nat) (slot : Option Nat) (sev : Nat) (p : BitVec 128) :
    (s.postSev code source slot sev p).flight = s.flight := by
  simp only [State.postSev, State.wakeOn_flight, State.latch_flight]; split <;> rfl
@[simp] theorem State.post_flight (code source : Nat) (slot : Option Nat) (p : BitVec 128) :
    (s.post code source slot p).flight = s.flight := s.postSev_flight ..
@[simp] theorem State.postSev_ao_time (code source : Nat) (slot : Option Nat) (sev : Nat) (p : BitVec 128) :
    (s.postSev code source slot sev p).ao.time = s.ao.time := by
  simp only [State.postSev, State.wakeOn_ao, State.latch_ao]; split <;> rfl
@[simp] theorem State.post_ao_time (code source : Nat) (slot : Option Nat) (p : BitVec 128) :
    (s.post code source slot p).ao.time = s.ao.time := s.postSev_ao_time ..
@[simp] theorem State.postSev_ao_retired (code source : Nat) (slot : Option Nat) (sev : Nat) (p : BitVec 128) :
    (s.postSev code source slot sev p).ao.retired = s.ao.retired := by
  simp only [State.postSev, State.wakeOn_ao, State.latch_ao]; split <;> rfl
@[simp] theorem State.post_ao_retired (code source : Nat) (slot : Option Nat) (p : BitVec 128) :
    (s.post code source slot p).ao.retired = s.ao.retired := s.postSev_ao_retired ..
@[simp] theorem State.postSev_ao_repairs (code source : Nat) (slot : Option Nat) (sev : Nat) (p : BitVec 128) :
    (s.postSev code source slot sev p).ao.repairs = s.ao.repairs := by
  simp only [State.postSev, State.wakeOn_ao, State.latch_ao]; split <;> rfl
@[simp] theorem State.post_ao_repairs (code source : Nat) (slot : Option Nat) (p : BitVec 128) :
    (s.post code source slot p).ao.repairs = s.ao.repairs := s.postSev_ao_repairs ..
@[simp] theorem State.postSev_ao_cursors (code source : Nat) (slot : Option Nat) (sev : Nat) (p : BitVec 128) :
    (s.postSev code source slot sev p).ao.cursors = s.ao.cursors := by
  simp only [State.postSev, State.wakeOn_ao, State.latch_ao]; split <;> rfl
@[simp] theorem State.post_ao_cursors (code source : Nat) (slot : Option Nat) (p : BitVec 128) :
    (s.post code source slot p).ao.cursors = s.ao.cursors := s.postSev_ao_cursors ..
@[simp] theorem State.postSev_ao_oos (code source : Nat) (slot : Option Nat) (sev : Nat) (p : BitVec 128) :
    (s.postSev code source slot sev p).ao.oos = s.ao.oos := by
  simp only [State.postSev, State.wakeOn_ao, State.latch_ao]; split <;> rfl
@[simp] theorem State.post_ao_oos (code source : Nat) (slot : Option Nat) (p : BitVec 128) :
    (s.post code source slot p).ao.oos = s.ao.oos := s.postSev_ao_oos ..
@[simp] theorem State.postSev_ao_gens (code source : Nat) (slot : Option Nat) (sev : Nat) (p : BitVec 128) :
    (s.postSev code source slot sev p).ao.gens = s.ao.gens := by
  simp only [State.postSev, State.wakeOn_ao, State.latch_ao]; split <;> rfl
@[simp] theorem State.post_ao_gens (code source : Nat) (slot : Option Nat) (p : BitVec 128) :
    (s.post code source slot p).ao.gens = s.ao.gens := s.postSev_ao_gens ..
@[simp] theorem State.postSev_ao_resetKind (code source : Nat) (slot : Option Nat) (sev : Nat) (p : BitVec 128) :
    (s.postSev code source slot sev p).ao.resetKind = s.ao.resetKind := by
  simp only [State.postSev, State.wakeOn_ao, State.latch_ao]; split <;> rfl
@[simp] theorem State.post_ao_resetKind (code source : Nat) (slot : Option Nat) (p : BitVec 128) :
    (s.post code source slot p).ao.resetKind = s.ao.resetKind := s.postSev_ao_resetKind ..
@[simp] theorem State.postSev_ao_resetCause (code source : Nat) (slot : Option Nat) (sev : Nat) (p : BitVec 128) :
    (s.postSev code source slot sev p).ao.resetCause = s.ao.resetCause := by
  simp only [State.postSev, State.wakeOn_ao, State.latch_ao]; split <;> rfl
@[simp] theorem State.post_ao_resetCause (code source : Nat) (slot : Option Nat) (p : BitVec 128) :
    (s.post code source slot p).ao.resetCause = s.ao.resetCause := s.postSev_ao_resetCause ..
@[simp] theorem State.postSev_ao_resetUs (code source : Nat) (slot : Option Nat) (sev : Nat) (p : BitVec 128) :
    (s.postSev code source slot sev p).ao.resetUs = s.ao.resetUs := by
  simp only [State.postSev, State.wakeOn_ao, State.latch_ao]; split <;> rfl
@[simp] theorem State.post_ao_resetUs (code source : Nat) (slot : Option Nat) (p : BitVec 128) :
    (s.post code source slot p).ao.resetUs = s.ao.resetUs := s.postSev_ao_resetUs ..
@[simp] theorem State.postSev_ao_cmpActive (code source : Nat) (slot : Option Nat) (sev : Nat) (p : BitVec 128) :
    (s.postSev code source slot sev p).ao.cmpActive = s.ao.cmpActive := by
  simp only [State.postSev, State.wakeOn_ao, State.latch_ao]; split <;> rfl
@[simp] theorem State.post_ao_cmpActive (code source : Nat) (slot : Option Nat) (p : BitVec 128) :
    (s.post code source slot p).ao.cmpActive = s.ao.cmpActive := s.postSev_ao_cmpActive ..
@[simp] theorem State.postSev_ao_railsOn (code source : Nat) (slot : Option Nat) (sev : Nat) (p : BitVec 128) :
    (s.postSev code source slot sev p).ao.railsOn = s.ao.railsOn := by
  simp only [State.postSev, State.wakeOn_ao, State.latch_ao]; split <;> rfl
@[simp] theorem State.post_ao_railsOn (code source : Nat) (slot : Option Nat) (p : BitVec 128) :
    (s.post code source slot p).ao.railsOn = s.ao.railsOn := s.postSev_ao_railsOn ..
@[simp] theorem State.postSev_ao_aoPower (code source : Nat) (slot : Option Nat) (sev : Nat) (p : BitVec 128) :
    (s.postSev code source slot sev p).ao.aoPower = s.ao.aoPower := by
  simp only [State.postSev, State.wakeOn_ao, State.latch_ao]; split <;> rfl
@[simp] theorem State.post_ao_aoPower (code source : Nat) (slot : Option Nat) (p : BitVec 128) :
    (s.post code source slot p).ao.aoPower = s.ao.aoPower := s.postSev_ao_aoPower ..
@[simp] theorem State.postSev_ao_tripLatched (code source : Nat) (slot : Option Nat) (sev : Nat) (p : BitVec 128) :
    (s.postSev code source slot sev p).ao.tripLatched = s.ao.tripLatched := by
  simp only [State.postSev, State.wakeOn_ao, State.latch_ao]; split <;> rfl
@[simp] theorem State.post_ao_tripLatched (code source : Nat) (slot : Option Nat) (p : BitVec 128) :
    (s.post code source slot p).ao.tripLatched = s.ao.tripLatched := s.postSev_ao_tripLatched ..
@[simp] theorem State.postSev_ao_inputFell (code source : Nat) (slot : Option Nat) (sev : Nat) (p : BitVec 128) :
    (s.postSev code source slot sev p).ao.inputFell = s.ao.inputFell := by
  simp only [State.postSev, State.wakeOn_ao, State.latch_ao]; split <;> rfl
@[simp] theorem State.post_ao_inputFell (code source : Nat) (slot : Option Nat) (p : BitVec 128) :
    (s.post code source slot p).ao.inputFell = s.ao.inputFell := s.postSev_ao_inputFell ..
@[simp] theorem State.postSev_evt_err (code source : Nat) (slot : Option Nat) (sev : Nat) (p : BitVec 128) :
    (s.postSev code source slot sev p).evt.err = s.evt.err := by
  simp only [State.postSev, State.wakeOn_evt, State.latch_evt_err]; split <;> rfl
@[simp] theorem State.post_evt_err (code source : Nat) (slot : Option Nat) (p : BitVec 128) :
    (s.post code source slot p).evt.err = s.evt.err := s.postSev_evt_err ..
@[simp] theorem State.postSev_evt_sizeLog2 (code source : Nat) (slot : Option Nat) (sev : Nat) (p : BitVec 128) :
    (s.postSev code source slot sev p).evt.sizeLog2 = s.evt.sizeLog2 := by
  simp only [State.postSev, State.wakeOn_evt, State.latch_evt_sizeLog2]; split <;> rfl
@[simp] theorem State.post_evt_sizeLog2 (code source : Nat) (slot : Option Nat) (p : BitVec 128) :
    (s.post code source slot p).evt.sizeLog2 = s.evt.sizeLog2 := s.postSev_evt_sizeLog2 ..
@[simp] theorem State.postSev_evt_loc (code source : Nat) (slot : Option Nat) (sev : Nat) (p : BitVec 128) :
    (s.postSev code source slot sev p).evt.loc = s.evt.loc := by
  simp only [State.postSev, State.wakeOn_evt, State.latch_evt_loc]; split <;> rfl
@[simp] theorem State.post_evt_loc (code source : Nat) (slot : Option Nat) (p : BitVec 128) :
    (s.post code source slot p).evt.loc = s.evt.loc := s.postSev_evt_loc ..
@[simp] theorem State.postSev_evt_ring (code source : Nat) (slot : Option Nat) (sev : Nat) (p : BitVec 128) :
    (s.postSev code source slot sev p).evt.ring = s.evt.ring := by
  simp only [State.postSev, State.wakeOn_evt, State.latch_evt_ring]; split <;> rfl
@[simp] theorem State.post_evt_ring (code source : Nat) (slot : Option Nat) (p : BitVec 128) :
    (s.post code source slot p).evt.ring = s.evt.ring := s.postSev_evt_ring ..
@[simp] theorem State.postSev_evt_base (code source : Nat) (slot : Option Nat) (sev : Nat) (p : BitVec 128) :
    (s.postSev code source slot sev p).evt.base = s.evt.base := by
  simp only [State.postSev, State.wakeOn_evt, State.latch_evt_base]; split <;> rfl
@[simp] theorem State.post_evt_base (code source : Nat) (slot : Option Nat) (p : BitVec 128) :
    (s.post code source slot p).evt.base = s.evt.base := s.postSev_evt_base ..
@[simp] theorem State.postSev_evt_head (code source : Nat) (slot : Option Nat) (sev : Nat) (p : BitVec 128) :
    (s.postSev code source slot sev p).evt.head = s.evt.head := by
  simp only [State.postSev, State.wakeOn_evt, State.latch_evt_head]; split <;> rfl
@[simp] theorem State.post_evt_head (code source : Nat) (slot : Option Nat) (p : BitVec 128) :
    (s.post code source slot p).evt.head = s.evt.head := s.postSev_evt_head ..
@[simp] theorem State.postSev_evt_tail (code source : Nat) (slot : Option Nat) (sev : Nat) (p : BitVec 128) :
    (s.postSev code source slot sev p).evt.tail = s.evt.tail := by
  simp only [State.postSev, State.wakeOn_evt, State.latch_evt_tail]; split <;> rfl
@[simp] theorem State.post_evt_tail (code source : Nat) (slot : Option Nat) (p : BitVec 128) :
    (s.post code source slot p).evt.tail = s.evt.tail := s.postSev_evt_tail ..
@[simp] theorem State.postSev_evt_phase (code source : Nat) (slot : Option Nat) (sev : Nat) (p : BitVec 128) :
    (s.postSev code source slot sev p).evt.phase = s.evt.phase := by
  simp only [State.postSev, State.wakeOn_evt, State.latch_evt_phase]; split <;> rfl
@[simp] theorem State.post_evt_phase (code source : Nat) (slot : Option Nat) (p : BitVec 128) :
    (s.post code source slot p).evt.phase = s.evt.phase := s.postSev_evt_phase ..
@[simp] theorem State.postSev_evt_overflows (code source : Nat) (slot : Option Nat) (sev : Nat) (p : BitVec 128) :
    (s.postSev code source slot sev p).evt.overflows = s.evt.overflows := by
  simp only [State.postSev, State.wakeOn_evt, State.latch_evt_overflows]; split <;> rfl
@[simp] theorem State.post_evt_overflows (code source : Nat) (slot : Option Nat) (p : BitVec 128) :
    (s.post code source slot p).evt.overflows = s.evt.overflows := s.postSev_evt_overflows ..
@[simp] theorem State.postSev_evt_sbEnable (code source : Nat) (slot : Option Nat) (sev : Nat) (p : BitVec 128) :
    (s.postSev code source slot sev p).evt.sbEnable = s.evt.sbEnable := by
  simp only [State.postSev, State.wakeOn_evt, State.latch_evt_sbEnable]; split <;> rfl
@[simp] theorem State.post_evt_sbEnable (code source : Nat) (slot : Option Nat) (p : BitVec 128) :
    (s.post code source slot p).evt.sbEnable = s.evt.sbEnable := s.postSev_evt_sbEnable ..
@[simp] theorem State.postSev_evt_sbActiveLow (code source : Nat) (slot : Option Nat) (sev : Nat) (p : BitVec 128) :
    (s.postSev code source slot sev p).evt.sbActiveLow = s.evt.sbActiveLow := by
  simp only [State.postSev, State.wakeOn_evt, State.latch_evt_sbActiveLow]; split <;> rfl
@[simp] theorem State.post_evt_sbActiveLow (code source : Nat) (slot : Option Nat) (p : BitVec 128) :
    (s.post code source slot p).evt.sbActiveLow = s.evt.sbActiveLow := s.postSev_evt_sbActiveLow ..
@[simp] theorem State.postSev_evt_sbMasked (code source : Nat) (slot : Option Nat) (sev : Nat) (p : BitVec 128) :
    (s.postSev code source slot sev p).evt.sbMasked = s.evt.sbMasked := by
  simp only [State.postSev, State.wakeOn_evt, State.latch_evt_sbMasked]; split <;> rfl
@[simp] theorem State.post_evt_sbMasked (code source : Nat) (slot : Option Nat) (p : BitVec 128) :
    (s.post code source slot p).evt.sbMasked = s.evt.sbMasked := s.postSev_evt_sbMasked ..
@[simp] theorem State.postSev_evt_sbPin (code source : Nat) (slot : Option Nat) (sev : Nat) (p : BitVec 128) :
    (s.postSev code source slot sev p).evt.sbPin = s.evt.sbPin := by
  simp only [State.postSev, State.wakeOn_evt, State.latch_evt_sbPin]; split <;> rfl
@[simp] theorem State.post_evt_sbPin (code source : Nat) (slot : Option Nat) (p : BitVec 128) :
    (s.post code source slot p).evt.sbPin = s.evt.sbPin := s.postSev_evt_sbPin ..
@[simp] theorem State.postSev_evt_sbTimes (code source : Nat) (slot : Option Nat) (sev : Nat) (p : BitVec 128) :
    (s.postSev code source slot sev p).evt.sbTimes = s.evt.sbTimes := by
  simp only [State.postSev, State.wakeOn_evt, State.latch_evt_sbTimes]; split <;> rfl
@[simp] theorem State.post_evt_sbTimes (code source : Nat) (slot : Option Nat) (p : BitVec 128) :
    (s.post code source slot p).evt.sbTimes = s.evt.sbTimes := s.postSev_evt_sbTimes ..
@[simp] theorem State.postSev_evt_sbCount (code source : Nat) (slot : Option Nat) (sev : Nat) (p : BitVec 128) :
    (s.postSev code source slot sev p).evt.sbCount = s.evt.sbCount := by
  simp only [State.postSev, State.wakeOn_evt, State.latch_evt_sbCount]; split <;> rfl
@[simp] theorem State.post_evt_sbCount (code source : Nat) (slot : Option Nat) (p : BitVec 128) :
    (s.post code source slot p).evt.sbCount = s.evt.sbCount := s.postSev_evt_sbCount ..
@[simp] theorem State.postSev_evt_mask (code source : Nat) (slot : Option Nat) (sev : Nat) (p : BitVec 128) :
    (s.postSev code source slot sev p).evt.mask = s.evt.mask := by
  simp only [State.postSev, State.wakeOn_evt, State.latch_evt_mask]; split <;> rfl
@[simp] theorem State.post_evt_mask (code source : Nat) (slot : Option Nat) (p : BitVec 128) :
    (s.post code source slot p).evt.mask = s.evt.mask := s.postSev_evt_mask ..
@[simp] theorem State.postSev_evt_wakeEn (code source : Nat) (slot : Option Nat) (sev : Nat) (p : BitVec 128) :
    (s.postSev code source slot sev p).evt.wakeEn = s.evt.wakeEn := by
  simp only [State.postSev, State.wakeOn_evt, State.latch_evt_wakeEn]; split <;> rfl
@[simp] theorem State.post_evt_wakeEn (code source : Nat) (slot : Option Nat) (p : BitVec 128) :
    (s.post code source slot p).evt.wakeEn = s.evt.wakeEn := s.postSev_evt_wakeEn ..
@[simp] theorem State.postSev_evt_wakeSrc (code source : Nat) (slot : Option Nat) (sev : Nat) (p : BitVec 128) :
    (s.postSev code source slot sev p).evt.wakeSrc = s.evt.wakeSrc := by
  simp only [State.postSev, State.wakeOn_evt, State.latch_evt_wakeSrc]; split <;> rfl
@[simp] theorem State.post_evt_wakeSrc (code source : Nat) (slot : Option Nat) (p : BitVec 128) :
    (s.post code source slot p).evt.wakeSrc = s.evt.wakeSrc := s.postSev_evt_wakeSrc ..
@[simp] theorem State.post_read_slot (code source : Nat) (slot : Option Nat) (p : BitVec 128) (n : Nat) :
    (s.post code source slot p).slot n = s.slot n := by simp [State.slot]
@[simp] theorem State.postSev_read_slot (code source : Nat) (slot : Option Nat) (sev : Nat) (p : BitVec 128) (n : Nat) :
    (s.postSev code source slot sev p).slot n = s.slot n := by simp [State.slot]
@[simp] theorem State.post_read_cell (code source : Nat) (slot : Option Nat) (p : BitVec 128) (n : Nat) :
    (s.post code source slot p).cell n = s.cell n := by simp [State.cell]
@[simp] theorem State.postSev_read_cell (code source : Nat) (slot : Option Nat) (sev : Nat) (p : BitVec 128) (n : Nat) :
    (s.postSev code source slot sev p).cell n = s.cell n := by simp [State.cell]
@[simp] theorem State.post_read_stack (code source : Nat) (slot : Option Nat) (p : BitVec 128) (n : Nat) :
    (s.post code source slot p).stack n = s.stack n := by simp [State.stack]
@[simp] theorem State.postSev_read_stack (code source : Nat) (slot : Option Nat) (sev : Nat) (p : BitVec 128) (n : Nat) :
    (s.postSev code source slot sev p).stack n = s.stack n := by simp [State.stack]
@[simp] theorem State.post_read_port (code source : Nat) (slot : Option Nat) (p : BitVec 128) (n : Nat) :
    (s.post code source slot p).port n = s.port n := by simp [State.port]
@[simp] theorem State.postSev_read_port (code source : Nat) (slot : Option Nat) (sev : Nat) (p : BitVec 128) (n : Nat) :
    (s.postSev code source slot sev p).port n = s.port n := by simp [State.port]
@[simp] theorem State.post_read_chan (code source : Nat) (slot : Option Nat) (p : BitVec 128) (n : Nat) :
    (s.post code source slot p).chan n = s.chan n := by simp [State.chan]
@[simp] theorem State.postSev_read_chan (code source : Nat) (slot : Option Nat) (sev : Nat) (p : BitVec 128) (n : Nat) :
    (s.postSev code source slot sev p).chan n = s.chan n := by simp [State.chan]
@[simp] theorem State.post_read_numSlot (code source : Nat) (slot : Option Nat) (p : BitVec 128) (n : Nat) :
    (s.post code source slot p).numSlot n = s.numSlot n := by simp [State.numSlot]
@[simp] theorem State.postSev_read_numSlot (code source : Nat) (slot : Option Nat) (sev : Nat) (p : BitVec 128) (n : Nat) :
    (s.postSev code source slot sev p).numSlot n = s.numSlot n := by simp [State.numSlot]
@[simp] theorem State.post_read_dieState (code source : Nat) (slot : Option Nat) (p : BitVec 128) (n : Nat) :
    (s.post code source slot p).dieState n = s.dieState n := by simp [State.dieState]
@[simp] theorem State.postSev_read_dieState (code source : Nat) (slot : Option Nat) (sev : Nat) (p : BitVec 128) (n : Nat) :
    (s.postSev code source slot sev p).dieState n = s.dieState n := by simp [State.dieState]
@[simp] theorem State.post_read_gen (code source : Nat) (slot : Option Nat) (p : BitVec 128) (n : Nat) :
    (s.post code source slot p).gen n = s.gen n := by simp [State.gen]
@[simp] theorem State.postSev_read_gen (code source : Nat) (slot : Option Nat) (sev : Nat) (p : BitVec 128) (n : Nat) :
    (s.postSev code source slot sev p).gen n = s.gen n := by simp [State.gen]

/-- An occurrence of an unmasked source with none pending is latched whole. -/
theorem State.latch_pend_new {source : Nat} {r : EvRec} (hm : s.isMasked source = false) (hp : sget none s.evt.pend source = none) :
    sget none (s.latch source r).evt.pend source = some r := by
  simp only [State.latch, hm, hp]
  exact sget_sset_new _ _ _ (by simp)

/-- An occurrence of a pending source only sets COALESCED in the latched record. -/
theorem State.latch_pend_again {source : Nat} {r q : EvRec} (hm : s.isMasked source = false) (hp : sget none s.evt.pend source = some q) :
    sget none (s.latch source r).evt.pend source = some { q with coalesced := true } := by
  simp only [State.latch, hm, hp]
  exact sget_sset_new _ _ _ (by simp)

/-- An occurrence of a masked source only counts. -/
theorem State.latch_masked {source : Nat} {r : EvRec} (hm : s.isMasked source = true) :
    s.latch source r = { s with evt := { s.evt with masked := s.evt.masked + 1 } } := by
  simp [State.latch, hm]

/-- What a posted event leaves pending at its source. -/
theorem State.post_pend_new {code source : Nat} {slot : Option Nat} {p : BitVec 128} (hm : s.isMasked source = false)
    (hp : sget none s.evt.pend source = none) :
    sget none (s.post code source slot p).evt.pend source = some (s.eventRecord code source slot (severity code) p) := by
  unfold State.post State.postSev
  rw [State.wakeOn_evt]
  refine State.latch_pend_new _ ?_ ?_
  · split <;> exact hm
  · split <;> exact hp

theorem State.latch_pend_ne {source k : Nat} {r : EvRec} (h : k ≠ source) :
    sget none (s.latch source r).evt.pend k = sget none s.evt.pend k := by
  unfold State.latch
  by_cases hm : s.isMasked source = true
  · simp only [hm, if_true]
  · simp only [hm]
    cases sget none s.evt.pend source with
    | none => exact sget_sset_ne _ _ _ h
    | some q => exact sget_sset_ne _ _ _ h

/-- The other sources are untouched. -/
theorem State.post_pend_ne {code source k : Nat} {slot : Option Nat} {p : BitVec 128} (h : k ≠ source) :
    sget none (s.post code source slot p).evt.pend k = sget none s.evt.pend k := by
  unfold State.post State.postSev
  rw [State.wakeOn_evt]
  refine (State.latch_pend_ne _ h).trans ?_
  split <;> rfl

/-! ## The write gate (14:R360) -/

theorem State.command_accepted {m : Master} {offset : Nat} {f : State → State} (hr : s.reaches m = true) (ho : s.own.owner = some m)
    (ha : s.answers offset = true) : s.command m offset f = (f s).answerWrite m 0 := by
  simp [State.command, hr, State.isOwner, ho, ha]

theorem State.command_dropped {m : Master} {offset : Nat} {f : State → State} (hr : s.reaches m = true) (ho : s.own.owner ≠ some m) :
    s.command m offset f = (s.drop m 0 offset).answerWrite m 1 := by
  simp [State.command, hr, State.isOwner, ho]

theorem State.command_unreachable {m : Master} {offset : Nat} {f : State → State} (hr : s.reaches m = false) :
    s.command m offset f = s := by
  simp [State.command, hr]

theorem State.gate_owner {m : Master} {kind addr : Nat} {f : State → State} (ho : s.own.owner = some m) : s.gate m kind addr f = f s := by
  simp [State.gate, State.isOwner, ho]

theorem State.gate_other {m : Master} {kind addr : Nat} {f : State → State} (ho : s.own.owner ≠ some m) :
    s.gate m kind addr f = s.drop m kind addr := by
  simp [State.gate, State.isOwner, ho]


@[simp] theorem State.answerWrite_pending (m : Master) (code : Nat) : (s.answerWrite m code).pending = s.pending := by cases m <;> rfl
@[simp] theorem State.answerWrite_fresh (m : Master) (code : Nat) : (s.answerWrite m code).fresh = s.fresh := by cases m <;> rfl
@[simp] theorem State.answerWrite_ao (m : Master) (code : Nat) : (s.answerWrite m code).ao = s.ao := by cases m <;> rfl
@[simp] theorem State.answerWrite_fuses (m : Master) (code : Nat) : (s.answerWrite m code).fuses = s.fuses := by cases m <;> rfl
@[simp] theorem State.answerWrite_sec (m : Master) (code : Nat) : (s.answerWrite m code).sec = s.sec := by cases m <;> rfl
@[simp] theorem State.answerWrite_tst (m : Master) (code : Nat) : (s.answerWrite m code).tst = s.tst := by cases m <;> rfl
@[simp] theorem State.answerWrite_glb (m : Master) (code : Nat) : (s.answerWrite m code).glb = s.glb := by cases m <;> rfl
@[simp] theorem State.answerWrite_own (m : Master) (code : Nat) : (s.answerWrite m code).own = s.own := by cases m <;> rfl
@[simp] theorem State.answerWrite_evt (m : Master) (code : Nat) : (s.answerWrite m code).evt = s.evt := by cases m <;> rfl
@[simp] theorem State.answerWrite_pwr (m : Master) (code : Nat) : (s.answerWrite m code).pwr = s.pwr := by cases m <;> rfl
@[simp] theorem State.answerWrite_ctx (m : Master) (code : Nat) : (s.answerWrite m code).ctx = s.ctx := by cases m <;> rfl
@[simp] theorem State.answerWrite_sch (m : Master) (code : Nat) : (s.answerWrite m code).sch = s.sch := by cases m <;> rfl
@[simp] theorem State.answerWrite_num (m : Master) (code : Nat) : (s.answerWrite m code).num = s.num := by cases m <;> rfl
@[simp] theorem State.answerWrite_wld (m : Master) (code : Nat) : (s.answerWrite m code).wld = s.wld := by cases m <;> rfl
@[simp] theorem State.answerWrite_flt (m : Master) (code : Nat) : (s.answerWrite m code).flt = s.flt := by cases m <;> rfl
@[simp] theorem State.answerWrite_stacks (m : Master) (code : Nat) : (s.answerWrite m code).stks = s.stks := by cases m <;> rfl
@[simp] theorem State.answerWrite_mem (m : Master) (code : Nat) : (s.answerWrite m code).mem = s.mem := by cases m <;> rfl
@[simp] theorem State.answerWrite_lnk (m : Master) (code : Nat) : (s.answerWrite m code).lnk = s.lnk := by cases m <;> rfl
@[simp] theorem State.answerWrite_cells (m : Master) (code : Nat) : (s.answerWrite m code).cells = s.cells := by cases m <;> rfl
@[simp] theorem State.answerWrite_flight (m : Master) (code : Nat) : (s.answerWrite m code).flight = s.flight := by cases m <;> rfl
@[simp] theorem State.drop_pending (m : Master) (kind addr : Nat) : (s.drop m kind addr).pending = s.pending := by cases m <;> rfl
@[simp] theorem State.drop_out (m : Master) (kind addr : Nat) : (s.drop m kind addr).out = s.out := by cases m <;> rfl
@[simp] theorem State.drop_fresh (m : Master) (kind addr : Nat) : (s.drop m kind addr).fresh = s.fresh := by cases m <;> rfl
@[simp] theorem State.drop_ao (m : Master) (kind addr : Nat) : (s.drop m kind addr).ao = s.ao := by cases m <;> rfl
@[simp] theorem State.drop_fuses (m : Master) (kind addr : Nat) : (s.drop m kind addr).fuses = s.fuses := by cases m <;> rfl
@[simp] theorem State.drop_sec (m : Master) (kind addr : Nat) : (s.drop m kind addr).sec = s.sec := by cases m <;> rfl
@[simp] theorem State.drop_tst (m : Master) (kind addr : Nat) : (s.drop m kind addr).tst = s.tst := by cases m <;> rfl
@[simp] theorem State.drop_glb (m : Master) (kind addr : Nat) : (s.drop m kind addr).glb = s.glb := by cases m <;> rfl
@[simp] theorem State.drop_evt (m : Master) (kind addr : Nat) : (s.drop m kind addr).evt = s.evt := by cases m <;> rfl
@[simp] theorem State.drop_pwr (m : Master) (kind addr : Nat) : (s.drop m kind addr).pwr = s.pwr := by cases m <;> rfl
@[simp] theorem State.drop_ctx (m : Master) (kind addr : Nat) : (s.drop m kind addr).ctx = s.ctx := by cases m <;> rfl
@[simp] theorem State.drop_sch (m : Master) (kind addr : Nat) : (s.drop m kind addr).sch = s.sch := by cases m <;> rfl
@[simp] theorem State.drop_num (m : Master) (kind addr : Nat) : (s.drop m kind addr).num = s.num := by cases m <;> rfl
@[simp] theorem State.drop_wld (m : Master) (kind addr : Nat) : (s.drop m kind addr).wld = s.wld := by cases m <;> rfl
@[simp] theorem State.drop_flt (m : Master) (kind addr : Nat) : (s.drop m kind addr).flt = s.flt := by cases m <;> rfl
@[simp] theorem State.drop_stacks (m : Master) (kind addr : Nat) : (s.drop m kind addr).stks = s.stks := by cases m <;> rfl
@[simp] theorem State.drop_mem (m : Master) (kind addr : Nat) : (s.drop m kind addr).mem = s.mem := by cases m <;> rfl
@[simp] theorem State.drop_lnk (m : Master) (kind addr : Nat) : (s.drop m kind addr).lnk = s.lnk := by cases m <;> rfl
@[simp] theorem State.drop_cells (m : Master) (kind addr : Nat) : (s.drop m kind addr).cells = s.cells := by cases m <;> rfl
@[simp] theorem State.drop_flight (m : Master) (kind addr : Nat) : (s.drop m kind addr).flight = s.flight := by cases m <;> rfl
@[simp] theorem State.bad_pending (m : Master) (kind addr : Nat) : (s.bad m kind addr).pending = s.pending := rfl
@[simp] theorem State.bad_out (m : Master) (kind addr : Nat) : (s.bad m kind addr).out = s.out := rfl
@[simp] theorem State.bad_fresh (m : Master) (kind addr : Nat) : (s.bad m kind addr).fresh = s.fresh := rfl
@[simp] theorem State.bad_ao (m : Master) (kind addr : Nat) : (s.bad m kind addr).ao = s.ao := rfl
@[simp] theorem State.bad_fuses (m : Master) (kind addr : Nat) : (s.bad m kind addr).fuses = s.fuses := rfl
@[simp] theorem State.bad_sec (m : Master) (kind addr : Nat) : (s.bad m kind addr).sec = s.sec := rfl
@[simp] theorem State.bad_tst (m : Master) (kind addr : Nat) : (s.bad m kind addr).tst = s.tst := rfl
@[simp] theorem State.bad_own (m : Master) (kind addr : Nat) : (s.bad m kind addr).own = s.own := rfl
@[simp] theorem State.bad_evt (m : Master) (kind addr : Nat) : (s.bad m kind addr).evt = s.evt := rfl
@[simp] theorem State.bad_pwr (m : Master) (kind addr : Nat) : (s.bad m kind addr).pwr = s.pwr := rfl
@[simp] theorem State.bad_ctx (m : Master) (kind addr : Nat) : (s.bad m kind addr).ctx = s.ctx := rfl
@[simp] theorem State.bad_sch (m : Master) (kind addr : Nat) : (s.bad m kind addr).sch = s.sch := rfl
@[simp] theorem State.bad_num (m : Master) (kind addr : Nat) : (s.bad m kind addr).num = s.num := rfl
@[simp] theorem State.bad_wld (m : Master) (kind addr : Nat) : (s.bad m kind addr).wld = s.wld := rfl
@[simp] theorem State.bad_flt (m : Master) (kind addr : Nat) : (s.bad m kind addr).flt = s.flt := rfl
@[simp] theorem State.bad_stacks (m : Master) (kind addr : Nat) : (s.bad m kind addr).stks = s.stks := rfl
@[simp] theorem State.bad_mem (m : Master) (kind addr : Nat) : (s.bad m kind addr).mem = s.mem := rfl
@[simp] theorem State.bad_lnk (m : Master) (kind addr : Nat) : (s.bad m kind addr).lnk = s.lnk := rfl
@[simp] theorem State.bad_cells (m : Master) (kind addr : Nat) : (s.bad m kind addr).cells = s.cells := rfl
@[simp] theorem State.bad_flight (m : Master) (kind addr : Nat) : (s.bad m kind addr).flight = s.flight := rfl
@[simp] theorem State.answerWrite_read_slot (m : Master) (code n : Nat) : (s.answerWrite m code).slot n = s.slot n := by cases m <;> rfl
@[simp] theorem State.answerWrite_read_cell (m : Master) (code n : Nat) : (s.answerWrite m code).cell n = s.cell n := by cases m <;> rfl
@[simp] theorem State.answerWrite_read_stack (m : Master) (code n : Nat) : (s.answerWrite m code).stack n = s.stack n := by cases m <;> rfl
@[simp] theorem State.answerWrite_read_port (m : Master) (code n : Nat) : (s.answerWrite m code).port n = s.port n := by cases m <;> rfl
@[simp] theorem State.answerWrite_read_chan (m : Master) (code n : Nat) : (s.answerWrite m code).chan n = s.chan n := by cases m <;> rfl
@[simp] theorem State.answerWrite_read_numSlot (m : Master) (code n : Nat) : (s.answerWrite m code).numSlot n = s.numSlot n := by cases m <;> rfl
@[simp] theorem State.answerWrite_read_dieState (m : Master) (code n : Nat) : (s.answerWrite m code).dieState n = s.dieState n := by cases m <;> rfl
@[simp] theorem State.answerWrite_read_gen (m : Master) (code n : Nat) : (s.answerWrite m code).gen n = s.gen n := by cases m <;> rfl

/-! ## Device memory (09:R240, R241) -/

/-- The canonical form of device memory. -/
theorem DevMem.writeWord_wf {m : DevMem} (hb : swf 0 m.bytes = true) (ht : swf 0 m.tags = true) (he : swf none m.errs = true)
    (w : Nat) (d : Bytes) (tag : Option (BitVec 4)) :
    swf 0 (m.writeWord w d tag).bytes = true ∧ swf 0 (m.writeWord w d tag).tags = true ∧ swf none (m.writeWord w d tag).errs = true := by
  refine ⟨swf_swrite _ _ hb _, ?_, swf_sset _ he _ _⟩
  unfold DevMem.writeWord
  cases tag with
  | none => exact ht
  | some t => exact swf_sset _ ht _ _

/-- A whole-word write leaves the bytes of every other word alone. -/
theorem DevMem.writeWord_bytes_out (m : DevMem) {w a : Nat} (d : Bytes) (tag : Option (BitVec 4)) (h : a < w * 64 ∨ w * 64 + 64 ≤ a) :
    sget 0 (m.writeWord w d tag).bytes a = sget 0 m.bytes a := by
  refine sget_swrite_out _ _ _ ?_
  simp only [List.length_take, List.length_append, List.length_replicate]
  omega

/-- A whole word written reads back byte by byte. -/
theorem DevMem.writeWord_bytes_in {m : DevMem} (hb : swf 0 m.bytes = true) {w i : Nat} {d : Bytes} (tag : Option (BitVec 4)) (hd : d.length = 64)
    (hi : i < 64) : sget 0 (m.writeWord w d tag).bytes (w * 64 + i) = d.getD i 0 := by
  have h : (d ++ List.replicate 64 0).take 64 = d := by rw [← hd]; simp
  simp only [DevMem.writeWord, h]
  rw [sget_swrite_in _ _ hb (by omega) (by omega)]
  congr 1; omega

end Sys2Proof.Machine
end

