-- ==== Sys2Proof/Laws/Tags.lean ====
section
/-! SUPPORT. Seals of barges (10:R260 to R263): a sealed tag passes its check, and its other fields are those of the tag that was sealed. -/

namespace Sys2Proof.Machine

open Sys2Proof

/-- The bytes of a number, least significant first, read back as the number modulo their range. -/
theorem leNat_leBytes (n x : Nat) : leNat (leBytes n x) = x % 256 ^ n := by
  induction n generalizing x with
  | zero => simp [leBytes, leNat, Nat.mod_one]
  | succ n ih =>
    have e : leBytes (n + 1) x = BitVec.ofNat 8 x :: leBytes n (x / 256) := by
      unfold leBytes
      rw [List.range_succ_eq_map, List.map_cons, List.map_map]
      congr 1
      · simp
      · apply List.map_congr_left
        intro i _
        simp only [Function.comp, Nat.succ_eq_add_one, Nat.pow_succ', ← Nat.div_div_eq_div_mul]
    rw [e, leNat, ih, BitVec.toNat_ofNat]
    have p : 256 ^ (n + 1) = 256 * 256 ^ n := Nat.pow_succ'
    rw [p]
    exact (Nat.mod_mul ..).symm

/-- A sealed tag as a number. -/
theorem sealTag_toNat (p : Bytes) (t : Nat) : (sealTag p t).toNat = (t / 2 ^ 32 * 2 ^ 32 + (checkValue p t).toNat) % 2 ^ 256 := by
  unfold sealTag
  rw [BitVec.toNat_ofNat]
  have h := Nat.div_add_mod t (2 ^ 32)
  have : t - t % 2 ^ 32 = t / 2 ^ 32 * 2 ^ 32 := by omega
  rw [this]

/-- Sealing changes no bit above the check value. -/
theorem sealTag_div (p : Bytes) (t : Nat) : (sealTag p t).toNat / 2 ^ 32 = t / 2 ^ 32 % 2 ^ 224 := by
  have h := (checkValue p t).isLt
  rw [sealTag_toNat]
  omega

theorem sealTag_mod (p : Bytes) (t : Nat) : (sealTag p t).toNat % 2 ^ 32 = (checkValue p t).toNat := by
  have h := (checkValue p t).isLt
  rw [sealTag_toNat]
  omega

/-- A field of a sealed tag is that of the tag, the check value apart. -/
theorem tagField_sealTag (p : Bytes) (t : Nat) {h l : Nat} (hl : 32 ≤ l) (hh : h < 256) : tagField (sealTag p t) h l = bits t h l := by
  unfold tagField bits
  obtain ⟨k, rfl⟩ := Nat.le.dest hl
  have e : 2 ^ (32 + k) = 2 ^ 32 * 2 ^ k := Nat.pow_add 2 32 k
  rw [e, ← Nat.div_div_eq_div_mul, ← Nat.div_div_eq_div_mul, sealTag_div]
  by_cases hk : h + 1 - (32 + k) = 0
  · simp [hk, Nat.mod_one]
  · have e1 : 2 ^ 224 = 2 ^ k * 2 ^ (224 - k) := by rw [← Nat.pow_add]; congr 1; omega
    have e2 : 2 ^ (224 - k) = 2 ^ (h + 1 - (32 + k)) * 2 ^ (224 - k - (h + 1 - (32 + k))) := by rw [← Nat.pow_add]; congr 1; omega
    rw [e1, Nat.mod_mul_right_div_self, e2, Nat.mod_mul_right_mod]

/-- The bytes that the check value covers depend on what stands above it alone. -/
theorem covered_of_div {a b : Nat} (h : a / 2 ^ 32 % 2 ^ 224 = b / 2 ^ 32 % 2 ^ 224) : (leBytes 32 a).drop 4 = (leBytes 32 b).drop 4 := by
  apply List.ext_getElem
  · simp [leBytes]
  · intro i hi _
    have hi : i < 28 := by simpa [leBytes] using hi
    simp only [leBytes, List.getElem_drop, List.getElem_map, List.getElem_range]
    apply BitVec.eq_of_toNat_eq
    simp only [BitVec.toNat_ofNat]
    have e : 256 ^ (4 + i) = 2 ^ 32 * 2 ^ (8 * i) := by
      rw [show 256 = 2 ^ 8 from rfl, ← Nat.pow_mul, ← Nat.pow_add]; congr 1; omega
    have key (x : Nat) : x / 256 ^ (4 + i) % 2 ^ 8 = x / 2 ^ 32 % 2 ^ 224 / 2 ^ (8 * i) % 2 ^ 8 := by
      have e1 : 2 ^ 224 = 2 ^ (8 * i) * 2 ^ (224 - 8 * i) := by rw [← Nat.pow_add]; congr 1; omega
      have e2 : 2 ^ (224 - 8 * i) = 2 ^ 8 * 2 ^ (224 - 8 * i - 8) := by rw [← Nat.pow_add]; congr 1; omega
      rw [e, ← Nat.div_div_eq_div_mul, e1, Nat.mod_mul_right_div_self, e2, Nat.mod_mul_right_mod]
    rw [key a, key b, h]

/-- A sealed barge passes its check. -/
theorem tagOk_sealTag (p : Bytes) (t : Nat) : tagOk p (sealTag p t) = true := by
  have e : (leBytes 32 (sealTag p t).toNat).drop 4 = (leBytes 32 t).drop 4 := covered_of_div (by rw [sealTag_div]; omega)
  have m : BitVec.ofNat 32 (sealTag p t).toNat = checkValue p t := by
    apply BitVec.eq_of_toNat_eq
    rw [BitVec.toNat_ofNat, sealTag_mod]
  unfold tagOk
  rw [m]
  unfold checkValue
  rw [e]
  simp

end Sys2Proof.Machine
end

