-- ==== Sys2Proof/Laws/Memory.lean ====
section
/-! SUPPORT. Device memory (09:R235 to R243): every operation over it keeps the canonical form; what a write of words or of a barge stores, and what it leaves. -/

namespace Sys2Proof.Machine

open Sys2Proof

theorem Memory.wf_iff (m : DevMem) : Memory.wf m = true ↔ swf 0 m.bytes = true ∧ swf 0 m.tags = true ∧ swf none m.errs = true := by
  simp [Memory.wf, and_assoc]

/-- A property that every step of a fold keeps holds at its end. -/
theorem foldl_keeps {α β : Type} {P : β → Prop} {f : β → α → β} (h : ∀ b a, P b → P (f b a)) (l : List α) (b : β) (hb : P b) : P (l.foldl f b) := by
  induction l generalizing b with
  | nil => exact hb
  | cons a l ih => exact ih _ (h b a hb)

/-! ## The canonical form -/

theorem DevMem.writeWord_memoryWf {m : DevMem} (h : Memory.wf m = true) (w : Nat) (d : Bytes) (tag : Option (BitVec 4)) : Memory.wf (m.writeWord w d tag) = true := by
  rw [Memory.wf_iff] at h ⊢
  exact DevMem.writeWord_wf h.1 h.2.1 h.2.2 w d tag

theorem State.writeWord_memoryWf {s : State} (h : Memory.wf s.mem = true) (w : Nat) (d : Bytes) (tag : Option (BitVec 4)) : Memory.wf (s.writeWord w d tag).mem = true :=
  DevMem.writeWord_memoryWf h w d tag

theorem State.writeWords_memoryWf {s : State} (h : Memory.wf s.mem = true) (w : Nat) (d : Bytes) (n : Nat) (tag : Nat → Option (BitVec 4)) :
    Memory.wf (s.writeWords w d n tag).mem = true :=
  foldl_keeps (P := fun s : State => Memory.wf s.mem = true) (fun _ _ hb => State.writeWord_memoryWf hb _ _ _) _ s h

theorem State.writeOwn_memoryWf {s : State} (h : Memory.wf s.mem = true) (a : Nat) (d : Bytes) : Memory.wf (s.writeOwn a d).mem = true := State.writeWords_memoryWf h _ _ _ _

theorem State.writeBarge_memoryWf {s : State} (h : Memory.wf s.mem = true) (a : Nat) (p : Bytes) (tag : BitVec 256) : Memory.wf (s.writeBarge a p tag).mem = true :=
  State.writeWords_memoryWf h _ _ _ _

theorem State.rawWrite_memoryWf {s : State} (h : Memory.wf s.mem = true) (a : Nat) (d : Bytes) : Memory.wf (s.rawWrite a d).mem = true := by
  refine foldl_keeps (P := fun s : State => Memory.wf s.mem = true) (fun b p hb => ?_) _ s h
  dsimp only
  split
  · exact State.writeWord_memoryWf hb _ _ _
  · exact hb

theorem State.zeroRange_memoryWf {s : State} (h : Memory.wf s.mem = true) (a stop : Nat) : Memory.wf (s.zeroRange a stop).mem = true := by
  rw [Memory.wf_iff] at h ⊢
  exact ⟨swf_filter _ _ h.1, swf_filter _ _ h.2.1, swf_filter _ _ h.2.2⟩

theorem State.zeroStack_memoryWf {s : State} (h : Memory.wf s.mem = true) (k : Nat) : Memory.wf (s.zeroStack k).mem = true := s.zeroRange_memoryWf h _ _

/-- A zeroed range reads as zeros, and every other byte as before. -/
theorem State.zeroRange_bytes (s : State) (a stop j : Nat) :
    sget 0 (s.zeroRange a stop).mem.bytes j = if a ≤ j ∧ j < stop then 0 else sget 0 s.mem.bytes j := by
  change sget 0 (s.mem.bytes.filter _) j = _
  rw [sget_filter 0 (fun k => !decide (a ≤ k * 1 ∧ k * 1 < stop))]
  by_cases hj : a ≤ j ∧ j < stop <;> simp [hj]

theorem State.writeLanes_memoryWf {s : State} (h : Memory.wf s.mem = true) (w : Nat) (d sd : List Nat) : Memory.wf (s.writeLanes w d sd).mem = true := by
  have h1 := (Memory.wf_iff _).1 (State.writeWord_memoryWf h w (d.flatMap (leBytes 4)) (some (BitVec.ofNat 4 ((List.range 16).foldl (fun a b => a + sd.getD b 0 * 16 ^ b) 0))))
  rw [Memory.wf_iff]
  exact ⟨h1.1, h1.2.1, swf_sset _ h1.2.2 _ _⟩

/-- A run of a traffic generator keeps it too. -/
theorem State.tgRun_memoryWf {s : State} (h : Memory.wf s.mem = true) (k c : Nat) (g : TgRun) (n : Nat) : Memory.wf (s.tgRun k c g n).1.mem = true := by
  have one (check : Bool) (pattern : Nat) (seed : Word) (pc w : Nat) (a : State × TgState × TgResult) (ha : Memory.wf a.1.mem = true) : Memory.wf (tgDo check pattern seed pc w a).1.mem = true := by
    unfold tgDo
    cases check
    · exact State.writeLanes_memoryWf ha _ _ _
    · exact ha
  have pass (s : State) (h : Memory.wf s.mem = true) (check : Bool) (n : Nat) (q : TgResult) : Memory.wf (s.tgPass k c g check n q).1.mem = true := by
    refine foldl_keeps (P := fun a : State × TgResult => Memory.wf a.1.mem = true) (fun a pc ha => ?_) (tgPcs g) (s, q) h
    exact foldl_keeps (P := fun a : State × TgState × TgResult => Memory.wf a.1.mem = true) (fun b w hb => one _ _ _ _ _ _ hb) _ (a.1, _, a.2) ha
  unfold State.tgRun
  dsimp only
  split
  · exact pass s h _ _ _
  · split
    · exact pass _ (pass s h _ _ _) _ _ _
    · exact pass s h _ _ _

/-! ## Words written -/

theorem State.writeWords_zero (s : State) (w : Nat) (d : Bytes) (tag : Nat → Option (BitVec 4)) : s.writeWords w d 0 tag = s := rfl

theorem State.writeWords_succ (s : State) (w : Nat) (d : Bytes) (n : Nat) (tag : Nat → Option (BitVec 4)) :
    s.writeWords w d (n + 1) tag = (s.writeWords w d n tag).writeWord (w + n) ((d.drop (64 * n)).take 64) (tag n) := by
  simp [State.writeWords, List.range_succ]

/-- The bytes outside the words written stand. -/
theorem State.writeWords_bytes_out (s : State) {w n a : Nat} (d : Bytes) (tag : Nat → Option (BitVec 4)) (h : a < w * 64 ∨ (w + n) * 64 ≤ a) :
    sget 0 (s.writeWords w d n tag).mem.bytes a = sget 0 s.mem.bytes a := by
  induction n with
  | zero => rfl
  | succ n ih =>
    rw [State.writeWords_succ]
    refine (DevMem.writeWord_bytes_out _ _ _ (by omega)).trans (ih (by omega))

/-- The bytes of the words written are those given. -/
theorem State.writeWords_bytes_in {s : State} (h : Memory.wf s.mem = true) {w n i : Nat} {d : Bytes} (tag : Nat → Option (BitVec 4)) (hd : 64 * n ≤ d.length) (hi : i < 64 * n) :
    sget 0 (s.writeWords w d n tag).mem.bytes (w * 64 + i) = d.getD i 0 := by
  induction n with
  | zero => omega
  | succ n ih =>
    rw [State.writeWords_succ]
    by_cases hn : i < 64 * n
    · refine (DevMem.writeWord_bytes_out _ _ _ (by omega)).trans (ih (by omega) hn)
    · have e : w * 64 + i = (w + n) * 64 + (i - 64 * n) := by omega
      have hb := ((Memory.wf_iff _).1 (State.writeWords_memoryWf h w d n tag)).1
      rw [e]
      refine (DevMem.writeWord_bytes_in hb _ (by simp; omega) (by omega)).trans ?_
      have : i - 64 * n < 64 := by omega
      have e2 : 64 * n + (i - 64 * n) = i := by omega
      simp [List.getD_eq_getElem?_getD, this, e2]

/-- The tag nibbles of the words written are those given. -/
theorem State.writeWords_tags {s : State} (h : Memory.wf s.mem = true) {w n i : Nat} (d : Bytes) (t : Nat → BitVec 4) (hi : i < n) :
    (s.writeWords w d n (fun i => some (t i))).mem.tagNibble (w + i) = t i := by
  induction n with
  | zero => omega
  | succ n ih =>
    rw [State.writeWords_succ]
    have ht := ((Memory.wf_iff _).1 (State.writeWords_memoryWf h w d n (fun i => some (t i)))).2.1
    by_cases hn : i < n
    · refine (sget_sset_ne _ _ _ (by omega)).trans (ih hn)
    · have : i = n := by omega
      subst this
      exact sget_sset_self _ ht _ _

/-- A word just written holds no error. -/
theorem State.writeWords_errs {s : State} (h : Memory.wf s.mem = true) {w n i : Nat} (d : Bytes) (tag : Nat → Option (BitVec 4)) (hi : i < n) :
    sget none (s.writeWords w d n tag).mem.errs (w + i) = none := by
  induction n with
  | zero => omega
  | succ n ih =>
    rw [State.writeWords_succ]
    have he := ((Memory.wf_iff _).1 (State.writeWords_memoryWf h w d n tag)).2.2
    by_cases hn : i < n
    · refine (sget_sset_ne _ _ _ (by omega)).trans (ih hn)
    · have : i = n := by omega
      subst this
      exact sget_sset_self _ he _ _

/-- The tag nibbles of the words written, as the decoder delivers them. -/
theorem State.writeWords_nibbles {s : State} (h : Memory.wf s.mem = true) {w n i : Nat} (d : Bytes) (t : Nat → BitVec 4) (hi : i < n) :
    (s.writeWords w d n (fun i => some (t i))).mem.readNibble (w + i) = t i := by
  rw [DevMem.readNibble, State.writeWords_errs h _ _ hi]
  exact State.writeWords_tags h d t hi

/-! ## Barges written -/

/-- The payload of a barge just written. -/
theorem State.writeBarge_payload {s : State} (h : Memory.wf s.mem = true) {a : Nat} {p : Bytes} (tag : BitVec 256) (ha : a % 64 = 0) (hp : p.length = 4096) :
    sread 0 (s.writeBarge a p tag).mem.bytes a 4096 = p := by
  apply List.ext_getElem
  · simp [sread, hp]
  · intro i hi _
    have hi : i < 4096 := by simpa [sread] using hi
    simp only [sread, List.getElem_map, List.getElem_range]
    have e : a + i = a / 64 * 64 + i := by omega
    rw [e]
    refine (State.writeWords_bytes_in h _ (by omega) (by omega)).trans ?_
    simp [List.getD_eq_getElem?_getD, hp, hi]

theorem nibbles_sum (x : Nat) (n : Nat) : (List.range n).foldl (fun t k => t + x / 16 ^ k % 16 * 16 ^ k) 0 = x % 16 ^ n := by
  induction n with
  | zero => simp [Nat.mod_one]
  | succ n ih =>
    rw [List.range_succ, List.foldl_append, ih, Nat.pow_succ, Nat.mod_mul]
    simp [Nat.mul_comm]

theorem foldl_range_congr {α : Type} {f g : α → Nat → α} {n : Nat} (h : ∀ t k, k < n → f t k = g t k) (b : α) : (List.range n).foldl f b = (List.range n).foldl g b := by
  induction n with
  | zero => rfl
  | succ n ih =>
    rw [List.range_succ, List.foldl_append, List.foldl_append, ih (fun t k hk => h t k (by omega))]
    simp [h _ n (by omega)]

/-- The tag of a barge just written. -/
theorem State.writeBarge_tag {s : State} (h : Memory.wf s.mem = true) (a : Nat) (p : Bytes) (tag : BitVec 256) : (s.writeBarge a p tag).mem.bargeTag a = tag := by
  unfold DevMem.bargeTag State.writeBarge
  rw [foldl_range_congr (g := fun t k => t + tag.toNat / 16 ^ k % 16 * 16 ^ k) (fun t k hk => by rw [State.writeWords_nibbles h _ _ hk, BitVec.toNat_ofNat]), nibbles_sum]
  apply BitVec.eq_of_toNat_eq
  rw [BitVec.toNat_ofNat]
  have := tag.isLt
  have e : (16 : Nat) ^ 64 = 2 ^ 256 := by decide
  rw [e]
  omega

/-- A sealed barge just written passes its check where it stands. -/
theorem State.writeBarge_sealed {s : State} (h : Memory.wf s.mem = true) {a : Nat} {p : Bytes} (t : Nat) (ha : a % 64 = 0) (hp : p.length = 4096) :
    tagOk (sread 0 (s.writeBarge a p (sealTag p t)).mem.bytes a 4096) ((s.writeBarge a p (sealTag p t)).mem.bargeTag a) = true := by
  rw [State.writeBarge_payload h _ ha hp, State.writeBarge_tag h]
  exact tagOk_sealTag p t

/-- Bytes outside a barge stand when it is written. -/
theorem State.writeBarge_bytes_out (s : State) {a j : Nat} (p : Bytes) (tag : BitVec 256) (h : j < a / 64 * 64 ∨ a / 64 * 64 + 4096 ≤ j) :
    sget 0 (s.writeBarge a p tag).mem.bytes j = sget 0 s.mem.bytes j := State.writeWords_bytes_out s p _ (by omega)

end Sys2Proof.Machine
end

