-- ==== Sys2Proof/Laws/Ports.lean ====
section
/-! SUPPORT. The ports of the scratchpad in time: what a landing and a read at a tick can change, and when they change nothing. -/

namespace Sys2Proof.Machine

open Sys2Proof

/-! ## Reads -/

theorem Cell.asOf_eq (c : Cell) (τ : Nat) : ∃ m q, c.asOf τ = { c with spad := m, tileQ := q } := ⟨_, _, rfl⟩

/-- Once every write has landed, a read receives what stands there. -/
theorem Cell.asOf_landed (c : Cell) {τ : Nat} (h : ∀ w ∈ c.landed, w.tick < τ) (hq : ∀ w ∈ c.queueLanded, w.tick + 128 ≤ τ) : c.asOf τ = c := by
  have h1 : c.landed.filter (fun w => decide (τ ≤ w.tick)) = [] := by
    rw [List.filter_eq_nil_iff]
    intro w hw
    simpa using h w hw
  have h2 : c.queueLanded.filter (fun w => decide (τ < w.tick + 128)) = [] := by
    rw [List.filter_eq_nil_iff]
    intro w hw
    simpa using hq w hw
  simp [Cell.asOf, h1, h2]

/-- A cell with nothing on its way is the same at every tick. -/
theorem Cell.asOf_quiet (c : Cell) (τ : Nat) (h : c.landed = []) (hq : c.queueLanded = []) : c.asOf τ = c :=
  c.asOf_landed (by simp [h]) (by simp [hq])

@[simp] theorem displaced_alone (compat : Bool) (mine : List Nat) : displaced compat [] mine = [] := by
  simp [displaced]

@[simp] theorem Cell.wordsFor_nil (c : Cell) (compat : Bool) : c.wordsFor compat [] = c := rfl

theorem Cell.wordsFor_eq (c : Cell) (compat : Bool) (ws : List (Nat × Nat)) : ∃ m, c.wordsFor compat ws = { c with spad := m } := ⟨_, rfl⟩

/-- A read that no other read stands above receives the cell as it stands at its tick. -/
@[simp] theorem Cell.seen_alone (c : Cell) (compat : Bool) (τ : Nat) (mine : List Nat) : c.seen compat τ [] mine = c.asOf τ := by
  simp [Cell.seen]

/-! ## Writes -/

theorem Cell.landByte_eq (c m : Cell) (lost : Bool) (y : Nat × Nat) : ∃ b l, c.landByte lost m y = { m with spad := b, landed := l } := by
  unfold Cell.landByte
  split
  · exact ⟨_, m.landed, rfl⟩
  · split <;> exact ⟨_, _, rfl⟩

/-- Writes that land change the scratchpad and the list of landings of the cell they were made in, and nothing else. -/
theorem Cell.land_eq (c c' : Cell) (ws : List (Nat × Nat)) (lost : Nat → Nat → Bool) : ∃ b l, c.land c' ws lost = { c' with spad := b, landed := l } := by
  unfold Cell.land
  generalize squash ws = l
  induction l generalizing c' with
  | nil => exact ⟨c'.spad, c'.landed, rfl⟩
  | cons y l ih =>
    obtain ⟨b, k, h⟩ := c.landByte_eq c' (lost y.1 y.2) y
    obtain ⟨b', k', h'⟩ := ih (c.landByte (lost y.1 y.2) c' y)
    exact ⟨b', k', by rw [List.foldl_cons, h', h]⟩

theorem Cell.landByte_spadWf {c m : Cell} (h : m.spadWf = true) (lost : Bool) (y : Nat × Nat) : (c.landByte lost m y).spadWf = true := by
  unfold Cell.landByte
  split
  · exact swf_sset 0 h _ _
  · split
    · exact h
    · exact swf_sset 0 h _ _

/-- Landing keeps the canonical form of the scratchpad. -/
theorem Cell.land_spadWf {c c' : Cell} (h : c'.spadWf = true) (ws : List (Nat × Nat)) (lost : Nat → Nat → Bool) : (c.land c' ws lost).spadWf = true :=
  foldl_keeps (P := fun m => Cell.spadWf m = true) (fun _ _ hm => Cell.landByte_spadWf hm _ _) _ _ h

theorem Cell.landByte_spad_ne {c m : Cell} (lost : Bool) (y : Nat × Nat) {a : Nat} (h : a ≠ y.2) : sget 0 (c.landByte lost m y).spad a = sget 0 m.spad a := by
  unfold Cell.landByte
  split
  · exact sget_sset_ne 0 _ _ h
  · split
    · rfl
    · exact sget_sset_ne 0 _ _ h

theorem mem_squash {α : Type} [DecidableEq α] {x : α} : ∀ {l : List α}, x ∈ squash l → x ∈ l
  | [], h => h
  | [_], h => h
  | a :: b :: t, h => by
    rw [squash] at h
    split at h
    · exact List.mem_cons_of_mem _ (mem_squash h)
    · rcases List.mem_cons.mp h with rfl | h
      · exact List.mem_cons_self
      · exact List.mem_cons_of_mem _ (mem_squash h)

/-- A byte that no write names stands as the cell with the writes in place has it. -/
theorem Cell.land_spad_out {c c' : Cell} (ws : List (Nat × Nat)) (lost : Nat → Nat → Bool) {a : Nat} (h : ∀ y ∈ ws, y.2 ≠ a) :
    sget 0 (c.land c' ws lost).spad a = sget 0 c'.spad a := by
  unfold Cell.land
  have key : ∀ (l : List (Nat × Nat)) (m : Cell), (∀ y ∈ l, y.2 ≠ a) → sget 0 (l.foldl (fun m y => c.landByte (lost y.1 y.2) m y) m).spad a = sget 0 m.spad a := by
    intro l
    induction l with
    | nil => intro m _; rfl
    | cons y l ih =>
      intro m hl
      rw [List.foldl_cons, ih _ (fun z hz => hl z (List.mem_cons_of_mem _ hz)), Cell.landByte_spad_ne _ _ (hl y List.mem_cons_self).symm]
  exact key _ _ (fun y hy => h y (mem_squash hy))

/-- With no write on its way and none lost, the cell's scratchpad is that with the writes in place. -/
theorem Cell.land_spad {c : Cell} (c' : Cell) (ws : List (Nat × Nat)) (h : c.landed = []) : (c.land c' ws (fun _ _ => false)).spad = c'.spad := by
  unfold Cell.land
  have key : ∀ (l : List (Nat × Nat)) (m : Cell), (l.foldl (fun m y => c.landByte false m y) m).spad = m.spad := by
    intro l
    induction l with
    | nil => intro m; rfl
    | cons y l ih => intro m; rw [List.foldl_cons, ih]; simp [Cell.landByte, h]
  exact key _ _

/-- A landing is in the list exactly where it was put in or stood before. -/
theorem mem_insertLanding {w v : Landing} : ∀ {l : List Landing}, v ∈ insertLanding w l ↔ v = w ∨ v ∈ l
  | [] => by simp [insertLanding]
  | u :: t => by
    rw [insertLanding]
    split
    · rw [List.mem_cons, mem_insertLanding, List.mem_cons, or_left_comm]
    · exact List.mem_cons

end Sys2Proof.Machine
end

