-- ==== Sys2Proof/WellFormed.lean ====
section
/-! DEFINITION. Well-formed commands: operands that the outside can supply at all. The machine answers ill-formed ones too; a sender that keeps the interface's rules sends none. -/

namespace Sys2Proof

/-- A physical cell number (00:R1). -/
def cellOk (c : BitVec 7) : Bool := decide (c.toNat < 68)

/-- A lay-by entry that exists: a link die has 4,096 slots (11:R298). -/
def LaybyRef.wf (e : LaybyRef) : Bool :=
  match e with
  | .mem _ _ _ => true
  | .link _ n => decide (n < 4096)
  | .sill => true

/-- A flooded link joins two nodes over 1, 2 or 4 lanes (11:R292, R294). -/
def FabricLink.wf (l : FabricLink) : Bool := l.a != l.b && (l.width == 1 || l.width == 2 || l.width == 4)

/-- A channel has 74 lanes (09:R247). -/
def lanesOk (l : List (Fin 8 × Fin 32 × Nat)) : Bool := l.all (fun x => decide (x.2.2 ≤ 74))

/-- What INIT finds names base and link dies only, which alone have die tests, and PLLs 2 to 16: a failure of PLL 0 or 1 ends start-up (15:R402, R403). -/
def BootFindings.wf (f : BootFindings) : Bool :=
  f.badDies.all (fun d => decide (16 ≤ d.val ∧ d.val < 30)) && f.badPlls.all (fun p => decide (2 ≤ p.val)) && lanesOk f.lanes

/-- Failed lanes are found by the training of a memory base die alone (09:R247, 13:R346). -/
def BaseDieFindings.wf (f : BaseDieFindings) (die : Fin 32) : Bool :=
  f.lanes.all (fun x => decide (x.2 ≤ 74)) && (f.lanes.isEmpty || decide (16 ≤ die.val ∧ die.val < 24))

/-- Shadow differences name each primary once (13:R330). -/
def diffsOk (l : List ShadowDiff) : Bool := decide ((l.map (fun d => (d.die, d.cell))).Nodup)

/-- A vendor-defined register offset is a u32, and BAR0 has 64 MiB (14:Tables 14.2, 14.4). -/
def bar0Ok (offset : Nat) : Bool := decide (offset < 0x4000000)
def vendorOffset (m : Master) (offset : Nat) : Bool :=
  match m with
  | .host => bar0Ok offset
  | _ => decide (offset < 2 ^ 32)

/-- The PCIe window is the host's (14:Table 14.1). -/
def isHost (m : Master) : Bool := decide (m = .host)

/-- The bytes of a signed object: its length is a u32 (15:Table 15.2). -/
def objectOk (o : Option Bytes) : Bool := o.all (fun b => decide (b.length < 2 ^ 32))

/-- Well-formedness, command by command. -/
def Instr.wf (i : Instr) : Bool :=
  match i with
  | .ctxLoad _ => true
  | .loadComplete => true
  | .ctxRunWrite _ _ => true
  | .unload _ _ => true
  | .exportBlock _ _ => true
  | .restoreBlock _ _ => true
  | .drainHorizon _ => true
  | .weightModeRequest _ _ _ => true
  | .stepStart => true
  | .poundStart => true
  | .phaseStart => true
  | .shadowClose d => diffsOk d
  | .phaseEnd h => decide h.Nodup
  | .sillLeadReached => true
  | .sillToken _ _ _ _ _ => true
  | .poundEnd => true
  | .stepBoundary => true
  | .laybyCheck _ => true
  | .holdQuantumEnd => true
  | .holdLimit => true
  | .laybyRelease e => e.wf
  | .fabricTransferLate _ => true
  | .matrixProduct _ rows cols => decide (rows.length ≤ 128 ∧ cols.length ≤ 128)
  | .tileEnd _ => true
  | .vectorChain _ _ => true
  | .softmax _ _ => true
  | .rmsNormalisation _ _ => true
  | .layerNormalisation _ _ => true
  | .crossEntropy _ _ => true
  | .dropOut _ => true
  | .initialisation _ => true
  | .sampling _ => true
  | .routing _ => true
  | .optimizerUpdate _ _ => true
  | .conversion _ => true
  | .reduction _ _ => true
  | .reductionClose _ => true
  | .layoutCopy _ => true
  | .gather _ => true
  | .scatterStore _ => true
  | .scatterAdd _ => true
  | .collective _ => true
  | .dmaDescriptorWrite _ => true
  | .descriptorIssue _ _ _ => true
  | .burstSlot _ _ _ => true
  | .inPackageSend _ => true
  | .inPackageDelivery _ => true
  | .linkSend _ => true
  | .memoryReadReturn _ _ _ => true
  | .correctedWriteBack _ => true
  | .wholeBargeWrite _ => true
  | .partialWrite _ => true
  | .accumulatingBurst _ => true
  | .adderContribution _ => true
  | .regionClose _ => true
  | .dredgeSweep _ => true
  | .refresh _ => true
  | .refreshManagement _ => true
  | .tgStart _ _ _ _ => true
  | .tgAbort _ _ _ _ => true
  | .tgRunDone _ _ => true
  | .portEnable _ _ _ => true
  | .portDisable _ _ _ => true
  | .retrain _ _ _ => true
  | .laneDetected _ _ => true
  | .trainingDone _ _ _ => true
  | .discovery _ _ trips => decide (trips.length = 16)
  | .echo _ p turnaround receive _ => turnaround.all (fun t => decide (p.stamp + t ≤ receive))
  | .remeasure _ => true
  | .signalLoss _ => true
  | .portRetry _ => true
  | .laneLoss _ _ => true
  | .portWidening _ _ => true
  | .linkTimeout _ => true
  | .acknowledge _ _ _ => true
  | .bargePacket _ _ payload _ _ => decide (payload.length = 4096)
  | .forwardingTableUpdate links => links.all FabricLink.wf
  | .lnkNodeWrite _ _ => true
  | .join _ _ _ _ _ => true
  | .lossNotice _ _ _ _ => true
  | .memberLost _ => true
  | .remoteReadRequest _ _ _ _ _ => true
  | .openHandle _ _ => true
  | .submit _ _ => true
  | .freeHandle _ _ => true
  | .arrivalUnitWrite _ _ _ => true
  | .shardComplete _ _ _ => true
  | .shardTimeout _ _ => true
  | .peerShardRequest _ => true
  | .wldRootWrite _ _ _ => true
  | .cellReset _ _ => true
  | .sampleTimeout _ _ x => decide (x.pages < 64)
  | .dieReset d f => f.wf d
  | .railOff _ => true
  | .warmReset cause => decide (1 ≤ cause.toNat ∧ cause.toNat ≤ 5)
  | .resetComplete => true
  | .resetTimeout => true
  | .cellReturn _ _ c => cellOk c
  | .logClear _ => true
  | .watchdogExpiry => true
  | .heartbeatLoss => true
  | .bootStartTimeout => true
  | .powerOnReset => true
  | .registerWrite m offset _ d => vendorOffset m offset && objectOk d.object
  | .bar0BadAccess m offset _ => vendorOffset m offset
  | .numStepIdRead _ _ => true
  | .schTickRead _ => true
  | .bar2Access m _ _ _ => isHost m
  | .hostReadModifyWrite _ => true
  | .registerRead m r => vendorOffset m r.offset && (isHost m || r.wide)
  | .vendorRegisterWrite m offset d => !isHost m && decide (offset < 2 ^ 32) && objectOk d.object
  | .memoryRead m _ n => !isHost m && decide (n < 2 ^ 16)
  | .memoryWrite m _ d => !isHost m && decide (d.length < 2 ^ 16)
  | .mctpControlMessage _ => true
  | .pldmRequest _ => true
  | .ownClaim _ _ => true
  | .ownAccept _ _ => true
  | .ownHeartbeat _ _ => true
  | .ownHandover _ _ => true
  | .ownRelease _ _ => true
  | .leaseExpiry => true
  | .handoverExpiry => true
  | .functionReset => true
  | .perstOrHotReset => true
  | .pcieLinkDown => true
  | .hostDmaStart _ _ _ => true
  | .bargeModeRecord _ d => decide (d.length = 4128)
  | .hostDmaAbort _ _ _ => true
  | .hostDmaDone _ _ => true
  | .ringRecordWrite => true
  | .enable _ _ => true
  | .disable _ _ => true
  | .evtHeadWrite _ _ => true
  | .sidebandActivation _ => true
  | .stormMaskEnd _ => true
  | .loadFw _ => true
  | .fwFetchComplete o f => objectOk o.object && f.wf
  | .initComplete e => e.all (fun k => decide (30 ≤ k.val))
  | .loadPack _ o => objectOk o
  | .attest _ => true
  | .attestReportWritten => true
  | .commitSvn _ => true
  | .revoke _ o => objectOk o
  | .lifecycle _ o => objectOk o
  | .scan _ => true
  | .tstCmd _ _ => true
  | .testDue _ _ c => cellOk c
  | .testComplete _ _ _ _ => true
  | .reqA0 _ => true
  | .reqA2 _ => true
  | .reqA3 _ => true
  | .enterA1 => true
  | .exitA1 => true
  | .wake _ => true
  | .l12Exit => true
  | .powerTransitionComplete _ lanes => lanesOk lanes
  | .cellStart _ _ _ => true
  | .startLimitRestore => true
  | .droopTrip _ => true
  | .stretchEnd periods => decide (64 ≤ periods)
  | .comparatorOccurrence _ _ => true
  | .mainPowerRestore => true
  | .alwaysOnPowerLoss => true
  | .sensorSample _ _ => true
  | .thermalUpdate => true
  | .powerUpdate _ _ => true
  | .thermtrip _ => true
  | .flowWarning => true
  | .surveyPacket _ _ _ => true
  | .romReady _ => true
  | .alwaysOnPowerApplied => true
  | .uncorrectableInternalError _ => true
  | .comparatorConditionClears _ => true
  | .sidebandInputInactive n => decide (n.val < 6)
  | .testOverdue _ _ _ => true

end Sys2Proof
end

