-- ==== Sys2Proof/Tests/Slice0.lean ====
section
/-! SUPPORT. The model's own tests: ill-formed commands, worked values of the manual, and for every statement with hypotheses a state and operands that meet them (`meets_` and the statement's name, one conjunct for each clause). -/

namespace Sys2Proof.Tests

open Sys2Proof
open Sys2Proof.Machine

set_option Elab.async false

/-! ## Fixtures -/

/-- A running module that the management controller owns with token 5. -/
def run : State := { State.reset with sec := { Sec.reset with boot := .running }, own := { Own.reset with owner := some .mc, token := 5 } }

/-- The same, owned by the PCIe host. -/
def runHost : State := { run with own := { run.own with owner := some .host } }

/-- The same, owned by nobody. -/
def free : State := { run with own := { Own.reset with owner := none } }

theorem accepts_of {s : State} {m : Master} {o : Nat} (h : (s.reaches m && decide (s.own.owner = some m) && s.answers o) = true) : s.accepts m o := by
  simp only [Bool.and_eq_true, decide_eq_true_eq] at h
  exact ⟨h.1.1, h.1.2, h.2⟩

/-- With the event controller as at reset every source is quiet, so that the clauses on events are met in every state below that leaves it so. -/
theorem quiet_of {s : State} (h : s.evt = Evt.reset) (k : Nat) : s.quiet k := by
  unfold State.quiet State.isMasked
  rw [h]
  constructor
  · simp [Evt.reset]
  · rfl

theorem any_some {α : Type} {o : Option α} {p : α → Bool} (h : o.any p = true) : ∃ x, o = some x ∧ p x = true := by
  cases o with
  | none => simp at h
  | some x => exact ⟨x, rfl, by simpa using h⟩

/-- A layout of one dimension of n elements, one tile of 2^log2 each. -/
def line (id fmt n log2 : Nat) : Layout := ⟨id, fmt, 1, 0, false, 0, 0, [n], [1], [log2], [0], 0, 0⟩

/-- A layout of two dimensions, row by row, one tile along each dimension. -/
def grid (id fmt r c lr lc : Nat) : Layout := ⟨id, fmt, 2, 1, false, 0, 0, [r, c], [1, 1], [lr, lc], [1, 0], 0, 0⟩

/-- Tensor, layout, kind. -/
def ten (id lay kind : Nat) : TensorRec := ⟨id, lay, kind, false, false, false, 0⟩

def opr (id code dst s0 s1 s2 : Nat) (params : BitVec 256) : OpRec := ⟨id, code, 0x60, 7, dst, s0, s1, s2, 0, 0, params⟩

/-- A sound packet that comes in on a port under a number, for a node. -/
def via (port : Fin 36) (seq : BitVec 32) (node : BitVec 20) : Carriage := ⟨port, seq, node, 0, 0, true⟩

def rec (engine op : Nat) (args : BitVec 160) : IRec := ⟨0, 0, 0, engine, op, 0, args⟩

/-- One group of a vector record: first source at 0, second at 0x400, third at 0x800, destination at 0x1000. -/
def vecArgs : BitVec 160 := BitVec.ofNat 160 (0x400 * 2 ^ 116 + 0x800 * 2 ^ 94 + 0x1000 * 2 ^ 72 + 2 ^ 44)

/-- An image of one module with one logical cell and one pound of 4,096 ticks. -/
def image (ts : List TensorRec) (ls : List Layout) (os : List OpRec) (is : List IRec) : Image :=
  { minLevel := 0, compat := false, fold2 := false, fold4 := false, modules := 1, logicalCells := 1, bytes := 0, tensors := ts, layouts := ls, ops := os
    streams := [7], digests := [], regions := [], dieMask := 1, cells := [⟨0, 0, false, 0, 0⟩], sill := [5], pounds := [⟨0, 4096⟩], instrs := is, linkRoutes := []
    connections := [], surveyBindings := [], sillTree := [], memory := [], owners := [], colls := [], dma := [] }

def plain : Image := image [] [] [] []

/-- An idle context with an image, its logical cell 0 bound to cell 0 of die 0. -/
def ctxOf (g : Image) : Slot := { Slot.reset with state := .idle, image := some g, place := { Placement.none with bindings := [⟨0, 0, 0, 0, false⟩] } }

/-- `run` with a context in slot 0. -/
def idle (g : Image) : State := run.setSlot 0 (ctxOf g)

/-- The context of slot 0 executes; its pound runs, and its cell is started. -/
def busy (g : Image) : State :=
  { run.setSlot 0 { ctxOf g with state := .active, started := true } with
    sch := { Sch.reset with exec := some 0, begun := true, state := .inPound }, cells := [(0, { Cell.reset with role := .enabled, power := 2, inReset := false })] }

/-- The same at a boundary. -/
def atBoundary (g : Image) (pound : Nat) : State := { busy g with sch := { (busy g).sch with state := .boundary, pound := pound } }

/-- The pound in progress of a state, for the statements that name it. -/
def now (g : Image) : Now := ⟨0, g, 1, 4096⟩

/-! ## Ill-formed commands -/

theorem test_wf_laybyRelease : Instr.wf (.laybyRelease (.link 0 4096)) = false ∧ Instr.wf (.laybyRelease (.link 0 4095)) = true := by decide
theorem test_wf_shadowClose : Instr.wf (.shadowClose [⟨0, 1, 1, 0, 0, 0⟩, ⟨0, 1, 2, 0, 0, 0⟩]) = false := by decide
theorem test_wf_phaseEnd : Instr.wf (.phaseEnd [(0, 1), (0, 1)]) = false := by decide
theorem test_wf_matrixProduct : Instr.wf (.matrixProduct 0 (List.replicate 129 0) []) = false := by decide +kernel
theorem test_wf_discovery : Instr.wf (.discovery 0 none []) = false := by decide
theorem test_wf_echo : Instr.wf (.echo 0 ⟨5, true⟩ (some 5) 9 0) = false ∧ Instr.wf (.echo 0 ⟨5, true⟩ (some 4) 9 0) = true := by decide
theorem test_wf_bargePacket : Instr.wf (.bargePacket 0 ⟨1, 5, ⟨false, 0, 0⟩⟩ [] 0 ⟨0, 0⟩) = false := by decide
theorem test_wf_forwardingTable : Instr.wf (.forwardingTableUpdate [⟨1, 1, 0, 1⟩]) = false ∧ Instr.wf (.forwardingTableUpdate [⟨1, 2, 0, 3⟩]) = false := by decide
theorem test_wf_sampleTimeout : Instr.wf (.sampleTimeout 0 0 ⟨64, false⟩) = false ∧ Instr.wf (.sampleTimeout 0 0 ⟨63, true⟩) = true := by decide
theorem test_wf_dieReset : Instr.wf (.dieReset 15 ⟨true, [(0, 1)]⟩) = false ∧ Instr.wf (.dieReset 16 ⟨true, [(0, 75)]⟩) = false ∧ Instr.wf (.dieReset 16 ⟨true, [(31, 74)]⟩) = true := by decide
theorem test_wf_warmReset : Instr.wf (.warmReset 0) = false ∧ Instr.wf (.warmReset 6) = false := by decide
theorem test_wf_cellReturn : Instr.wf (.cellReturn .mc 0 68) = false := by decide
theorem test_wf_registerWrite : Instr.wf (.registerWrite .host 0x4000000 true ⟨0, none⟩) = false ∧ Instr.wf (.registerRead .mc ⟨0x100000000, true⟩) = false ∧ Instr.wf (.registerRead .mc ⟨4, false⟩) = false := by decide
theorem test_wf_bar0BadAccess : Instr.wf (.bar0BadAccess .host 0x4000000 true) = false := by decide
theorem test_wf_bar2Access : Instr.wf (.bar2Access .mc ⟨0, 1⟩ none none) = false := by decide
theorem test_wf_vendorWrite : Instr.wf (.vendorRegisterWrite .host 0 ⟨0, none⟩) = false := by decide
theorem test_wf_memory : Instr.wf (.memoryRead .host 0 1) = false ∧ Instr.wf (.memoryWrite .host 0 []) = false := by decide
theorem test_wf_bargeModeRecord : Instr.wf (.bargeModeRecord 0 []) = false := by decide
theorem test_wf_fwFetch : Instr.wf (.fwFetchComplete ⟨none, true⟩ ⟨[], [15], [], [], []⟩) = false ∧ Instr.wf (.fwFetchComplete ⟨none, true⟩ ⟨[], [], [], [], [(0, 0, 75)]⟩) = false ∧
    Instr.wf (.fwFetchComplete ⟨none, true⟩ ⟨[], [], [1], [], []⟩) = false := by decide
theorem test_wf_initComplete : Instr.wf (.initComplete (some 29)) = false := by decide
theorem test_wf_testDue : Instr.wf (.testDue 0 0 68) = false := by decide
theorem test_wf_transition : Instr.wf (.powerTransitionComplete true [(0, 0, 75)]) = false := by decide
theorem test_wf_stretchEnd : Instr.wf (.stretchEnd 63) = false := by decide
theorem test_wf_sideband : Instr.wf (.sidebandInputInactive 6) = false := by decide

/-! ## The block as a whole -/

theorem meets_StepKeepsCanonical : State.reset.canonical = true ∧ ∃ t, step State.reset = .next t := ⟨by decide, _, rfl⟩

theorem meets_FusesOnlyBurn : ∃ t, step { run with pending := [.commitSvn .mc] } = .next t := ⟨_, rfl⟩

theorem meets_DroppedWriteChangesNothing :
    gatedAt (.ctxLoad .host) = some (.host, 0x60020) ∧ gatedAt (.wldRootWrite .host 7 0) = some (.host, 0x80170) ∧ run.reaches .host = true ∧ run.own.owner ≠ some .host := by decide

/-! ## Contexts -/

/-- Slots 0 to 6 hold a context. -/
def seven : State := (List.range 7).foldl (fun s n => s.setSlot n (ctxOf plain)) run

theorem meets_LoadTakesSlotOrIsRefused :
    (run.accepts .mc 0x60020 ∧ run.ctx.busy = false ∧ (run.slot 0).state = .empty) ∧
    (seven.accepts .mc 0x60020 ∧ seven.ctx.busy = false ∧ (seven.slot 7).state = .empty ∧ ∀ k, k < 7 → (seven.slot k).state ≠ .empty) ∧
    (∃ s : State, s.accepts .mc 0x60020 ∧ s.ctx.busy = true ∧ s.quiet 0) ∧
    (∃ s : State, s.accepts .mc 0x60020 ∧ (∀ k, k < 8 → (s.slot k).state ≠ .empty) ∧ s.quiet 0) :=
  ⟨⟨accepts_of (by decide), by decide, by decide⟩, ⟨accepts_of (by decide), by decide, by decide, by decide⟩,
    ⟨{ run with ctx := { run.ctx with busy := true } }, accepts_of (by decide), by decide, quiet_of rfl 0⟩,
    ⟨seven.setSlot 7 (ctxOf plain), accepts_of (by decide), by decide, quiet_of rfl 0⟩⟩

theorem meets_LoadEndsIdleOrEmpty : ∃ s : State, s.canonical = true ∧ s.ctx.busy = true ∧ (s.slot 7).state = .loading ∧ ∀ k, k < 7 → (s.slot k).state ≠ .loading := by
  let s := (seven.setSlot 7 { Slot.reset with state := .loading })
  exact ⟨{ s with ctx := { s.ctx with busy := true } }, by decide, by decide, by decide, by decide⟩

/-- A section table entry: type, offset, length. -/
def entry (type off len : Nat) : Bytes := leBytes 16 (type + len * 2 ^ 32 + off * 2 ^ 80)

/-- The section table of an image with the required sections alone, and the sections: no cells on some dies, one module of a node, one pound of a length. -/
def sections (dies node length : Nat) : Bytes :=
  entry 1 256 0 ++ entry 2 256 0 ++ entry 3 256 0 ++ entry 0x10 256 8 ++ entry 0x11 320 4 ++ entry 0x12 384 8 ++ entry 0x13 448 0 ++ entry 0x15 448 0 ++
  leBytes 64 (dies * 2 ^ 48) ++ leBytes 64 node ++ leBytes 64 length

/-- The header before them: a format version, a level and a program digest. -/
def header (version level digest : Nat) : Bytes :=
  leBytes 128 (0x31544445 + level * 2 ^ 360 + version * 2 ^ 368 + 8 * 2 ^ 384 + 2 ^ 400 + 448 * 2 ^ 448 + digest * 2 ^ 512)

/-- The program digests of such an image at level 0 and at level 2. -/
def digest0 : Nat := 0x953fd354d7cae6e15f9b1467e2b4f8f275312b260cf50c4a55d76ecbd5daa68116d7c2b2b0f5a39ddebcff3009a01e1135c13fa12e6f1107e610693248098feb
def digest2 : Nat := 0x10cb5689f8f78eed2142708721fdfa89565e0f03ea19be9ef5a2119efa817b7a2ba0274389ad07dd53964f4be88c638ba820e509cc28fb3419da5a8fd96d0656

/-- A load of those bytes into slot 7, with stack 0 in service. -/
def loadBase : State := run.setSlot 7 { Slot.reset with state := .loading }
def loadingOf (b : Bytes) : State :=
  let s := loadBase
  { s with ctx := { s.ctx with busy := true, curLen := 448 }, mem := ⟨swrite 0 [] 0 b, [], []⟩, stks := [(0, { Stack.reset with inService := true, trained := true })] }

def tiny : Bytes := header 1 0 digest0 ++ sections 0 0xFFFFF 4096
def badVersion : Bytes := header 0 0 digest0 ++ sections 0 0xFFFFF 4096
def badDigest : Bytes := header 1 0 0 ++ sections 0 0xFFFFF 4096
def badLevel : Bytes := header 1 2 digest2 ++ sections 0 0xFFFFF 4096
def badPound : Bytes := header 1 0 digest0 ++ sections 0 0xFFFFF 4095
def badNode : Bytes := header 1 0 digest0 ++ sections 0 5 4096
def onDie : Bytes := header 1 0 digest0 ++ sections 1 0xFFFFF 4096

/-- Every compute die is off. -/
def diesOff (s : State) : State := { s with flt := { s.flt with dieState := 0x0AAAAAAAAAAAAAAA } }

/-- Slot 0 holds an image with 4,097 collectives. -/
def fullOf (b : Bytes) : State := (loadingOf b).setSlot 0 { ctxOf { plain with colls := List.replicate 4097 ⟨0, 0, false, false, 0, 0, 0, 0, 0, []⟩ } with state := .idle }

theorem formRoster_cells (s : State) : ∃ c, s.formRoster = { s with cells := c } := by
  have inner : ∀ (d : Nat) (l : List Nat) (s : State), ∃ c, l.foldl (fun s c => if s.keepsRole d c then s else s.modCell (cellKey d c) (fun x => { x with role := s.roleOf d c })) s = { s with cells := c } := by
    intro d l
    induction l with
    | nil => exact fun s => ⟨s.cells, rfl⟩
    | cons a l ih =>
      intro s
      simp only [List.foldl_cons]
      split
      · exact ih s
      · obtain ⟨c, hc⟩ := ih (s.modCell (cellKey d a) (fun x => { x with role := s.roleOf d a }))
        exact ⟨c, hc⟩
  have outer : ∀ (l : List Nat) (s : State), ∃ c, l.foldl (fun s d => (List.range 68).foldl (fun s c => if s.keepsRole d c then s else s.modCell (cellKey d c) (fun x => { x with role := s.roleOf d c })) s) s = { s with cells := c } := by
    intro l
    induction l with
    | nil => exact fun s => ⟨s.cells, rfl⟩
    | cons a l ih =>
      intro s
      simp only [List.foldl_cons]
      obtain ⟨c, hc⟩ := inner a (List.range 68) s
      rw [hc]
      exact ih _
  exact outer _ s

theorem noSpareEvents_none {s : State} (h : ∀ d, d < 16 → s.dieState d ≠ 0) : s.noSpareEvents = s := by
  have aux : ∀ l : List Nat, (∀ d ∈ l, d < 16) → l.foldl (fun s d =>
      if s.dieState d = 0 ∧ s.flt.noSpare.contains d = false ∧ (List.range 68).any (s.isSpare d) = false then
        State.post { s with flt := { s.flt with noSpare := s.flt.noSpare ++ [d] } } 0x500B (srcDie d) none (payload [(0, 1, d)])
      else s) s = s := by
    intro l
    induction l with
    | nil => exact fun _ => rfl
    | cons a l ih =>
      intro hl
      rw [List.foldl_cons, if_neg (fun x => h a (hl a (by simp)) x.1)]
      exact ih (fun d hd => hl d (by simp [hd]))
  exact aux _ (fun d hd => by simpa using hd)

theorem placing_of {s rot : State} (h : s.placing 7 = rot.formRoster.noSpareEvents) (hd : ∀ d, d < 16 → rot.dieState d ≠ 0) : ∃ c, s.placing 7 = { rot with cells := c } := by
  obtain ⟨c, hc⟩ := formRoster_cells rot
  exact ⟨c, by rw [h, hc]; exact noSpareEvents_none hd⟩

theorem orElse_isSome {α : Type} {o : Option α} {f : Unit → Option α} (h : (f ()).isSome = true) : (o.orElse f).isSome = true := by cases o <;> simp_all [Option.orElse]

/-- Placement looks at no cell's state but through the roster. -/
theorem search_cells (c : Sparse Cell) (s : State) : ∀ (n : Nat) (l : List (Nat × Item)) (u : List StackRange), State.search { s with cells := c } n l u = State.search s n l u := by
  intro n
  induction n with
  | zero => intro l u; cases l <;> rfl
  | succ n ih =>
    intro l u
    cases l with
    | nil => rfl
    | cons a l =>
      simp only [State.search, ih]
      rfl

/-- The placement of an image that has no cells and no tensors is the two allocations of the image and its table. -/
theorem placement_alone {s : State} {g : Image} {key : List Nat} (hd : g.dies = []) (hm : g.mine 0 = []) (h2 : g.fold2 = false) (h4 : g.fold4 = false) (hl : g.modules ≤ 1) (hmem : g.memory = []) (ho : g.ownMemory = [])
    (hw : g.waiting s.lnk.node.toNat 0 1 = []) (ha : (s.allocateAll (1 :: key) [⟨1, g.bytes⟩, ⟨1, 8⟩]).isSome = true) : ∃ p table, s.placement g key 0 = .ok p table := by
  obtain ⟨r, hr⟩ := Option.isSome_iff_exists.mp ha
  unfold State.placement
  simp [hd, hm, h2, h4, hl, hmem, ho, hw, Image.foldDeclared, Image.leadsFit, State.bindCells, State.chooseHomes, tableBytes, hr]

theorem rawOf_loading {b : Bytes} (h : b.length = 448) : rawOf (sread 0 (swrite 0 [] 0 b) 0 448) = rawOf b := by
  rw [← h, sread_swrite 0 (by decide)]

/-- How far the load of some bytes passes, from the checks that it passes. -/
theorem passes_of {s : State} {b : Bytes} {n : Nat} (hb : b.length = 448) (ha : s.ctx.curAddr = 0) (hl : s.ctx.curLen = 448) (hm : s.mem = ⟨swrite 0 [] 0 b, [], []⟩)
    (h3 : 3 < n → (rawOf b).formatOk 448 = true) (h4 : 4 < n → BitVec.ofNat 512 (bits (rawOf b).head 1023 512) = (rawOf b).programDigest) (h5 : 5 < n → (rawOf b).image.minLevel ≤ 1)
    (h6 : 6 < n → (rawOf b).firstBreach (rawOf b).image = none) (h7 : 7 < n → (rawOf b).image.modules ≤ 1 ∧ s.node ∈ (rawOf b).image.sill) : LoadPasses s (rawOf b) n := by
  have hlen : s.ctx.curLen.toNat = 448 := by rw [hl]; rfl
  have haddr : s.ctx.curAddr.toNat = 0 := by rw [ha]; rfl
  refine ⟨?_, ⟨by rw [hm], ?_⟩, ?_, h4, h5, h6, fun h => ⟨fun h' => absurd (h7 h).1 (by omega), (h7 h).2⟩⟩
  · rw [hlen, haddr]; decide
  · rw [hm, hlen, haddr, rawOf_loading hb]
  · rw [hlen]; exact h3

theorem tiny_format : (rawOf tiny).formatOk 448 = true := by decide +kernel
theorem tiny_digest : BitVec.ofNat 512 (bits (rawOf tiny).head 1023 512) = (rawOf tiny).programDigest := by decide +kernel
theorem tiny_rules : (rawOf tiny).firstBreach (rawOf tiny).image = none := by decide +kernel
theorem tiny_passes {s : State} {n : Nat} (ha : s.ctx.curAddr = 0) (hl : s.ctx.curLen = 448) (hm : s.mem = ⟨swrite 0 [] 0 tiny, [], []⟩) (hn : s.node = unassigned) : LoadPasses s (rawOf tiny) n :=
  passes_of (by decide +kernel) ha hl hm (fun _ => tiny_format) (fun _ => tiny_digest) (fun _ => by decide +kernel) (fun _ => tiny_rules) (fun _ => ⟨by decide +kernel, by rw [hn]; decide +kernel⟩)

theorem loading_wf (b : Bytes) : Memory.wf (⟨swrite 0 [] 0 b, [], []⟩ : DevMem) = true := by
  simp only [Memory.wf, Bool.and_eq_true]
  exact ⟨⟨swf_swrite _ b (by decide) 0, rfl⟩, rfl⟩

/-- A load of the last slot, in a canonical state. -/
theorem loadingOf_ok (b : Bytes) : (loadingOf b).canonical = true ∧ (loadingOf b).ctx.busy = true ∧ ((loadingOf b).slot 7).state = .loading ∧ ∀ k, k < 7 → ((loadingOf b).slot k).state ≠ .loading := by
  refine ⟨?_, rfl, show (loadBase.slot 7).state = .loading by decide, show ∀ k, k < 7 → (loadBase.slot k).state ≠ .loading by decide⟩
  show (Memory.wf _ && (loadingOf []).tablesWf) = true
  rw [Bool.and_eq_true]
  exact ⟨loading_wf b, by decide⟩

theorem off_ok (b : Bytes) : (diesOff (loadingOf b)).canonical = true := by
  show (Memory.wf _ && (diesOff (loadingOf [])).tablesWf) = true
  rw [Bool.and_eq_true]
  exact ⟨loading_wf b, by decide⟩

theorem full_ok (b : Bytes) : (fullOf b).canonical = true ∧ (fullOf b).ctx.busy = true ∧ ((fullOf b).slot 7).state = .loading ∧ ∀ k, k < 7 → ((fullOf b).slot k).state ≠ .loading := by
  refine ⟨?_, rfl, show ((fullOf []).slot 7).state = .loading by decide +kernel, show ∀ k, k < 7 → ((fullOf []).slot k).state ≠ .loading by decide +kernel⟩
  show (Memory.wf _ && (fullOf []).tablesWf) = true
  rw [Bool.and_eq_true]
  exact ⟨loading_wf b, by decide +kernel⟩

/-- Where only stack 0 serves and no memory is in use, the image is placed. -/
theorem tiny_placed {s rot : State} (h : s.placing 7 = rot.formRoster.noSpareEvents) (hd : ∀ d, d < 16 → rot.dieState d ≠ 0) (hn : rot.lnk.node = 0xFFFFF)
    (hs : (State.search rot 2 [(0, ⟨1, 448⟩), (1, ⟨1, 8⟩)] rot.usedMemory).isSome = true) :
    ∃ p table, (s.placing 7).placement (rawOf tiny).image (rawOf tiny).placeKey ((rawOf tiny).image.sill.findIdx (fun y => y == 0xFFFFF)) = .ok p table := by
  obtain ⟨c, hc⟩ := placing_of h hd
  rw [hc, show (rawOf tiny).image.sill.findIdx (fun y => y == 0xFFFFF) = 0 by decide +kernel]
  refine placement_alone (by decide +kernel) (by decide +kernel) (by decide +kernel) (by decide +kernel) (by decide +kernel) (by decide +kernel) (by decide +kernel) ?_ ?_
  · show Image.waiting _ rot.lnk.node.toNat 0 1 = []
    rw [hn]; decide +kernel
  · unfold State.allocateAll
    refine orElse_isSome ?_
    rw [Option.isSome_map, search_cells, show (rawOf tiny).image.bytes = 448 by decide +kernel]
    exact hs

theorem groupsHeld_placing {s rot : State} (h : s.placing 7 = rot.formRoster.noSpareEvents) (hd : ∀ d, d < 16 → rot.dieState d ≠ 0) : (s.placing 7).groupsHeld 7 = rot.groupsHeld 7 := by
  obtain ⟨c, hc⟩ := placing_of h hd
  rw [hc]; rfl

/-- The loads of LoadEndsIdleOrEmpty: accepted, and refused for each reason. -/
def idleBusy (s : State) : State := { s with ctx := { s.ctx with busy := false } }
theorem loading_placing (b : Bytes) : (loadingOf b).placing 7 = (idleBusy (loadingOf b)).rotate.formRoster.noSpareEvents := rfl
theorem off_placing (b : Bytes) : (diesOff (loadingOf b)).placing 7 = (idleBusy (diesOff (loadingOf b))).rotate.formRoster.noSpareEvents := rfl
theorem full_placing (b : Bytes) : (fullOf b).placing 7 = (idleBusy (fullOf b)).formRoster.noSpareEvents := rfl

theorem meets_LoadEndsIdleOrEmpty_accepted :
    (loadingOf tiny).canonical = true ∧ (loadingOf tiny).ctx.busy = true ∧ ((loadingOf tiny).slot 7).state = .loading ∧ (∀ k, k < 7 → ((loadingOf tiny).slot k).state ≠ .loading) ∧ LoadPasses (loadingOf tiny) (rawOf tiny) 8 ∧ (loadingOf tiny).quiet (8 + 7) ∧
      (∃ p table, ((loadingOf tiny).placing 7).placement (rawOf tiny).image (rawOf tiny).placeKey ((rawOf tiny).image.sill.findIdx (fun y => y == (loadingOf tiny).node)) = .ok p table) ∧
      ((loadingOf tiny).placing 7).groupsHeld 7 + (rawOf tiny).image.colls.length ≤ 4096 := by
  have hd : ∀ d, d < 16 → (idleBusy (loadingOf tiny)).rotate.dieState d ≠ 0 := by decide +kernel
  obtain ⟨h1, h2, h3, h4⟩ := loadingOf_ok tiny
  refine ⟨h1, h2, h3, h4, tiny_passes rfl rfl rfl rfl, quiet_of rfl _, tiny_placed (loading_placing _) hd rfl (by decide +kernel), ?_⟩
  rw [groupsHeld_placing (loading_placing _) hd]
  decide +kernel

theorem meets_LoadEndsIdleOrEmpty_refused :
    (∀ b, (loadingOf b).canonical = true ∧ (loadingOf b).ctx.busy = true ∧ ((loadingOf b).slot 7).state = .loading ∧ ∀ k, k < 7 → ((loadingOf b).slot k).state ≠ .loading) ∧
    (∃ s : State, s.canonical = true ∧ s.ctx.busy = true ∧ (s.slot 7).state = .loading ∧ (∀ k, k < 7 → (s.slot k).state ≠ .loading) ∧ s.ctx.curAddr.toNat % 4096 ≠ 0) ∧
    (LoadPasses (loadingOf badVersion) (rawOf badVersion) 3 ∧ (rawOf badVersion).formatOk 448 = false) ∧
    (LoadPasses (loadingOf badDigest) (rawOf badDigest) 4 ∧ BitVec.ofNat 512 (bits (rawOf badDigest).head 1023 512) ≠ (rawOf badDigest).programDigest) ∧
    (LoadPasses (loadingOf badLevel) (rawOf badLevel) 5 ∧ 1 < (rawOf badLevel).image.minLevel) ∧
    (LoadPasses (loadingOf badPound) (rawOf badPound) 6 ∧ (rawOf badPound).firstBreach (rawOf badPound).image = some (0x12, 0)) ∧
    (LoadPasses (loadingOf badNode) (rawOf badNode) 7 ∧ (loadingOf badNode).node ∉ (rawOf badNode).image.sill) := by
  refine ⟨loadingOf_ok, ⟨{ loadingOf [] with ctx := { (loadingOf []).ctx with curAddr := 1 } }, by decide, rfl, by decide, by decide, by decide⟩, ?_, ?_, ?_, ?_, ?_⟩
  · exact ⟨passes_of (by decide +kernel) rfl rfl rfl (by decide) (by decide) (by decide) (by decide) (by decide), by decide +kernel⟩
  · exact ⟨passes_of (by decide +kernel) rfl rfl rfl (fun _ => by decide +kernel) (by decide) (by decide) (by decide) (by decide), by decide +kernel⟩
  · exact ⟨passes_of (by decide +kernel) rfl rfl rfl (fun _ => by decide +kernel) (fun _ => by decide +kernel) (by decide) (by decide) (by decide), by decide +kernel⟩
  · exact ⟨passes_of (by decide +kernel) rfl rfl rfl (fun _ => by decide +kernel) (fun _ => by decide +kernel) (fun _ => by decide +kernel) (by decide) (by decide), by decide +kernel⟩
  · exact ⟨passes_of (by decide +kernel) rfl rfl rfl (fun _ => by decide +kernel) (fun _ => by decide +kernel) (fun _ => by decide +kernel) (fun _ => by decide +kernel) (by decide), by decide +kernel⟩

theorem meets_LoadEndsIdleOrEmpty_placement :
    (∃ s : State, s.canonical = true ∧ s.ctx.busy = true ∧ (s.slot 7).state = .loading ∧ (∀ k, k < 7 → (s.slot k).state ≠ .loading) ∧ LoadPasses s (rawOf onDie) 8 ∧
      (s.placing 7).placement (rawOf onDie).image (rawOf onDie).placeKey ((rawOf onDie).image.sill.findIdx (fun y => y == s.node)) = .refused 8) ∧
    ((fullOf tiny).canonical = true ∧ (fullOf tiny).ctx.busy = true ∧ ((fullOf tiny).slot 7).state = .loading ∧ (∀ k, k < 7 → ((fullOf tiny).slot k).state ≠ .loading) ∧ LoadPasses (fullOf tiny) (rawOf tiny) 8 ∧
      (∃ p table, ((fullOf tiny).placing 7).placement (rawOf tiny).image (rawOf tiny).placeKey ((rawOf tiny).image.sill.findIdx (fun y => y == (fullOf tiny).node)) = .ok p table) ∧
      4096 < ((fullOf tiny).placing 7).groupsHeld 7 + (rawOf tiny).image.colls.length) := by
  have hd : ∀ d, d < 16 → (idleBusy (fullOf tiny)).dieState d ≠ 0 := by decide +kernel
  have hoff : ∀ d, d < 16 → (idleBusy (diesOff (loadingOf onDie))).rotate.dieState d ≠ 0 := by decide +kernel
  obtain ⟨h1, h2, h3, h4⟩ := full_ok tiny
  refine ⟨⟨diesOff (loadingOf onDie), off_ok onDie, rfl, show (loadBase.slot 7).state = .loading by decide, show ∀ k, k < 7 → (loadBase.slot k).state ≠ .loading by decide, passes_of (by decide +kernel) rfl rfl rfl
    (fun _ => by decide +kernel) (fun _ => by decide +kernel) (fun _ => by decide +kernel) (fun _ => by decide +kernel) (fun _ => ⟨by decide +kernel, by decide +kernel⟩), ?_⟩, h1, h2, h3, h4,
    tiny_passes rfl rfl rfl rfl, tiny_placed (full_placing _) hd rfl (by decide +kernel), ?_⟩
  · obtain ⟨c, hc⟩ := placing_of (off_placing onDie) hoff
    rw [hc]
    unfold State.placement
    rw [if_pos ?_]
    show ((rawOf onDie).image.dies.any fun d => ((idleBusy (diesOff (loadingOf onDie))).rotate.enabledCells d).isEmpty) = true
    decide +kernel
  · rw [groupsHeld_placing (full_placing _) hd]
    decide +kernel

theorem meets_RunTargetAndModeRequest :
    (run.accepts .mc 0x60030 ∧ run.sch.exec = none ∧ ((7 : Word).extractLsb' 0 4).toNat < 8 ∧ (run.slot 7).state ≠ .idle ∧ run.quiet (8 + 7)) ∧
    (run.canonical = true ∧ run.accepts .mc (0x61020 + 7 * 0x100)) :=
  ⟨⟨accepts_of (by decide), by decide, by decide, by decide, quiet_of rfl _⟩, by decide, accepts_of (by decide)⟩

/-- A transfer block of a context at step 0 with seed 0 and stream 7 at offset 0. -/
def block : Bytes := (ctxOf plain).exportBlock plain

theorem meets_TransferBlocks :
    ((idle plain).canonical = true ∧ (idle plain).accepts .mc 0x61008 ∧ ((idle plain).slot 0).state = .idle ∧ ((idle plain).slot 0).image = some plain ∧
      ((idle plain).slot 0).xferAddr.toNat % 256 = 0 ∧ ((idle plain).slot 0).xferAddr.toNat + (((idle plain).slot 0).exportBlock plain).length ≤ devLimit ∧
      clearOfDump ((idle plain).slot 0).xferAddr.toNat (((idle plain).slot 0).exportBlock plain).length = true ∧
      111 < (((idle plain).slot 0).exportBlock plain).length ∧ (idle plain).quiet 8) ∧
    (∃ s : State, s.canonical = true ∧ s.accepts .mc 0x61008 ∧ (s.slot 0).state = .idle ∧ (s.slot 0).image = some plain ∧ (s.slot 0).started = false ∧
      (s.slot 0).xferAddr.toNat % 256 = 0 ∧ (s.slot 0).xferAddr.toNat + (104 + 8 * plain.streams.length) ≤ devLimit ∧ s.mem.errs = [] ∧
      (s.slot 0).restoreCause plain (s.readRange (controlReader (some 0)) (s.slot 0).xferAddr.toNat (104 + 8 * plain.streams.length)).2.1 = none ∧
      plain.streamsInOrder.Nodup ∧ 0 < plain.streams.length) ∧
    (∃ s : State, s.canonical = true ∧ s.accepts .mc 0x61008 ∧ (s.slot 0).state = .idle ∧ (s.slot 0).image = some plain ∧ (s.slot 0).started = true ∧ s.quiet 8) :=
  ⟨⟨by decide, accepts_of (by decide), by decide, by decide, by decide, by decide, by decide, by decide +kernel, quiet_of rfl _⟩,
    ⟨{ idle plain with mem := ⟨swrite 0 [] 0 block, [], []⟩ }, by decide +kernel, accepts_of (by decide), by decide, by decide, by decide, by decide, by decide, by decide,
      by decide +kernel, by decide, by decide⟩,
    ⟨run.setSlot 0 { ctxOf plain with started := true }, by decide, accepts_of (by decide), by decide, by decide, by decide, quiet_of rfl _⟩⟩

theorem meets_UnloadThenDrain :
    ((idle plain).canonical = true ∧ (idle plain).accepts .mc 0x61008 ∧ ((idle plain).slot 0).state ≠ .empty ∧ ((idle plain).slot 0).state ≠ .draining ∧
      ((idle plain).slot 0).state ≠ .loading ∧ ((idle plain).slot 0).image = some plain) ∧
    (∃ s : State, s.canonical = true ∧ (s.slot 7).state = .draining ∧ s.quiet 15) :=
  ⟨⟨by decide, accepts_of (by decide), by decide, by decide, by decide, by decide⟩,
    ⟨run.setSlot 7 { ctxOf plain with state := .draining }, by decide, by decide, quiet_of rfl _⟩⟩

/-- The weight handle that a load leaves READY. -/
def ready : WeightHandle := { WeightHandle.none with state := .ready, skim := true }

/-- The target is slot 0, whose context has not started. -/
def due : State :=
  let s := run.setSlot 0 { ctxOf plain with epochs := sset .none [] 0 ready }
  { s with ctx := { s.ctx with target := 0 } }

theorem meets_StepStartExecutes :
    (due.canonical = true ∧ due.running = true ∧ due.pwr.state = .a0 ∧ due.pwr.trans = none ∧ due.tst.running.all (fun j => !j.overdue) = true ∧ due.dueSlot = some 0 ∧
      (due.slot 0).image = some plain ∧ (due.rangesInUse 0).all (fun r => (due.stack r.stack).inService) = true ∧ (due.slot 0).rebind = false ∧ due.rootOk 0 plain = true ∧
      (due.slot 0).joinDue = false ∧ (due.slot 0).rootPending = false ∧ (due.slot 0).wreq = (due.slot 0).wmode ∧ due.joined 0 plain = true) := by decide

/-! ## The schedule -/

theorem nowAt_busy : (busy plain).nowAt = some (now plain) := by decide

theorem meets_PoundStarts :
    (∃ s : State, s.nowAt = some (now plain) ∧ s.sch.begun = true ∧ s.sch.state = .boundary ∧ s.sch.pound < (now plain).g.pounds.length ∧ s.pwr.state = .a0 ∧ s.pwr.trans = none ∧
      s.cellsReady (now plain).slot = true ∧ s.sch.thermalQ = 0 ∧ s.sch.powerQ = 0) ∧
    (∃ s : State, s.nowAt = some (now plain) ∧ s.sch.begun = true ∧ s.sch.state = .boundary ∧ s.sch.pound < (now plain).g.pounds.length ∧ s.pwr.state = .a0 ∧ s.pwr.trans = none ∧
      s.cellsReady (now plain).slot = true ∧ s.sch.thermalQ ≠ 0) ∧
    (∃ s : State, s.nowAt = some (now plain) ∧ s.sch.begun = true ∧ s.sch.state = .boundary ∧ s.sch.pound < (now plain).g.pounds.length ∧ s.pwr.state = .a0 ∧ s.pwr.trans = none ∧
      s.cellsReady (now plain).slot = true ∧ s.sch.thermalQ = 0 ∧ s.sch.powerQ ≠ 0) :=
  ⟨⟨atBoundary plain 0, by decide⟩, ⟨{ atBoundary plain 0 with sch := { (atBoundary plain 0).sch with thermalQ := 1 } }, by decide⟩,
    ⟨{ atBoundary plain 0 with sch := { (atBoundary plain 0).sch with powerQ := 1 } }, by decide⟩⟩

/-- A phase that is open. -/
def open0 : State := { busy plain with sch := { (busy plain).sch with phaseOpen := true } }

theorem meets_PhasesOpenAndEnd :
    ((busy plain).canonical = true ∧ (busy plain).nowAt = some (now plain) ∧ (busy plain).sch.state = .inPound ∧ (busy plain).sch.phaseOpen = false ∧
      (busy plain).sch.tickIn ≤ (busy plain).sch.phase * (now plain).len) ∧
    (open0.canonical = true ∧ open0.nowAt = some (now plain) ∧ open0.sch.state = .inPound ∧ open0.sch.phaseOpen = true ∧ (open0.boundKeys 0).contains (cellKey 0 0) = true) := by decide

/-- Cell 1 of die 0 shadows cell 0 in the open phase. -/
def shadowing0 : State := open0.modCell 1 (fun c => { c with shadowOf := some 0 })

theorem meets_PhasesOpenAndEnd_mismatch :
    shadowing0.canonical = true ∧ shadowing0.nowAt = some (now plain) ∧ shadowing0.sch.state = .inPound ∧ shadowing0.sch.phaseOpen = true ∧
      shadowing0.shadows = [(1, cellKey (0 : Fin 16).val (0 : Fin 68).val)] ∧ 1 ≠ cellKey (0 : Fin 16).val (0 : Fin 68).val ∧ shadowing0.quiet (srcDie 0) :=
  ⟨by decide, by decide, by decide, by decide, by decide, by decide, quiet_of rfl _⟩

/-- An image of two modules: position 0 is the root of the sill tree, position 1 its child. -/
def pair : Image := { plain with modules := 2, sill := [5, 6], sillTree := [(0, 0xFFFF), (1, 0)], pounds := [⟨100, 4096⟩] }

/-- A member of `pair` at a position, with a join of the other. -/
def member (pos : Nat) : State :=
  let s := busy pair
  s.setSlot 0 { s.slot 0 with place := { (s.slot 0).place with position := pos }, joins := [⟨1 - pos, 3, 9⟩] }

/-- The module is node 5, and its port 35 is UP. -/
def linked (s : State) : State :=
  { s with flt := { s.flt with dieState := 0 }, lnk := { s.lnk with node := 5, ports := sset .reset s.lnk.ports 35 { Port.reset with state := .up, ctlEnable := true } } }

theorem carries_of {s : State} {v : Carriage}
    (h : ((s.port v.port.val).state == .up && !s.linksQuiet && s.node != unassigned && s.dieState (24 + v.port.val / 6) == 0 && v.uncorrectable == 0 && v.crcOk &&
      !(s.port v.port.val).has v.seq && v.node.toNat == s.node) = true) : s.carries v := by
  simp only [Bool.and_eq_true, Bool.not_eq_true', bne_iff_ne, beq_iff_eq] at h
  exact ⟨⟨h.1.1.1.1.1.1.1, h.1.1.1.1.1.1.2, h.1.1.1.1.1.2, h.1.1.1.1.2⟩, h.1.1.1.2, h.1.1.2, h.1.2, h.2⟩

theorem meets_SillLeadAndTokens :
    (∃ s : State, s.nowAt = some (now pair) ∧ s.sch.state = .inPound ∧ 1 < pair.modules ∧ s.sch.leadReached = false ∧
      (pair.childrenOf (s.position 0)).all (fun p => s.sch.subtree.contains p) = true ∧ pair.parentOf (s.position 0) = none) ∧
    (∃ s : State, s.nowAt = some (now pair) ∧ s.sch.state = .inPound ∧ s.sch.leadReached = false ∧
      (pair.childrenOf (s.position 0)).all (fun p => s.sch.subtree.contains p) = true ∧ pair.parentOf (s.position 0) = some 0) ∧
    ((linked (member 1)).nowAt = some (now pair) ∧ (linked (member 1)).carries (via 35 1 5) ∧ (linked (member 1)).tokenFits (now pair) 0 8 0 0 = false) ∧
    ((linked (member 1)).tokenFits (now pair) 0 9 0 0 = true ∧ pair.parentOf ((linked (member 1)).position 0) = some 0) ∧
    ((linked (member 0)).nowAt = some (now pair) ∧ (linked (member 0)).carries (via 35 1 5) ∧ (linked (member 0)).tokenFits (now pair) 1 9 0 0 = true ∧
      (pair.childrenOf ((linked (member 0)).position 0)).contains 1 = true) :=
  ⟨⟨{ member 0 with sch := { (member 0).sch with subtree := [1] } }, by decide⟩, ⟨member 1, by decide⟩, ⟨by decide, carries_of (by decide), by decide⟩, by decide,
    ⟨by decide, carries_of (by decide), by decide⟩⟩

/-- The pound's last tick has passed. -/
def ended : State := { busy plain with sch := { (busy plain).sch with tickIn := 4096 } }

theorem meets_PoundEndsAtSill :
    (ended.canonical = true ∧ ended.nowAt = some (now plain) ∧ ended.sch.state = .inPound ∧ ended.sch.phaseOpen = false ∧ ended.sch.phase + 1 = (now plain).fold ∧
      (now plain).ticks ≤ ended.sch.tickIn ∧ (now plain).g.modules ≤ 1 ∧ ((ended.sillWork (now plain)).slot 0).sillFault = false ∧ (now plain).g.regions = []) ∧
    (∃ s : State, s.canonical = true ∧ s.nowAt = some (now plain) ∧ s.sch.state = .inPound ∧ s.sch.phaseOpen = false ∧ s.sch.phase + 1 = (now plain).fold ∧
      (now plain).ticks ≤ s.sch.tickIn ∧ ((s.sillWork (now plain)).slot 0).sillFault = true ∧ ((s.sillWork (now plain)).slot 0).state = .active ∧ s.sch.exec.map (·.val) = some 0 ∧
      s.tst.deferred = [] ∧ ((s.sillWork (now plain)).cell 0).hung = true) ∧
    (∃ s : State, s.canonical = true ∧ s.nowAt = some (now pair) ∧ s.sch.state = .inPound ∧ s.sch.phaseOpen = false ∧ s.sch.phase + 1 = (now pair).fold ∧
      (now pair).ticks ≤ s.sch.tickIn ∧ s.sch.completed = true ∧ ((s.sillWork (now pair)).slot 0).sillFault = false) :=
  ⟨by decide, ⟨(ended.setSlot 0 { ended.slot 0 with sillFault := true }).modCell 0 (fun c => { c with hung := true }), by decide⟩,
    ⟨{ member 1 with sch := { (member 1).sch with tickIn := 4096, completed := true } }, by decide⟩⟩

/-- The boundary after the one pound of a step, with the target elsewhere. -/
def lastPound : State := atBoundary plain 1

/-- The same, with the target on the context. -/
def goesOn : State := { lastPound with ctx := { lastPound.ctx with target := 0 } }

/-- The same, in the last step that a context can have. -/
def lastStep : State := lastPound.setSlot 0 { lastPound.slot 0 with step := 0xFFFFFFFFFF }

theorem meets_StepBoundaryCountsAndPauses :
    (lastPound.canonical = true ∧ lastPound.nowAt = some ⟨0, plain, 1, 0⟩ ∧ lastPound.sch.begun = true ∧ lastPound.sch.state = .boundary ∧ lastPound.sch.pound = plain.pounds.length ∧
      (lastPound.slot 0).state = .active ∧ (lastPound.slot 0).rootPending = false ∧ (lastPound.slot 0).wreq = (lastPound.slot 0).wmode ∧ lastPound.tst.deferred = [] ∧
      (lastPound.slot 0).step.toNat ≠ 2 ^ 40 - 1 ∧ lastPound.runTarget ≠ some 0) ∧
    (goesOn.canonical = true ∧ goesOn.nowAt = some ⟨0, plain, 1, 0⟩ ∧ (goesOn.slot 0).state = .active ∧ goesOn.tst.deferred = [] ∧ goesOn.runTarget = some 0) ∧
    (lastStep.canonical = true ∧ lastStep.nowAt = some ⟨0, plain, 1, 0⟩ ∧ lastStep.sch.begun = true ∧ lastStep.sch.state = .boundary ∧ lastStep.sch.pound = plain.pounds.length ∧
      (lastStep.slot 0).state = .active ∧ (lastStep.slot 0).step.toNat = 2 ^ 40 - 1 ∧ lastStep.sch.exec.map (·.val) = some 0) := by decide

theorem meets_StepNumbersAdvance :
    (lastPound.canonical = true ∧ lastPound.nowAt = some ⟨0, plain, 1, 0⟩ ∧ lastPound.sch.begun = true ∧ lastPound.sch.state = .boundary ∧ lastPound.sch.pound = plain.pounds.length ∧
      (lastPound.slot 0).step.toNat ≠ 2 ^ 40 - 1) ∧
    (lastStep.canonical = true ∧ lastStep.nowAt = some ⟨0, plain, 1, 0⟩ ∧ (lastStep.slot 0).step.toNat = 2 ^ 40 - 1 ∧ (lastStep.slot 0).state = .active ∧
      lastStep.sch.exec.map (·.val) = some 0) := by decide

/-- A burst of slot 0 in entry 63 of the cell's lay-by, released at tick 1,024. -/
def burst (data : Option Bytes) : Burst := ⟨0, 0, 1, 0, 0, [0x2000, 0x2040, 0x2080, 0x20C0], 1024, 0, 0, 0, 0, false, data, false⟩

/-- The 256 bytes of a burst. -/
def full : Bytes := List.replicate 256 7

def withBurst (s : State) (b : Burst) : State := s.modCell 0 (fun c => { c with layby := [(63, some b)] })

/-- The pound holds for a burst that is due at tick 1,024. -/
def held (data : Option Bytes) : State := let s := withBurst (busy plain) (burst data); { s with sch := { s.sch with state := .holding, hold := some ⟨960, .mem, 0, 0⟩ } }

theorem meets_HoldsForAbsentEntries :
    ((held (some [])).nowAt = some (now plain) ∧ (held (some [])).sch.hold = some ⟨960, .mem, 0, 0⟩ ∧ HoldCause.mem.isData = true ∧ (held (some [])).absent (now plain) (960 + 64) = none) ∧
    ((held none).canonical = true ∧ (held none).nowAt = some (now plain) ∧ (held none).sch.hold = some ⟨960, .mem, 0, 0⟩ ∧
      (held none).absent (now plain) (960 + 64) = some ⟨.mem, 0, 0, 63, 0⟩ ∧ ((held none).slot 0).state = .active ∧ (held none).sch.exec.map (·.val) = some 0) ∧
    ((busy plain).nowAt = some (now plain) ∧ (busy plain).sch.state = .inPound ∧ (busy plain).sch.tickIn ≤ 4095 ∧ 4095 < (now plain).ticks ∧ (busy plain).absent (now plain) (4095 + 64) = none) ∧
    ((withBurst (busy plain) (burst none)).sch.tickIn ≤ 960 ∧ 960 < (now plain).ticks ∧ (withBurst (busy plain) (burst none)).absent (now plain) (960 + 64) = some ⟨.mem, 0, 0, 63, 0⟩) := by decide

/-- The pound waits for throttle quanta before its first tick. -/
def throttled (cause : HoldCause) (thermal power : Nat) : State :=
  { busy plain with sch := { (busy plain).sch with state := .holding, hold := some ⟨0, cause, 0, 0⟩, leftT := thermal, leftP := power } }

theorem meets_HoldsForAbsentEntries_throttle :
    (∀ c ∈ [HoldCause.thermal, .power], ∀ l ∈ [0, 1, 2, 65535], (throttled c l 1).nowAt = some (now plain) ∧ (throttled c l 1).sch.hold = some ⟨0, c, 0, 0⟩ ∧ (throttled c 0 l).nowAt = some (now plain)) ∧
    0 < (throttled .thermal 2 0).sch.leftT - 1 ∧ ((throttled .thermal 1 1).sch.leftT - 1 = 0 ∧ 0 < (throttled .thermal 1 1).sch.leftP - 0) ∧
    ((throttled .power 0 1).sch.leftT - 0 = 0 ∧ (throttled .power 0 1).sch.leftP - 1 = 0) := by decide

/-- A link route to position 0 that writes device memory, released at tick 500 of pound 0. -/
def routed : Image := { plain with linkRoutes := [⟨2, false, 1, 0, 0, 0, 1, 0, 500⟩] }

/-- Its barge in slot 4,095 of link die 5. -/
def linkSlot : LinkSlot := ⟨0, false, 2, 0, [], 0, true⟩
def parked : State := { busy routed with lnk := { Lnk.reset with slots := [(slotKey 5 4095, some linkSlot)] } }

theorem meets_ReleasesAndLateTransfers :
    ((busy plain).nowAt = some (now plain) ∧ (busy plain).sch.state = .inPound ∧ sget none ((busy plain).cell (cellKey 0 0)).layby 0 = none) ∧
    (∃ s : State, s.canonical = true ∧ s.nowAt = some (now plain) ∧ s.sch.state = .inPound ∧ 
      sget none (s.cell (cellKey 0 0)).layby 63 = some (burst (some full)) ∧ (burst (some full)).data = some full ∧ (burst (some full)).slot.toNat = 0 ∧
      (s.cell (cellKey 0 0)).landed = [] ∧ (burst (some full)).places.Nodup ∧ (∀ p ∈ (burst (some full)).places, p % 64 = 0) ∧ 3 < (burst (some full)).places.length ∧ 64 * 3 + 63 < full.length) ∧
    (parked.nowAt = some (now routed) ∧ parked.sch.state = .inPound ∧ parked.canonical = true ∧ parked.linkSlot (slotKey 5 4095) = some linkSlot ∧ linkSlot.slot.val = 0 ∧
      parked.slotRelease (now routed) linkSlot = some (parked.sch.pound, 500)) ∧
    (∃ s : State, s.flight.transfers[0]? = some ⟨0, 0, 1, 0, [0], [], 0⟩ ∧ s.frozen ⟨0, 0, 1, 0, [0], [], 0⟩ = false ∧ s.quiet 0x012) :=
  ⟨by decide, ⟨withBurst (busy plain) (burst (some full)), by decide +kernel⟩, by decide,
    ⟨{ busy plain with flight := { Flight.none with transfers := [⟨0, 0, 1, 0, [0], [], 0⟩] } }, by decide, by decide, quiet_of rfl _⟩⟩

/-! ## The engines of a cell -/

/-- Record k of an image, as logical cell 0 on cell 0 of die 0 issues it. -/
def issue (g : Image) (k : Nat) : Issue :=
  let r := g.instrs.getD k (rec 0 0 0)
  ⟨0, g, r, (g.op r.opId).getD noOp, ⟨0, 0, 0, 0, false⟩, 1⟩

def issuesOn (s : State) (g : Image) (k engine : Nat) : Bool :=
  s.canonical && decide (s.turn k engine = some (issue g k)) && decide ((s.cell (issue g k).key).spadErr = [])

theorem issues_of {s : State} {g : Image} {k engine : Nat} (h : issuesOn s g k engine = true) : s.issues k engine (issue g k) := by
  unfold issuesOn at h
  simp only [Bool.and_eq_true, decide_eq_true_eq] at h
  exact ⟨h.1.1, h.1.2, h.2⟩

def endsOn (s : State) (g : Image) (k engine : Nat) : Bool :=
  s.canonical && decide (s.issueOf k engine = some (issue g k)) && (s.slot (issue g k).slot).doneRecs.contains k && decide ((s.cell (issue g k).key).spadErr = [])

theorem ends_of {s : State} {g : Image} {k engine : Nat} (h : endsOn s g k engine = true) : s.ends k engine (issue g k) := by
  unfold endsOn at h
  simp only [Bool.and_eq_true, decide_eq_true_eq] at h
  exact ⟨h.1.1.1, h.1.1.2, h.1.2, h.2⟩

/-- The operand in binary32 whose position 0 lies at the scratchpad's last word, so that position 1 wraps to address 0. -/
def lastWord : Operand := ⟨1, 1, line 1 0x11 128 7, 0x3FFFFC, 0⟩
/-- The whole scratchpad of cell 0. -/
def seat0 : Seat := ⟨0, 0, 0x400000⟩

theorem meets_ScratchpadReadsBack :
    (Cell.reset.spadWf = true ∧ Cell.reset.spadErr = [] ∧ 16 ≤ seat0.space ∧ lastWord.bits seat0 (lastWord.setBits seat0 Cell.reset 127 0x3F800000) 127 = 0x3F800000) ∧
    (∀ y ∈ ([⟨0, some 0, 0, 1, true⟩, ⟨1, some 1, 0, 2, true⟩] : List Put), 4 ∉ lastWord.touches seat0 y.p) ∧
    (swf 0 Cell.reset.spad = true ∧ Cell.reset.landed = [] ∧ (0 : Nat) ∈ [0, 64] ∧ (fun _ _ => true) 7 0 = true) ∧
    (0 ∈ [0] ∧ 127 < (if true then 128 else 64) ∧ 63 < (if false then 128 else 64)) := by decide +kernel

theorem meets_AnchoredSumIsOrderFree : [Val.fin false 1 0, Val.fin true 1 3].Perm [Val.fin true 1 3, Val.fin false 1 0] := List.Perm.swap _ _ _

/-- An image with one record of the vector engine over 128 elements of binary32. -/
def vecImage (code : Nat) : Image :=
  image [ten 1 1 1, ten 2 1 1, ten 3 1 1, ten 4 1 1] [line 1 0x11 128 7] [opr 9 code 4 1 2 3 0] [rec 2 9 vecArgs]

/-- The same on an audit cell. -/
def auditing (g : Image) : State := (busy g).modCell 0 (fun c => { c with role := .audit })

theorem meets_VectorRecordsWriteTheirResults :
    (∀ code ∈ [0x0200, 0x0100, 0x0210, 0x0211, 0x0212, 0x0220, 0x0221, 0x0500],
      (busy (vecImage code)).issues 0 2 (issue (vecImage code) 0) ∧ ((busy (vecImage code)).cell 0).audits = false ∧ (issue (vecImage code) 0).op.opcode = code ∧
      ((issue (vecImage code) 0).vecWork 4 4 ((issue (vecImage code) 0).arg 93 72)).isSome = true) ∧
    ((auditing (vecImage 0x0200)).issues 0 2 (issue (vecImage 0x0200) 0) ∧ ((auditing (vecImage 0x0200)).cell 0).audits = true ∧
      laneForm (issue (vecImage 0x0200) 0).op.opcode = some .vectorChain) := by
  refine ⟨fun code h => ?_, issues_of (by decide +kernel), by decide, rfl⟩
  simp only [List.mem_cons, List.not_mem_nil, or_false] at h
  rcases h with rfl | rfl | rfl | rfl | rfl | rfl | rfl | rfl <;> exact ⟨issues_of (by decide +kernel), by decide, by decide, by decide +kernel⟩

/-- Cross-entropy of 4 rows of 32 classes: x, its targets, the row losses, and dx, tensor 3. -/
def lossImage : Image :=
  image [ten 1 1 1, ten 2 2 1, ten 3 1 1, ten 4 3 1] [grid 1 0x11 4 32 2 5, line 2 0x12 4 2, line 3 0x11 1 0]
    [opr 9 0x0213 4 1 2 0 (BitVec.ofNat 256 (3 * 2 ^ 32))] [rec 2 9 vecArgs]
/-- Sampling of 4 sequences. -/
def sampleImage : Image :=
  image [ten 1 1 1, ten 2 2 1, ten 3 3 1] [grid 1 0x11 4 32 2 5, grid 2 0x11 4 3 2 2, line 3 0x12 4 2] [opr 9 0x0230 3 1 2 0 0] [rec 2 9 vecArgs]
/-- Routing of 4 tokens to 32 experts, 2 choices each, capacity 2; the slot table is tensor 5. -/
def routeImage : Image :=
  image [ten 1 1 1, ten 2 2 1, ten 5 3 1] [grid 1 0x11 4 32 2 5, line 2 0x12 8 3, grid 3 0x12 32 2 5 1]
    [opr 9 0x0231 2 1 0 0 (BitVec.ofNat 256 (5 + 32 * 2 ^ 32 + 2 * 2 ^ 64 + 2 * 2 ^ 96))] [rec 2 9 vecArgs]
/-- An optimizer update of a weight of 128 elements; `skimmed` adds its skim tensor. -/
def updateImage (fmt : Nat) (skim : List TensorRec) : Image :=
  image ([ten 1 1 1, ten 2 1 1, ten 3 1 1, ten 4 2 0] ++ skim) [line 1 0x11 128 7, line 2 fmt 128 7, line 3 0x10 128 7] [opr 9 0x0240 4 1 2 3 0] [rec 2 9 vecArgs]
/-- The body, and its skim: a tensor of 16-bit words whose companion it is. -/
def splitImage : Image := updateImage 0x10 [⟨6, 3, 0, false, false, false, 4⟩]
def splitting : State := (busy splitImage).modSlot 0 (fun sl => { sl with wmode := true })

theorem meets_LossSamplingRoutingUpdate :
    ((busy lossImage).issues 0 2 (issue lossImage 0) ∧ ((busy lossImage).cell 0).audits = false ∧ ((issue lossImage 0).vecWork 1 3 ((issue lossImage 0).arg 115 94)).isSome = true ∧
      (issue lossImage 0).param 63 32 = 3 ∧ lossImage.lay 2 = some (line 2 0x12 4 2) ∧ ((issue lossImage 0).operand 2 ((issue lossImage 0).arg 137 116) 0).isSome = true) ∧
    ((busy sampleImage).issues 0 2 (issue sampleImage 0) ∧ sampleImage.lay 1 = some (grid 1 0x11 4 32 2 5) ∧ sampleImage.lay 2 = some (grid 2 0x11 4 3 2 2) ∧ sampleImage.lay 3 = some (line 3 0x12 4 2) ∧
      (∀ p, ((issue sampleImage 0).operand 2 0x400 p).isSome = true ∧ ((issue sampleImage 0).operand 3 0x1000 p).isSome = true)) ∧
    ((busy routeImage).issues 0 2 (issue routeImage 0) ∧ routeImage.lay 1 = some (grid 1 0x11 4 32 2 5) ∧ routeImage.lay 2 = some (line 2 0x12 8 3) ∧
      routeImage.lay ((issue routeImage 0).param 31 0) = some (grid 3 0x12 32 2 5 1) ∧ (∀ p, ((issue routeImage 0).operand 2 0x1000 p).isSome = true ∧ ((issue routeImage 0).operand 5 0x400 p).isSome = true)) ∧
    ((busy (updateImage 0x11 [])).issues 0 2 (issue (updateImage 0x11 []) 0) ∧ ((busy (updateImage 0x11 [])).cell 0).audits = false ∧
      (busy (updateImage 0x11 [])).splitWeight (issue (updateImage 0x11 []) 0) = none ∧ ((issue (updateImage 0x11 []) 0).vecWork 4 4 0x1000).isSome = true) ∧
    (splitting.issues 0 2 (issue splitImage 0) ∧ (splitting.cell 0).audits = false ∧ (splitting.splitWeight (issue splitImage 0)).isSome = true ∧
      ((issue splitImage 0).vecWork 4 4 0x1000).isSome = true) :=
  ⟨⟨issues_of (by decide +kernel), by decide, by decide +kernel, by decide +kernel, by decide, by decide +kernel⟩,
    ⟨issues_of (by decide +kernel), by decide, by decide, by decide, fun _ => ⟨rfl, rfl⟩⟩, ⟨issues_of (by decide +kernel), by decide, by decide, by decide +kernel, fun _ => ⟨rfl, rfl⟩⟩,
    ⟨issues_of (by decide +kernel), by decide, by decide +kernel, by decide +kernel⟩, ⟨issues_of (by decide +kernel), by decide, by decide +kernel, by decide +kernel⟩⟩

/-- A product of 2 × 32 by 32 × 2 in BF16, as one tile whose records end it complete or partial. -/
def productImage (mode : Nat) : Image :=
  image [ten 1 1 1, ten 2 2 1, ten 4 3 1] [grid 1 0x10 2 32 1 5, grid 2 0x10 32 2 5 1, grid 3 0x11 2 2 1 1]
    [{ opr 9 0x0100 4 1 2 0 0 with km1 := 31 }] [rec 1 9 (BitVec.ofNat 160 (0x400 * 2 ^ 116 + 0x1000 * 2 ^ 72 + mode * 2 ^ 70 + 2 ^ 18))]

/-- Its tile stands in the front accumulators of the cell, formed over a number of positions. -/
def tiledOver (positions mode : Nat) : State :=
  let s := (busy (productImage mode)).modCell 0 (fun c => { c with front := { Tile.zero with op := 9, rows := [1, 1], cols := [1, 1], acc := [.zero, .zero, .zero, .zero], positions := positions } })
  s.modSlot 0 (fun sl => { sl with doneRecs := [0] })

def tiled (mode : Nat) : State := tiledOver 32 mode

/-- The lines of the tile in the front accumulators. -/
def linesOf (s : State) (g : Image) : List (Option Bool) :=
  ((issue g 0).tilePlan (s.skipOf (issue g 0))).elim [] (fun p => (auditTile p (s.cell 0).front p.a.o.lay.format).1 ++ (auditTile p (s.cell 0).front p.a.o.lay.format).2)

theorem meets_MatrixTiles :
    ((busy (productImage 0)).issues 0 1 (issue (productImage 0) 0) ∧ ((issue (productImage 0) 0).tilePlan ((busy (productImage 0)).skipOf (issue (productImage 0) 0))).isSome = true) ∧
    (((tiledOver 32 0).modCell 0 (fun c => { c with role := .audit })).ends 0 1 (issue (productImage 0) 0) ∧ (∀ y ∈ linesOf (tiledOver 32 0) (productImage 0), y ≠ some false) ∧
      linesOf (tiledOver 32 0) (productImage 0) ≠ []) ∧
    (((tiledOver 0 1).modCell 0 (fun c => { c with role := .audit })).ends 0 1 (issue (productImage 1) 0) ∧ some false ∈ linesOf (tiledOver 0 1) (productImage 1)) ∧
    ∀ mode ∈ [0, 1, 2, 3], (tiled mode).ends 0 1 (issue (productImage mode) 0) ∧ ((tiled mode).cell 0).drain = none ∧ (productImage mode).lay 4 = some (grid 3 0x11 2 2 1 1) ∧
      ((issue (productImage mode) 0).tilePlan ((tiled mode).skipOf (issue (productImage mode) 0))).any (fun p => p.mode == mode && p.rows * p.cols == 4) = true ∧
      ((tiled mode).slot 0).doneRecs.contains 0 = true ∧ ((tiled mode).cell 0).audits = false ∧ ((tiled mode).cell 0).front.op = 9 ∧ ((tiled mode).cell 0).front.part = 0 ∧
      ((tiled mode).cell 0).front.acc.length = 4 ∧ ((tiled mode).cell 0).front.acc ≠ [] := by
  refine ⟨⟨issues_of (by decide +kernel), by decide +kernel⟩, ⟨ends_of (by decide +kernel), by decide +kernel, by decide +kernel⟩, ⟨ends_of (by decide +kernel), by decide +kernel⟩, fun mode h => ?_⟩
  simp only [List.mem_cons, List.not_mem_nil, or_false] at h
  rcases h with rfl | rfl | rfl | rfl <;>
    exact ⟨ends_of (by decide +kernel), by decide, by decide, by decide +kernel, by decide, by decide, by decide, by decide, by decide, by decide⟩

/-- A reduction over dimension 1 of 4 × 32 elements of binary32 into four sums, from accumulator 126 on, so that they wrap; it closes. -/
def sumImage (dst : Nat) : Image :=
  image [ten 1 1 1, ten 4 2 1] [grid 1 0x11 4 32 2 5, line 2 dst 4 2] [{ opr 9 0x0250 4 1 0 0 1 with km1 := 31 }]
    [rec 3 9 (BitVec.ofNat 160 (0x1000 * 2 ^ 116 + 126 * 2 ^ 107 + 2 ^ 106 + 2 ^ 86))]

/-- The four sums are open. -/
def summed (dst : Nat) : State :=
  let s := (busy (sumImage dst)).modCell 0 (fun c => { c with rout := [(0, 3), (1, 4), (126, 1), (127, 2)], rsurvey := [(0, 5), (127, 5)] })
  s.modSlot 0 (fun sl => { sl with doneRecs := [0] })

theorem meets_ReductionAddsAndCloses :
    ((busy (sumImage 0x11)).issues 0 3 (issue (sumImage 0x11) 0) ∧
      (((issue (sumImage 0x11) 0).operand 1 ((issue (sumImage 0x11) 0).arg 159 138) 0).any (fun o =>
        let x := issue (sumImage 0x11) 0
        let seats := x.redSeats (x.redTerms (((busy (sumImage 0x11)).began 0 x).cell 0) o)
        decide (seats.map (·.1)).Nodup && seats == [(126, 0), (127, 1), (0, 2), (1, 3)])) = true) ∧
    ((summed 0x11).modCell 0 (fun c => { c with role := .audit })).ends 0 3 (issue (sumImage 0x11) 0) ∧
    ∀ dst ∈ [0x11, 0x21], (summed dst).ends 0 3 (issue (sumImage dst) 0) ∧ ((summed dst).cell 0).audits = false ∧ (issue (sumImage dst) 0).arg 106 106 = 1 ∧ ((summed dst).slot 0).doneRecs.contains 0 = true ∧
      ((issue (sumImage dst) 0).operand 1 ((issue (sumImage dst) 0).arg 159 138) 0).any (fun o =>
        let x := issue (sumImage dst) 0
        x.closing ((summed dst).cell 0) o == [(126, 0), (127, 1), (0, 2), (1, 3)]) = true ∧
      (sumImage dst).lay 4 = some (line 2 dst 4 2) ∧ ((issue (sumImage dst) 0).operand 4 0x1000 0).isSome = true := by
  refine ⟨⟨issues_of (by decide +kernel), by decide +kernel⟩, ends_of (by decide +kernel), fun dst h => ?_⟩
  simp only [List.mem_cons, List.not_mem_nil, or_false] at h
  rcases h with rfl | rfl <;>
    exact ⟨ends_of (by decide +kernel), by decide, by decide +kernel, by decide, by decide +kernel, by decide, rfl⟩

/-! ## Copies, gathers, scatters, collectives -/

/-- A layout copy of 4 × 32 elements from address 0 to `dst`, with the origins of PARAMS or, under DYN, of tensor 3. -/
def copyImage (fmt dst : Nat) (params : BitVec 256) : Image :=
  image [ten 1 1 1, ten 2 2 1, ten 3 3 1] [grid 1 0x11 4 32 2 5, grid 2 fmt 4 32 2 5, line 3 0x12 2 1] [opr 9 0x0300 2 1 3 0 params]
    [rec 4 9 (BitVec.ofNat 160 (dst * 2 ^ 116 + 0x2000 * 2 ^ 94 + 128 * 2 ^ 42))]

def copyOn (fmt dst : Nat) (params : BitVec 256) (refused : Bool) : Bool :=
  let g := copyImage fmt dst params
  let x := issue g 0
  issuesOn (busy g) g 0 4 && x.op.opcode == 0x0300 && (x.copyPlan (((busy g).began 0 x).cell 0)).any (fun c => c.refused x.seat params.toNat == refused && c.positions.length == 128)

theorem meets_LayoutCopies :
    copyOn 0x11 0x1000 0 false = true ∧ copyOn 0x10 0x1000 (BitVec.ofNat 256 (5 * 2 ^ 64)) false = true ∧ copyOn 0x11 0x100 (BitVec.ofNat 256 (2 ^ 18)) true = true := by decide +kernel

/-- A gather or scatter-store of 4 slices of `cols` elements on the engine `e`: source 1, updates 2, indices 3. -/
def sliceImage (code e cols log2 : Nat) : Image :=
  { image [ten 1 1 1, ten 2 2 1, ten 3 3 1] [grid 1 0x11 4 cols 0 log2, grid 2 0x11 4 cols 0 log2, line 3 0x12 4 2] [opr 9 code 2 1 3 0 0]
      [rec e 9 (if e = 4 then BitVec.ofNat 160 (0x1000 * 2 ^ 116 + 0x2000 * 2 ^ 94 + 4 * 2 ^ 42) else 0)] with
    dma := [⟨0, [16, 0, 0, 0, 0, 0, 0, 0], [⟨0, 0, 0, 0, 1, 0x1000, 0x2000, false, false, 0, 0, 0, 0, 1024⟩]⟩] }

/-- A record of `sliceImage` that can issue, with its operands. -/
def slicesOn (code e cols log2 : Nat) : Bool :=
  let g := sliceImage code e cols log2
  let x := issue g 0
  issuesOn (busy g) g 0 e && x.op.opcode == code && x.rc.engine == e && x.param 2 0 == 0 && decide (g.lay 1 = some (grid 1 0x11 4 cols 0 log2)) && decide (g.lay 2 = some (grid 2 0x11 4 cols 0 log2)) &&
  (grid 1 0x11 4 cols 0 log2).sliceOk 0 [4, cols] (e == 5) && (grid 2 0x11 4 cols 0 log2).sliceOk 0 [4, cols] (e == 5) && !x.dropped && (e == 4 || (x.descr.isSome && (busy g).turn 0 4 == none))

/-- The same with 32 descriptors of the same channel and tick after it: the last takes its place in the queue. -/
def lostImage (code : Nat) : Image := { sliceImage code 5 64 6 with instrs := rec 5 9 0 :: List.replicate 32 (rec 5 10 0) }

def lostOn (code : Nat) : Bool :=
  let x := issue (lostImage code) 0
  issuesOn (busy (lostImage code)) (lostImage code) 0 5 && x.op.opcode == code && x.dropped

theorem meets_GathersAndScatterStores :
    (∀ code ∈ [0x0310, 0x0311, 0x0312], lostOn code = true) ∧
    slicesOn 0x0310 4 32 5 = true ∧ slicesOn 0x0311 4 32 5 = true ∧ slicesOn 0x0310 5 64 6 = true ∧ slicesOn 0x0311 5 64 6 = true ∧ (busy (sliceImage 0x0310 5 64 6)).mem.errs = [] ∧
      (∀ e a p, ((issue (sliceImage 0x0310 e 32 5) 0).operand 1 a p).isSome = true ∧ ((issue (sliceImage 0x0310 e 32 5) 0).operand 2 a p).isSome = true ∧
        ((issue (sliceImage 0x0310 e 32 5) 0).operand 3 a p).isSome = true) ∧
      (∀ e a p, ((issue (sliceImage 0x0311 e 64 6) 0).operand 1 a p).isSome = true ∧ ((issue (sliceImage 0x0311 e 64 6) 0).operand 2 a p).isSome = true ∧
        ((issue (sliceImage 0x0311 e 64 6) 0).operand 3 a p).isSome = true) :=
  ⟨by decide +kernel, by decide +kernel, by decide +kernel, by decide +kernel, by decide +kernel, rfl, fun _ _ _ => ⟨rfl, rfl, rfl⟩, fun _ _ _ => ⟨rfl, rfl, rfl⟩⟩

/-- `busy`, with tensors of the context placed in stack 0. -/
def placed (g : Image) (ps : List TensorPlace) : State := (busy g).modSlot 0 (fun sl => { sl with place := { sl.place with tensors := ps } })

/-- An all-reduce of one barge between two members in ANC32; collective 3 is a survey maximum, bound to operation 8. -/
def collImage (kind : Nat) : Image :=
  { image [ten 1 1 1, ten 2 1 1] [line 1 0x20 1024 10] [opr 9 0x0400 2 1 0 0 (BitVec.ofNat 256 (2 * 2 ^ 4 + kind))] [] with
    modules := 2, sill := [5, 6], surveyBindings := [(8, 3)], colls := [⟨2, 0, false, false, 0, 0, 100, 0, 3000, [0, 1]⟩, ⟨3, 3, false, false, 0, 0, 100, 0, 3000, [0, 1]⟩] }

/-- The second member, which waits for the contribution of the first. -/
def second : State := (placed (collImage 0) [⟨1, [0], 0x1000, 1⟩]).modSlot 0 (fun sl => { sl with place := { sl.place with position := 1 } })

theorem meets_ScatterAddAndCollective :
    slicesOn 0x0312 5 64 6 = true ∧
    (∃ v, second.canonical = true ∧ second.mem.errs = [] ∧
      second.execImage = some (0, collImage 0) ∧ second.collView 0 (collImage 0) 2 = some v ∧
      second.sch.pound = v.rec_.issuePound ∧ second.sch.state = .inPound ∧ v.kind ≠ 4 ∧
      ((collImage 0).collOp 2).any (fun o => o.src0 == 1) = true ∧ (collImage 0).lay 1 = some (line 1 0x20 1024 10) ∧ 0 ∈ (line 1 0x20 1024 10).blocks ∧ v.contributes (collImage 0) 0 = true ∧ (second.part 0 2 0).got < v.expected (collImage 0) 0 ∧
      (second.bargeAddr 0 (collImage 0) 1 0).isSome = true) ∧
    (∃ v, (busy (collImage 0)).execImage = some (0, collImage 0) ∧ (busy (collImage 0)).collView 0 (collImage 0) 3 = some v ∧ (busy (collImage 0)).sch.pound = v.rec_.issuePound ∧
      (busy (collImage 0)).sch.state = .inPound ∧ v.kind = 4 ∧ (collImage 0).surveyBindings.find? (fun y => y.2 == 3) = some (8, 3)) :=
  ⟨by decide +kernel, ⟨⟨⟨2, 0, false, false, 0, 0, 100, 0, 3000, [0, 1]⟩, 0, 1, 2, false, []⟩, by decide +kernel⟩,
    ⟨⟨⟨3, 3, false, false, 0, 0, 100, 0, 3000, [0, 1]⟩, 4, 0, 2, false, []⟩, by decide +kernel⟩⟩

/-! ## DMA and sends -/

/-- An image whose cell 0 has one descriptor; tensors 1 and 2 have two barges each. -/
def dmaImage (d : Descr) : Image :=
  { image [ten 1 1 1, ten 2 1 1] [line 1 0x11 2048 11] [opr 9 0x0320 1 2 0 0 0] [rec 5 9 (BitVec.ofNat 160 (7 * 2 ^ 157))] with dma := [⟨0, [16, 0, 0, 0, 0, 0, 0, 0], [d]⟩] }

/-- A descriptor of a kind over a length of tensor 1 from byte 0, with the scratchpad from 0x1000. -/
def descr (kind length : Nat) : Descr := ⟨0, 4096, 2, 0, 1, 0x1000, 0x2000, false, false, 0, 0, 0x11, kind, length⟩

/-- The same with a displacement, which the scratchpad holds at 0x2000. -/
def shifted : Descr := { descr 0 256 with dynM := true }

/-- Two places, one for each tensor. -/
def places : List TensorPlace := [⟨1, [0], 0x1000, 2⟩, ⟨2, [0], 0x10000, 2⟩]

/-- Its channel 0 holds the descriptor at the head of its queue. -/
def queued (d : Descr) : State := (placed (dmaImage d) places).modCell 0 (fun c => c.setChannel 0 ⟨[⟨0, 9, 0, 0⟩, ⟨0, 9, 0, 0⟩], none, 0⟩)
def seatOf (d : Descr) : DmaSeat := ⟨0, dmaImage d, ⟨0, 0, 0, 0, false⟩, 1, ⟨0, [16, 0, 0, 0, 0, 0, 0, 0], [d]⟩⟩

theorem meets_DescriptorsQueueAndIssue :
    ((placed (dmaImage (descr 0 256)) places).issues 0 5 (issue (dmaImage (descr 0 256)) 0) ∧ (issue (dmaImage (descr 0 256)) 0).op.opcode = 0x0320 ∧
      (issue (dmaImage (descr 0 256)) 0).arg 159 157 = 7) ∧
    ((queued (descr 0 256)).dmaSeat 0 0 = some (seatOf (descr 0 256)) ∧ ((queued (descr 0 256)).cell 0).spadErr = [] ∧
      ((queued (descr 0 256)).cell 0).channel 0 = ⟨[⟨0, 9, 0, 0⟩, ⟨0, 9, 0, 0⟩], none, 0⟩ ∧ (seatOf (descr 0 256)).dma.descrs[0]? = some (descr 0 256) ∧
      (queued (descr 0 256)).issueTick (seatOf (descr 0 256)) 0 = some 8) ∧
    ((queued shifted).dmaSeat 0 0 = some (seatOf shifted) ∧ refusal (dmaImage shifted) shifted (seatOf shifted).seat.space 1 0x1000 = some 1 ∧
      refusal (dmaImage shifted) shifted (seatOf shifted).seat.space 8192 0x1000 = some 2 ∧ refusal (dmaImage shifted) shifted (seatOf shifted).seat.space 7936 0x1000 = none) :=
  ⟨⟨issues_of (by decide +kernel), by decide, by decide +kernel⟩, by decide +kernel, by decide +kernel⟩

/-- Channel 0 carries the descriptor out and has issued some bursts. -/
def current (n : Nat) (refused : Bool) (parts : List (Nat × Bytes)) : Current := ⟨0, 9, 0, 0, 0, 0, 0x1000, n, refused, parts⟩
def carrying (d : Descr) (u : Current) : State := (placed (dmaImage d) places).modCell 0 (fun c => c.setChannel 0 ⟨[], some u, 0⟩)

/-- The slot at tick 8 falls to channel 0. -/
def slotOn (s : State) (d : Descr) : Bool :=
  decide (s.dmaSeat 0 0 = some (seatOf d)) && decide ((s.cell 0).spadErr = []) && decide ((pattern [16, 0, 0, 0, 0, 0, 0, 0]).getD 1 0 = 0) &&
  decide (s.sch.pound = 0) && decide (((s.cell 0).channel 0).free = 0)

theorem slot_of {s : State} {d : Descr} (hc : s.canonical = true) (h : slotOn s d = true) : s.slotTurn 0 0 8 (seatOf d) 0 := by
  unfold slotOn at h
  simp only [Bool.and_eq_true, decide_eq_true_eq] at h
  obtain ⟨⟨⟨⟨h1, h2⟩, h4⟩, h5⟩, h6⟩ := h
  exact ⟨h1, h2, hc, by decide, by rw [h5]; show 8 < 4096 - 4096 / 64; decide, h4.symm, by show ((s.cell 0).channel 0).free ≤ _; rw [h6]; exact Nat.zero_le _⟩

theorem turn_of {s : State} {d : Descr} {u : Current} (hc : s.canonical = true) (h : (slotOn s d && decide (((s.cell 0).channel 0).current = some u)) = true) (hd : u.descr = 0) (ht : u.tick = 0) :
    s.burstTurn 0 0 8 (seatOf d) 0 u d := by
  simp only [Bool.and_eq_true, decide_eq_true_eq] at h
  exact ⟨slot_of hc h.1, h.2, by rw [hd]; rfl, by rw [ht]; simp [seatOf]⟩

/-- Memory with a sealed barge of zeros at an address, its tag a number above the check value. -/
def sealedMem (a t : Nat) : DevMem := (run.writeBarge a (List.replicate 4096 0) (sealTag (List.replicate 4096 0) t)).mem

theorem sealedMem_wf (a t : Nat) : Memory.wf (sealedMem a t) = true := State.writeBarge_memoryWf (by decide) _ _ _
theorem sealedMem_ok {a : Nat} (t : Nat) (h : a % 64 = 0) : tagOk (sread 0 (sealedMem a t).bytes a 4096) ((sealedMem a t).bargeTag a) = true :=
  State.writeBarge_sealed (by decide) t h (List.length_replicate ..)
theorem sealedMem_tag (a t : Nat) : (sealedMem a t).bargeTag a = sealTag (List.replicate 4096 0) t := State.writeBarge_tag (by decide) _ _ _
theorem sealedMem_errs (a t : Nat) : (sealedMem a t).errs = [] := by
  refine foldl_keeps (P := fun s : State => s.mem.errs = []) (fun b i hb => ?_) _ run rfl
  show sset none b.mem.errs _ none = []
  rw [hb]; rfl
theorem canonical_with {s : State} {m : DevMem} (h : s.tablesWf = true) (hm : Memory.wf m = true) : State.canonical { s with mem := m } = true := by
  show (Memory.wf m && s.tablesWf) = true
  rw [h, hm]; rfl

/-- Fifteen bursts of zeros of block 0 read so far. -/
def read15 : List (Nat × Bytes) := (List.range 15).map (fun i => (i, List.replicate 256 0))

/-- The sixteenth burst of a barge of tensor 1, block 0, which memory holds sealed. -/
def copying : State := { carrying (descr 2 4096) (current 15 false read15) with mem := sealedMem 0x1000 (2 ^ 64) }

theorem copying_mem : copying.mem = sealedMem 0x1000 (2 ^ 64) := rfl

/-- Fifteen bursts of block 0 taken so far. -/
def fifteen : List (Nat × Bytes) := (List.range 15).map (fun i => (i, []))

/-- The barge that the sixteenth burst completes. -/
theorem copied : (barge16 (read15 ++ [(15, List.replicate 256 (0 : Byte))]) 0).flatMap (·.2) = List.replicate 4096 0 := by
  have h : barge16 (read15 ++ [(15, List.replicate 256 (0 : Byte))]) 0 = (List.range 16).map (fun i => (i, List.replicate 256 (0 : Byte))) := by decide +kernel
  rw [h, List.flatMap_map, List.eq_replicate_iff]
  refine ⟨by simp only [List.length_flatMap, List.length_replicate]; decide, fun b hb => ?_⟩
  obtain ⟨i, _, h⟩ := List.mem_flatMap.1 hb
  exact (List.mem_replicate.1 h).2

theorem meets_BurstSlots :
    (∀ k ∈ [0, 1, 2, 3], (carrying (descr k 256) (current 0 false [])).burstTurn 0 0 8 (seatOf (descr k 256)) 0 (current 0 false []) (descr k 256)) ∧
    (carrying (descr 0 256) (current 0 true [])).burstTurn 0 0 8 (seatOf (descr 0 256)) 0 (current 0 true []) (descr 0 256) ∧
    (carrying (descr 0 256) (current 0 false [])).canonical = true ∧
    (carrying (descr 0 256) (current 0 false [])).bargeAddr 0 (dmaImage (descr 0 256)) 1 0 = some 0x1000 ∧
    (wholeBarge (descr 1 256) 0 0 0 = false ∧ wholeBarge (descr 1 4096) 0 0 0 = true) ∧
    ((carrying (descr 1 4096) (current 15 false fifteen)).burstTurn 0 0 8 (seatOf (descr 1 4096)) 0 (current 15 false fifteen) (descr 1 4096) ∧
      (barge16 (fifteen ++ [(15, ([] : Bytes))]) 0).length = 16 ∧ (barge16 ([] ++ [(15, ([] : Bytes))]) 0).length ≠ 16) ∧
    (copying.canonical = true ∧ copying.burstTurn 0 0 8 (seatOf (descr 2 4096)) 0 (current 15 false read15) (descr 2 4096) ∧ copying.mem.errs = [] ∧
      copying.bargeAddr 0 (dmaImage (descr 2 4096)) 1 0 = some 0x1000 ∧ copying.bargeAddr 0 (dmaImage (descr 2 4096)) 2 ((4096 + 256 * 15) / 4096) = some 0x11000 ∧
      (barge16 (read15 ++ [(15, List.replicate 256 (0 : Byte))]) 0).length = 16 ∧ (barge16 ([] ++ [(0, ([] : Bytes))]) 0).length < 16 ∧
      tagOk ((barge16 (read15 ++ [(15, List.replicate 256 (0 : Byte))]) 0).flatMap (·.2)) (copying.mem.bargeTag 0x1000) = true ∧
      tagTensor (copying.mem.bargeTag 0x1000) = 1 ∧ tagBlock (copying.mem.bargeTag 0x1000) = 0) ∧
    (placed (dmaImage (descr 0 256)) places).slotTurn 0 0 8 (seatOf (descr 0 256)) 0 ∧
    ((queued (descr 0 256)).slotTurn 0 0 8 (seatOf (descr 0 256)) 0 ∧ (queued (descr 0 256)).issueTick (seatOf (descr 0 256)) 0 = some 8 ∧
      (((queued (descr 0 256)).cell 0).channel 0).queue.head? = some ⟨0, 9, 0, 0⟩) := by
  refine ⟨fun k h => ?_, turn_of (by decide +kernel) (by decide +kernel) rfl rfl, by decide +kernel, by decide +kernel, by decide +kernel, ⟨turn_of (by decide +kernel) (by decide +kernel) rfl rfl, by decide +kernel, by decide +kernel⟩,
    ⟨canonical_with (by decide +kernel) (sealedMem_wf _ _), turn_of (canonical_with (by decide +kernel) (sealedMem_wf _ _)) (by decide +kernel) rfl rfl, by rw [copying_mem]; exact sealedMem_errs _ _, by decide +kernel, by decide +kernel,
      by decide +kernel, by decide +kernel, ?_, ?_, ?_⟩, slot_of (by decide +kernel) (by decide +kernel), slot_of (by decide +kernel) (by decide +kernel), by decide +kernel, by decide +kernel⟩
  · simp only [List.mem_cons, List.not_mem_nil, or_false] at h
    rcases h with rfl | rfl | rfl | rfl <;> exact turn_of (by decide +kernel) (by decide +kernel) rfl rfl
  · rw [copied, copying_mem, sealedMem_tag, tagOk_sealTag]
  · rw [copying_mem, sealedMem_tag, tagTensor, tagField_sealTag _ _ (by decide) (by decide)]; decide
  · rw [copying_mem, sealedMem_tag, tagBlock, tagField_sealTag _ _ (by decide) (by decide)]; decide

/-- An image of two modules whose cell sends 64 bytes to itself, and one barge on route 2 to position 1. -/
def sendImage : Image :=
  { image [ten 1 1 1] [line 1 0x11 1024 10] [opr 9 0x0330 1 1 0 0 0, opr 10 0x0340 1 1 0 0 0]
      [rec 6 9 (BitVec.ofNat 160 (0x200 * 2 ^ 116 + 2 ^ 64)), rec 7 10 (BitVec.ofNat 160 (2 * 2 ^ 122 + 2 ^ 102))] with
    modules := 2, sill := [5, 6], linkRoutes := [⟨2, false, 0, 1, 0, 0, 1, 0, 500⟩] }

/-- Node 5, with node 6 behind port 35, which is UP; the context holds the join of position 1. -/
def linkedTo (g : Image) : State :=
  let s := linked ((busy g).modSlot 0 (fun sl => { sl with joins := [⟨1, 3, 9⟩] }))
  { s with lnk := { s.lnk with paths := [⟨6, [35], 0, 0, 4⟩] } }

theorem sendsTo_of {s : State} {n : Nat}
    (h : (s.node != unassigned && n != s.node && !(s.portsTo n).isEmpty && (s.portsTo n).all (fun q => s.dieState (24 + q / 6) == 0)) = true) : s.sendsTo n := by
  simp only [Bool.and_eq_true, Bool.not_eq_true', bne_iff_ne, List.all_eq_true, beq_iff_eq, List.isEmpty_eq_false_iff] at h
  exact ⟨h.1.1.1, h.1.1.2, h.1.2, h.2⟩

/-- A transfer of 64 bytes into the last word of the scratchpad. -/
def transferOf : PkgTransfer := ⟨0, 0, 0, 0, [0x3FFFC0], List.replicate 64 7, 192⟩
/-- The context holds. -/
def holding (s : State) : State := { s with sch := { s.sch with state := .holding } }
def arriving : State := { busy sendImage with flight := { Flight.none with transfers := [transferOf] } }

theorem meets_SendsAndDeliveries :
    ((linkedTo sendImage).issues 0 6 (issue sendImage 0) ∧ ((linkedTo sendImage).slot 0).place.bindings.find? (fun b => b.logical == (issue sendImage 0).arg 115 84) = some ⟨0, 0, 0, 0, false⟩) ∧
    (arriving.canonical = true ∧ arriving.flight.transfers[0]? = some transferOf ∧ arriving.frozen transferOf = false ∧ (holding arriving).frozen transferOf = true ∧ (arriving.cell 0).inReset = false ∧
      (arriving.cell 0).landed = [] ∧ transferOf.places.Nodup ∧ (∀ p ∈ transferOf.places, p % 64 = 0) ∧
      0 < transferOf.places.length ∧ 64 * 0 + 63 < transferOf.data.length) ∧
    (∃ s : State, s.canonical = true ∧ s.quiet 0x012 ∧ s.flight.transfers[0]? = some transferOf ∧ s.frozen transferOf = false ∧ (s.cell 0).inReset = true) ∧
    ((linkedTo sendImage).issues 1 7 (issue sendImage 1) ∧ sendImage.route ((issue sendImage 1).arg 137 122) = some ⟨2, false, 0, 1, 0, 0, 1, 0, 500⟩ ∧
      ((linkedTo sendImage).slot 0).joinOf 1 = some ⟨1, 3, 9⟩ ∧ (linkedTo sendImage).sendsTo (sendImage.nodeAt 1) ∧ 0 < (issue sendImage 1).arg 121 102) :=
  ⟨⟨issues_of (by decide +kernel), by decide +kernel⟩, by decide +kernel, ⟨{ run with flight := { Flight.none with transfers := [transferOf] } }, by decide, quiet_of rfl _, by decide⟩,
    issues_of (by decide +kernel), by decide +kernel, by decide +kernel, sendsTo_of (by decide +kernel), by decide +kernel⟩

/-- Every die runs. -/
def allRun (s : State) : State := { s with flt := { s.flt with dieState := 0 } }

theorem runs_of {s : State} (h : s.flt.dieState = 0) (hs : s.stks = []) (k : Nat) : s.baseRuns k = true := by
  have : (s.stack k).closed = false := by unfold State.stack; rw [hs]; rfl
  simp [State.baseRuns, State.dieState, h, bits, this]

/-- Fifteen bursts of a whole barge of tensor 1 have arrived; the sixteenth waits in entry 63. -/
def lastBurst : Burst := { burst none with whole := true, index := 15 }
def fifteenIn : State :=
  allRun ((busy (image [ten 1 1 1] [line 1 0x11 1024 10] [] [])).modCell 0 (fun c => { c with
    layby := [(63, some lastBurst)], arrivals := [⟨0, 1, 0, (List.range 15).map (fun i => (i, []))⟩] }))

theorem hop2_wrong_tensor (s : State) (n : Nat) (g : Image) (tensor block : Nat) (p : Bytes) (tag : BitVec 256) (h : tagTensor tag ≠ tensor) : (s.hop2 n g tensor block p tag).isSome = true := by
  unfold State.hop2
  split
  · rfl
  · rw [if_pos (Or.inl h)]; rfl

theorem meets_ReadsReturn :
    (∀ b ∈ [burst none, { burst none with stale := true }], (withBurst (busy plain) b).canonical = true ∧ (withBurst (busy plain) b).mem.errs = [] ∧ ((withBurst (busy plain) b).cell 0).inReset = false ∧ sget none ((withBurst (busy plain) b).cell 0).layby 63 = some b ∧ (withBurst (busy plain) b).baseRuns (stackOf b.device) = false) ∧
    ((burst none).data = none ∧ (burst (some [])).data.isSome = true ∧ (withBurst (busy plain) (burst (some []))).canonical = true ∧ sget none ((withBurst (busy plain) (burst (some []))).cell 0).layby 63 = some (burst (some []))) ∧
    ((withBurst run (burst none)).canonical = true ∧ ((withBurst run (burst none)).cell 0).inReset = true ∧ sget none ((withBurst run (burst none)).cell 0).layby 63 = some (burst none)) ∧
    (allRun (withBurst (busy plain) (burst none))).baseRuns (stackOf (burst none).device) = true ∧
    (fifteenIn.canonical = true ∧ fifteenIn.mem.errs = [] ∧ (fifteenIn.cell 0).inReset = false ∧ sget none (fifteenIn.cell 0).layby 63 = some lastBurst ∧ lastBurst.whole = true ∧
      fifteenIn.baseRuns (stackOf lastBurst.device) = true ∧ ((fifteenIn.slot 0).image).isSome = true ∧
      ((addArrival (fifteenIn.cell 0).arrivals lastBurst (sread 0 fifteenIn.mem.bytes lastBurst.device 256)).find?
        (Arrival.is · lastBurst)).any (fun a => a.got.length == 16) = true ∧ (Arrival.is ⟨0, 1, 0, []⟩ lastBurst) = true ∧
      ((addArrival [] lastBurst (sread 0 fifteenIn.mem.bytes lastBurst.device 256)).find? (Arrival.is · lastBurst)).any (fun a => a.got.length < 16) = true ∧
      (∀ p, (fifteenIn.hop2 0 (image [ten 1 1 1] [line 1 0x11 1024 10] [] []) 1 0 p (fifteenIn.mem.bargeTag 0)).isSome = true)) :=
  ⟨by decide +kernel, by decide +kernel, by decide +kernel, by decide, by decide +kernel, by decide, by decide +kernel, by decide +kernel, rfl, by decide +kernel, by decide +kernel, by decide +kernel, rfl, by decide +kernel,
    fun p => hop2_wrong_tensor _ _ _ _ _ _ _ (by decide +kernel)⟩

/-! ## Device memory -/

/-- A sealed tag with its lowest bit turned fails its check. -/
theorem tagOk_turned (p : Bytes) (t : Nat) : tagOk p (sealTag p t ^^^ 1#256) = false := by
  have d : (sealTag p t ^^^ 1#256).toNat / 2 ^ 32 = (sealTag p t).toNat / 2 ^ 32 := by
    rw [BitVec.toNat_xor, ← Nat.shiftRight_eq_div_pow, ← Nat.shiftRight_eq_div_pow, Nat.shiftRight_xor_distrib]
    simp
  have c : checkValue p (sealTag p t ^^^ 1#256).toNat = checkValue p (sealTag p t).toNat := by
    unfold checkValue
    rw [covered_of_div (a := (sealTag p t ^^^ 1#256).toNat) (b := (sealTag p t).toNat) (by rw [d])]
  have ok := tagOk_sealTag p t
  unfold tagOk at ok ⊢
  simp only [beq_iff_eq] at ok
  rw [c, ok, BitVec.ofNat_toNat, BitVec.ofNat_toNat, BitVec.setWidth_xor]
  simp only [beq_eq_false_iff_ne, ne_eq]
  intro h
  have := congrArg (fun x => x.getLsbD 0) h
  simp at this

/-- Zeros for a barge, and its tags: sealed for context 0 and generation 9, and the same with a wrong check value. -/
def zeros : Bytes := List.replicate 4096 0
def goodTag : BitVec 256 := sealTag zeros (9 * 2 ^ 32)
def badTag : BitVec 256 := goodTag ^^^ 1#256
/-- Zeros sealed for generation 8. -/
def oldTag : BitVec 256 := sealTag zeros (8 * 2 ^ 32)

theorem goodTag_ok : tagOk zeros goodTag = true := tagOk_sealTag _ _
theorem badTag_bad : tagOk zeros badTag = false := tagOk_turned _ _
theorem goodTag_ctx : tagCtx goodTag = 0 ∧ tagGen goodTag = 9 := by
  unfold tagCtx tagGen goodTag
  rw [tagField_sealTag _ _ (by decide) (by decide), tagField_sealTag _ _ (by decide) (by decide)]
  decide

theorem oldTag_gen : tagGen oldTag = 8 := by
  unfold tagGen oldTag
  rw [tagField_sealTag _ _ (by decide) (by decide)]
  decide

/-- Memory whose barge at address a holds zeros under a tag. -/
def taggedMem (a : Nat) (tag : BitVec 256) : DevMem := (run.writeBarge a zeros tag).mem

theorem taggedMem_wf (a : Nat) (tag : BitVec 256) : Memory.wf (taggedMem a tag) = true := State.writeBarge_memoryWf (by decide) _ _ _
theorem taggedMem_tag (a : Nat) (tag : BitVec 256) : (taggedMem a tag).bargeTag a = tag := State.writeBarge_tag (by decide) _ _ _
theorem taggedMem_payload {a : Nat} (tag : BitVec 256) (h : a % 64 = 0) : sread 0 (taggedMem a tag).bytes a 4096 = zeros := State.writeBarge_payload (by decide) tag h (List.length_replicate ..)
theorem taggedMem_errs (a : Nat) (tag : BitVec 256) : (taggedMem a tag).errs = [] := by
  refine foldl_keeps (P := fun s : State => s.mem.errs = []) (fun b i hb => ?_) _ run rfl
  show sset none b.mem.errs _ none = []
  rw [hb]; rfl

/-- A running module whose slot 0 holds a context of generation 9, or of generation 8, and its base dies run. -/
def living (gen : BitVec 8) : State := let s := allRun (idle plain); { s with ao := { s.ao with gens := [(0, gen)] } }

/-- A barge and a piece of one on their way to 0x1000. -/
def landing (s : State) (tag : BitVec 256) : State := { s with flight := { Flight.none with barges := [⟨0x1000, zeros, tag, none⟩], parts := [⟨0x1FF0, List.replicate 16 7, 0, 9, none, 16, 255⟩] } }

/-- The same, with a barge of zeros under a tag at 0x1000. -/
def partly (gen : BitVec 8) (tag : BitVec 256) : State := { landing (living gen) goodTag with mem := taggedMem 0x1000 tag }

theorem isLate_living (ctx gen : Nat) (g : BitVec 8) (h : ctx = 0) (tag : BitVec 256) : (landing (living g) tag).isLate ctx gen = decide (g.toNat ≠ gen) := by
  subst h; rfl

theorem meets_BargeWritesLand :
    (∀ (gen : BitVec 8) (tag : BitVec 256), (landing (living gen) tag).flight.barges[0]? = some ⟨0x1000, zeros, tag, none⟩ ∧ (landing (living gen) tag).baseRuns (stackOf 0x1000) = true ∧
      (landing (living gen) tag).inBase 0x1000 = false) ∧
    (landing (idle plain) goodTag).baseRuns (stackOf 0x1000) = false ∧ (landing (living 9) goodTag).canonical = true ∧
    tagOk zeros badTag = false ∧ tagOk zeros goodTag = true ∧ (landing (living 8) goodTag).isLate (tagCtx goodTag) (tagGen goodTag) = true ∧
    (landing (living 9) goodTag).isLate (tagCtx goodTag) (tagGen goodTag) = false ∧ 0x1000 % 4096 = 0 ∧ zeros.length = 4096 ∧
    (∀ (gen : BitVec 8) (tag : BitVec 256), (gen = 8 ∨ gen = 9) → (partly gen tag).canonical = true ∧ (partly gen tag).mem.errs = [] ∧
      (partly gen tag).flight.parts[0]? = some ⟨0x1FF0, List.replicate 16 7, 0, 9, none, 16, 255⟩ ∧
      (partly gen tag).baseRuns (stackOf (0x1FF0 / 4096 * 4096)) = true ∧ 0x1FF0 % 4096 + (List.replicate 16 (7 : Byte)).length ≤ 4096 ∧
      tagOk (sread 0 (partly gen tag).mem.bytes 0x1000 4096) ((partly gen tag).mem.bargeTag 0x1000) = tagOk zeros tag ∧ (partly gen tag).mem.bargeTag 0x1000 = tag ∧
      (partly gen tag).inBase 0x1000 = false) ∧
    ((partly 8 goodTag).isLate 0 9 = true ∧ (partly 9 goodTag).isLate 0 9 = false ∧ (tagCtx goodTag = 0 ∧ tagGen goodTag = 9) ∧ tagOk zeros oldTag = true ∧ (partly 9 oldTag).isLate 0 9 = false ∧ tagGen oldTag ≠ 9) ∧
    (∃ s : State, s.canonical = true ∧ s.flight.backs[0]? = some ⟨3, List.replicate 64 1⟩ ∧ (List.replicate 64 (1 : Byte)).length = 64) := by
  refine ⟨fun gen tag => ⟨rfl, runs_of rfl rfl _, rfl⟩, by decide, by decide +kernel, badTag_bad, goodTag_ok, ?_, ?_, by decide, List.length_replicate .., fun gen tag hg => ?_, ⟨rfl, rfl, goodTag_ctx, tagOk_sealTag _ _, rfl, by rw [oldTag_gen]; decide⟩,
    ⟨{ run with flight := { Flight.none with backs := [⟨3, List.replicate 64 1⟩] } }, by decide, rfl, List.length_replicate ..⟩⟩
  · rw [isLate_living _ _ _ goodTag_ctx.1, goodTag_ctx.2]; decide
  · rw [isLate_living _ _ _ goodTag_ctx.1, goodTag_ctx.2]; decide
  · have m : (partly gen tag).mem = taggedMem 0x1000 tag := rfl
    rw [m, taggedMem_tag, taggedMem_payload _ (by decide)]
    refine ⟨canonical_with ?_ (taggedMem_wf _ _), taggedMem_errs _ _, rfl, runs_of rfl rfl _, by decide, rfl, rfl, rfl⟩
    rcases hg with rfl | rfl <;> decide

/-- An image with an accumulation region of ANC64 cells, tensor 1, whose close point is operation 9. -/
def regionImage : Image := { image [ten 1 1 1] [line 1 0x21 512 9] [opr 9 0x0200 0 0 0 0 0] [rec 2 9 vecArgs] with regions := [⟨1, 0x21, 0, 9⟩] }

/-- A contribution of operation op to cell 0. -/
def contribution (op : Nat) : Contribution := ⟨0, 1, 0, 0x11, 0x3F800000, 0, op⟩

/-- A burst of one element, of context 0 and generation 0, for tensor t, with a CRC. -/
def accBurst (t : BitVec 32) (crc : BitVec 32) : AccBurst := ⟨0, 0, t, 0, 0x11, [0, 0, 0x80, 0x3F], crc, 9, [], 1⟩
def accCrc : BitVec 32 := crc32c (accBurst 1 0).covered

/-- The executing context with its region in stack 0, and a burst in flight. -/
def adding (b : AccBurst) : State := let s := allRun (placed regionImage [⟨1, [0], 0x1000, 1⟩]); { s with flight := { Flight.none with bursts := [b] } }
def adderHas (op : Nat) : State := (placed regionImage [⟨1, [0], 0x1000, 1⟩]).modStack 0 (fun t => { t with queue := [contribution op] })

/-- A pound and its tick. -/
def atPound (s : State) (pound tick : Nat) : State := { s with sch := { s.sch with pound := pound, tickIn := tick } }

theorem slot_adderHas (op m : Nat) (h : m ≠ 0) : (adderHas op).slot m = Slot.reset := by
  show sget Slot.reset [(0, _)] m = _
  simp [sget, h.symm]

theorem placeOf_adderHas {op m v : Nat} {p : TensorPlace} (h : (adderHas op).placeOf m v = some p) : p = ⟨1, [0], 0x1000, 1⟩ := by
  by_cases hm : m = 0
  · subst hm
    have e1 : ((adderHas op).slot 0).place.tensors = [⟨1, [0], 0x1000, 1⟩] := rfl
    have e2 : (sget WeightHandle.none ((adderHas op).slot 0).epochs ((adderHas op).slot 0).epochCur.toNat).places = [] := rfl
    have e3 : ((adderHas op).slot 0).baseCur = 7 := rfl
    unfold State.placeOf at h
    simp only [e1, e2, e3, if_true, List.find?_nil] at h
    by_cases hv : (1 == v) = true <;> simp_all
  · unfold State.placeOf at h
    rw [slot_adderHas op m hm] at h
    cases h

/-- Every working cell of that context lies above its region's barge, at a multiple of 16. -/
theorem work_adderHas {op m v c d : Nat} {f : Image} (h : (adderHas op).workPlace m f v c = some d) : d % 16 = 0 ∧ 0x2000 ≤ d := by
  unfold State.workPlace at h
  split at h
  · rename_i hp
    rw [placeOf_adderHas hp] at h
    obtain ⟨i, -, rfl⟩ := Option.map_eq_some_iff.1 h
    have w : f.workBytes v % 16 = 0 := by unfold Image.workBytes; split; (split <;> rfl); rfl
    have k : (i / 1 * f.workBytes v) % 16 = 0 := by rw [Nat.mul_mod, w]; simp
    simp only [TensorPlace.workAddr, TensorPlace.workBase, List.length_singleton, Nat.max_self, Nat.mod_one, List.getD_cons_zero, Nat.zero_mul, Nat.zero_add]
    have b : 0x1000 + ceilDiv 1 1 * 4096 = 0x2000 := rfl
    rw [b]
    omega
  · cases h

theorem meets_AddersAndRegions :
    ((∀ b, (adding b).flight.bursts[0]? = some b ∧ ∀ k, (adding b).baseRuns k = true) ∧ crc32c (accBurst 1 (accCrc + 1)).covered ≠ accCrc + 1 ∧ crc32c (accBurst 1 accCrc).covered = accCrc ∧
      (allRun run).isLate 0 0 = true ∧ (adding (accBurst 1 accCrc)).isLate 0 0 = false ∧ ((adding (accBurst 1 accCrc)).slot 0).image = some regionImage ∧ regionImage.lay 1 = some (line 1 0x21 512 9) ∧ ((adding (accBurst 1 accCrc)).stack 0).queue.length + 1 ≤ 131072 ∧
      (∀ e ∈ (accBurst 1 accCrc).elements (fmtBits 0x21 / 8), (adding (accBurst 1 accCrc)).cellStack 0 regionImage 1 e.1 = some 0) ∧ ((accBurst 1 accCrc).elements (fmtBits 0x21 / 8)).length = 1) ∧
    (∀ op ∈ [9, 10], (adderHas op).canonical = true ∧ ((adderHas op).stack 0).queue = [contribution op] ∧
      ((adderHas op).slot 0).image.bind (fun g => g.region 1) = some ⟨1, 0x21, 0, 9⟩ ∧ (adderHas op).mem.errs = [] ∧
      (adderHas op).workPlace 0 regionImage 1 0 = some 0x2000 ∧ 0x2000 % 16 = 0) ∧
    ((adderHas 9).canonical = true ∧ (adderHas 9).execImage = some (0, regionImage) ∧ regionImage.regions[0]? = some ⟨1, 0x21, 0, 9⟩ ∧ regionImage.lay 1 = some (line 1 0x21 512 9) ∧
      (adderHas 9).mem.errs = [] ∧
      (adderHas 9).regionDue 0 regionImage ⟨1, 0x21, 0, 9⟩ = false ∧ (atPound (adderHas 9) 0 4096).regionDue 0 regionImage ⟨1, 0x21, 0, 9⟩ = true ∧
      (atPound (adderHas 9) 1 0).regionDue 0 regionImage ⟨1, 0x21, 0, 9⟩ = true ∧
      ((atPound (adderHas 9) 1 0).modSlot 0 (fun sl => { sl with closed := [1] })).regionDue 0 regionImage ⟨1, 0x21, 0, 9⟩ = false) ∧
    (∀ m f v c d, ((adderHas 9).slot m).image = some f → (adderHas 9).workPlace m f v c = some d → d % 16 = 0 ∧ (0xFFF < d ∨ d + 16 ≤ 0xFFF)) ∧
    (∀ b d, b < (line 1 0x21 512 9).elemBarges → (adderHas 9).bargeAddr 0 regionImage 1 b = some d → 0xFFF < d / 64 * 64 ∨ d / 64 * 64 + 4096 ≤ 0xFFF) :=
  ⟨⟨fun b => ⟨rfl, fun k => runs_of rfl rfl _⟩, by decide +kernel⟩, by decide +kernel, by decide +kernel,
    fun m f v c d _ h => ⟨(work_adderHas h).1, .inl (by have := (work_adderHas h).2; omega)⟩, fun b d hb h => by
      have e : (line 1 0x21 512 9).elemBarges = 1 := by decide
      obtain rfl : b = 0 := by omega
      have p : (adderHas 9).bargeAddr 0 regionImage 1 0 = some 0x1000 := by decide
      obtain rfl := Option.some.inj (p.symm.trans h)
      decide⟩

/-- A running module with stack 0 in service. -/
def stacked : State := (allRun run).modStack 0 (fun t => { t with inService := true })
/-- A run over one row. -/
def trafficRun (mode : Nat) : TgRun := ⟨0, mode, 1, 1, 1, 0⟩
/-- The same, with a generator of channel 31 at work in a mode. -/
def generating (mode : Nat) : State := stacked.setTg 0 31 { TrafficGen.reset with run := some (trafficRun mode) }

theorem meets_DredgeRefreshAndTraffic :
    (stacked.canonical = true ∧ stacked.stackAwake 0 = true ∧ (stacked.stack 0).inService = true ∧ (stacked.stack 0).periodH ≠ 0) ∧
    (stacked.canonical = true ∧ stacked.accepts .mc (0x101000 + 0 * 0x10000 + 31 * 0x40) ∧ (stacked.tg 0 31).busy = false ∧
      (∀ n, n < 8 → (stacked.slot n).state = .empty) ∧ ((stacked.setSlot 7 (ctxOf plain)).tg 0 31).busy = false ∧ ((stacked.setSlot 7 (ctxOf plain)).slot 7).state ≠ .empty ∧
      ((stacked.setSlot 7 (ctxOf plain)).stack 0).inService = true ∧ ((generating 2).tg 0 31).busy = true ∧ (2 : Word).getLsbD 0 = false) ∧
    (∀ mode ∈ [0, 1, 2, 3], (generating mode).canonical = true ∧ ((generating mode).tg 0 31).run = some (trafficRun mode)) :=
  ⟨by decide, ⟨by decide, accepts_of (by decide), by decide, by decide, by decide, by decide, by decide, by decide, by decide⟩, by decide⟩

/-! ## Links -/

/-- Port 35 of a running module in a state. -/
def portOf (p : Port) : State := let s := allRun run; { s with lnk := { s.lnk with ports := [(35, p)], node := 5 } }
def inState (st : PortState) : State := portOf { Port.reset with state := st, lanesOk := 1, replay := [⟨7, 6, .echo 0 0, 7⟩, ⟨8, 6, .echo 0 0, 8⟩] }

theorem port_inState (st : PortState) : (inState st).port 35 = { Port.reset with state := st, lanesOk := 1, replay := [⟨7, 6, .echo 0 0, 7⟩, ⟨8, 6, .echo 0 0, 8⟩] } := rfl

theorem meets_PortStates :
    (∀ st : PortState, (inState st).canonical = true ∧ (inState st).accepts .mc (0x200100 + 35 / 6 * 0x10000 + 35 % 6 * 0x40) ∧ (inState st).dieState (24 + 35 / 6) = 0 ∧ ((inState st).port 35).state = st ∧
      ((inState st).port 35).held = false ∧ (inState st).portsAwake = true) ∧
    (2 : Word).getLsbD 1 = true ∧ (1 : Word).getLsbD 0 = true ∧ (1 : Word).getLsbD 1 = false := by
  refine ⟨fun st => ?_, by decide, by decide, by decide⟩
  cases st <;> exact ⟨by decide, accepts_of (by decide), by decide, rfl, rfl, by decide⟩

theorem meets_RetryAndLanes :
    (inState .up).canonical = true ∧ ((inState .up).port 35).state = .up ∧ ((inState .up).port 35).lanesOk.getLsbD 0 = true ∧ ((inState .up).port 35).lanesOk ||| 8#4 ≠ 0 ∧ (inState .up).lnk.waiting = [] ∧
      (inState .up).node ≠ unassigned ∧ 6 ≠ (inState .up).node ∧ ((inState .up).port 35).replay ≠ [] ∧ (inState .up).portsTo 6 = [] ∧ (inState .up).dieState (24 + 35 / 6) = 0 ∧
      ((inState .up).port 35).replay.find? (fun r => r.seq == 7) = some ⟨7, 6, .echo 0 0, 7⟩ ∧ ((inState .up).port 35).replay.find? (fun r => r.seq == 8) = some ⟨8, 6, .echo 0 0, 8⟩ := by decide

/-- A packet of route 2 with number 40, and a context of a generation that waits for it at position 0. -/
def head : PacketHead := ⟨false, 2, 0⟩
def waiting (gen : BitVec 8) (fails : Nat) (early : List (BitVec 32)) : State :=
  let s := (allRun run).setSlot 0 { ctxOf routed with place := { (ctxOf routed).place with homes := [⟨false, 2, 5, [4092, 4095]⟩] } }
  { s with ao := { s.ao with gens := [(0, gen)] }, lnk := { s.lnk with node := 5, ports := [(35, { Port.reset with state := .up, fails := [(40, fails)], early := early })] } }

theorem listens_of {s : State} {v : Carriage}
    (h : ((s.port v.port.val).state == .up && !s.linksQuiet && s.node != unassigned && s.dieState (24 + v.port.val / 6) == 0) = true) : s.listens v := by
  simp only [Bool.and_eq_true, Bool.not_eq_true', bne_iff_ne, beq_iff_eq] at h
  exact ⟨h.1.1.1, h.1.1.2, h.1.2, h.2⟩

/-- A survey maximum between two modules: the member that takes in the other's bytes. -/
def surveying : State := linked ((busy (collImage 0)).modSlot 0 (fun sl => { sl with place := { sl.place with position := 1 } }))
def surveyView : CollView := ⟨⟨3, 3, false, false, 0, 0, 100, 0, 3000, [0, 1]⟩, 4, 1, 2, false, []⟩

theorem bargeSlot_of {s : State} {h : PacketHead} {t : BitVec 256} (hg : tagGen t ≠ 0) :
    s.bargeSlot h t = (if s.isLate (tagCtx t) (tagGen t) then none else (s.slot (tagCtx t)).image.map (fun g => (tagCtx t, g))) := by
  unfold State.bargeSlot
  rw [if_neg (fun k => hg k.2.1)]
  split <;> rfl

theorem waiting_late : (waiting 8 6 []).bargeSlot head goodTag = none := by
  rw [bargeSlot_of (by rw [goodTag_ctx.2]; decide), goodTag_ctx.1, goodTag_ctx.2]; decide
theorem waiting_slot : (waiting 9 6 []).bargeSlot head goodTag = some (0, routed) := by
  rw [bargeSlot_of (by rw [goodTag_ctx.2]; decide), goodTag_ctx.1, goodTag_ctx.2]; rfl

/-- The same, where an owner table gives every barge of tensor 0 to node 7. -/
def ownedImage : Image := { routed with owners := [⟨0, 1, 1, 1, [(7, 0)]⟩] }
def waitingOwned : State := (waiting 9 6 []).modSlot 0 (fun sl => { sl with image := some ownedImage })

theorem waitingOwned_slot : waitingOwned.bargeSlot head goodTag = some (0, ownedImage) := by
  rw [bargeSlot_of (by rw [goodTag_ctx.2]; decide), goodTag_ctx.1, goodTag_ctx.2]; rfl

theorem waitingOwned_hop5 : waitingOwned.hop5 0 ownedImage goodTag = false := by
  have t : tagTensor goodTag = 0 := by unfold tagTensor goodTag; rw [tagField_sealTag _ _ (by decide) (by decide)]; decide
  have b : tagBlock goodTag = 0 := by unfold tagBlock goodTag; rw [tagField_sealTag _ _ (by decide) (by decide)]; decide
  have o : tagOwner goodTag = 0 := by unfold tagOwner goodTag; rw [tagField_sealTag _ _ (by decide) (by decide)]; decide
  unfold State.hop5
  rw [t, b, o]
  rfl

theorem meets_PacketsAndTables :
    (∀ fails ∈ [6, 7], (waiting 9 fails []).canonical = true ∧ (waiting 9 fails []).listens (via 35 40 5) ∧
      sget 0 ((waiting 9 fails []).port 35).fails (via 35 40 5).seq.toNat = fails) ∧
    (carriageOf ⟨40, 5, head⟩ 35 ⟨0, 0⟩ = via 35 40 5 ∧ carriageOf ⟨40, 6, head⟩ 35 ⟨0, 0⟩ = via 35 40 6) ∧
    (((via 35 40 5).uncorrectable == 0 && tagOk zeros badTag) = false ∧ ((via 35 40 5).uncorrectable == 0 && tagOk zeros goodTag) = true) ∧
    (((waiting 9 6 []).port 35).has 40 = false ∧ ((waiting 9 6 [40]).port 35).has 40 = true ∧ (waiting 9 6 [40]).listens (via 35 40 5)) ∧
    ((via 35 40 6).node.toNat ≠ (waiting 9 6 []).node ∧ (waiting 9 6 []).listens (via 35 40 6) ∧ (via 35 40 5).node.toNat = (waiting 9 6 []).node) ∧
    ((waiting 8 6 []).bargeSlot head goodTag = none ∧ (waiting 8 6 []).listens (via 35 40 5) ∧ (waiting 9 6 []).bargeSlot head goodTag = some (0, routed) ∧
      ((waiting 9 6 []).slot 0).home false head.number.toNat = some ⟨false, 2, 5, [4092, 4095]⟩ ∧ (waiting 9 6 []).hop5 0 routed goodTag = true ∧
      waitingOwned.bargeSlot head goodTag = some (0, ownedImage) ∧ waitingOwned.listens (via 35 40 5) ∧ waitingOwned.hop5 0 ownedImage goodTag = false) ∧
    (run.accepts .mc 0x200000 ∧ (∀ n, n < 8 → (run.slot n).state = .empty) ∧ (idle plain).accepts .mc 0x200000 ∧ ((idle plain).slot 0).state ≠ .empty) ∧
    (surveying.carries (via 35 1 5) ∧ surveying.slotOfColl 3 = some (0, collImage 0) ∧ surveying.collView 0 (collImage 0) 3 = some surveyView ∧ surveyView.kind = 4 ∧
      (surveying.survey 0 3).got < surveyView.expected (collImage 0) 0) := by
  refine ⟨fun f h => ?_, ⟨rfl, rfl⟩, ⟨by rw [badTag_bad]; rfl, by rw [goodTag_ok]; rfl⟩, ⟨by decide, by decide, listens_of (by decide)⟩, ⟨by decide, listens_of (by decide), by decide⟩,
    ⟨waiting_late, listens_of (by decide), waiting_slot, by decide, by decide, waitingOwned_slot, listens_of (by decide), waitingOwned_hop5⟩,
    ⟨accepts_of (by decide), by decide, accepts_of (by decide), by decide⟩, carries_of (by decide), by decide⟩
  simp only [List.mem_cons, List.not_mem_nil, or_false] at h
  rcases h with rfl | rfl <;> exact ⟨by decide, listens_of (by decide), by decide⟩

/-- A member of a pair at position 0, with node 6 behind port 35, its tensor in memory, and the link route to position 1. -/
def serving : State :=
  let g : Image := { sendImage with pounds := [⟨100, 4096⟩], sillTree := [(0, 0xFFFF), (1, 0)] }
  (linkedTo g).modSlot 0 (fun sl => { sl with place := { sl.place with tensors := [⟨1, [0], 0x1000, 1⟩] } })

theorem meets_JoinsLossAndRemoteReads :
    (∃ s : State, s.canonical = true ∧ s.carries (via 35 1 5) ∧ (s.slot 0).state ≠ .draining ∧ (s.slot 0).structDigest.extractLsb' 0 64 = 0 ∧ (s.slot 0).image = some pair ∧ 1 < pair.modules ∧ pair.nodeAt 1 = 6) ∧
    ((linked run).canonical = true ∧ (linked run).carries (via 35 1 5) ∧ ∀ n, n < 8 → ((linked run).slot n).image = none) ∧
    ((linked (idle pair)).carries (via 35 1 5) ∧ ((linked (idle pair)).slot 0).image = some pair ∧ 1 < pair.modules ∧ pair.nodeAt 1 = 6 ∧ ((linked (idle pair)).slot 0).state = .idle ∧
      (linked (busy pair)).carries (via 35 1 5) ∧ ((linked (busy pair)).slot 0).state = .active) ∧
    ((busy pair).execImage = some (0, pair) ∧ (busy pair).sch.state = .inPound ∧ 1 < pair.modules ∧ 1 ≠ (busy pair).position 0 ∧ ((busy pair).slot 0).state = .active) ∧
    (serving.carries (via 35 1 5) ∧ serving.sendsTo 6 ∧ serving.mem.errs = [] ∧ ((serving.slot 0).image.any (fun g => (g.route 2).any (fun r => r.src == serving.position 0 && r.dst == 1) && g.nodeAt 1 == 6 &&
      (g.routeDescr ⟨2, false, 0, 1, 0, 0, 1, 0, 500⟩).isNone && (g.askedBarges ⟨2, false, 0, 1, 0, 0, 1, 0, 500⟩ 4032 64)[0]? == some 0 && serving.bargeAddr 0 g 1 0 == some 0x1000)) = true ∧
      serving.regionOpen 0 1 = false ∧ 0x1000 % 4096 = 0 ∧ (serving.slot 0).joinOf 1 = some ⟨1, 3, 9⟩) ∧
    ((linkedTo { regionImage with linkRoutes := [⟨2, false, 0, 1, 0, 0, 1, 0, 500⟩] }).regionOpen 0 1 = true ∧
      (linkedTo { regionImage with linkRoutes := [⟨2, false, 0, 1, 0, 0, 1, 0, 500⟩] }).carries (via 35 1 5)) :=
  ⟨⟨linked (idle pair), by decide +kernel, carries_of (by decide), by decide +kernel⟩, ⟨by decide, carries_of (by decide), by decide⟩,
    ⟨carries_of (by decide), by decide, by decide, by decide, by decide, carries_of (by decide), by decide⟩, by decide,
    ⟨carries_of (by decide +kernel), sendsTo_of (by decide +kernel), by decide +kernel⟩, by decide +kernel, carries_of (by decide +kernel)⟩

/-! ## Weights -/

/-- A weight tensor of 32 elements of binary32 in one barge. -/
def weightImage : Image := { plain with tensors := [ten 1 1 0], layouts := [line 1 0x11 32 5], memory := [⟨1, 0, 0, 1⟩] }

/-- The entry that covers it, with a coding, a peer and a state. -/
def entryOf (coding peer state : Nat) : Nat := (if coding = 3 then 4128 else 128) * 2 ^ 384 + 2 ^ 352 + 2 ^ 296 + peer * 2 ^ 276 + (if coding = 3 then 0 else 0x11) * 2 ^ 268 + coding * 2 ^ 266 + state * 2 ^ 128

/-- A context with that entry in a shard table at 0x10000; handle n of its epochs in a state, the current epoch 1. -/
def weighing (n entry : Nat) (w : WeightHandle) : State :=
  let s := run.setSlot 0 { ctxOf weightImage with epochCur := 3, epochReq := 3, epochs := sset .none [] n w }
  { s with mem := ⟨swrite 0 [] 0x10000 (leBytes 64 entry), [], []⟩, wld := { s.wld with tableAddr := 0x10000, tableCount := 1 } }

def fillingHandle : WeightHandle := { WeightHandle.none with state := .filling, tableAddr := 0x10000, count := 1, places := [⟨1, [0], 0x1000, 1⟩] }
def epoch (n : Fin 4) : Handle := .epoch 0 n

/-- What a search finds makes an allocation possible, whatever the loader's choice. -/
theorem allocate_of {s : State} {key : List Nat} {items : List Item}
    (h : (s.search items.length ((List.zip (List.range items.length) items).filter (fun y => y.2.bytes != 0)) s.usedMemory).isSome = true) : (s.allocateAll key items).isSome = true := by
  unfold State.allocateAll
  exact orElse_isSome (by rw [Option.isSome_map]; exact h)

/-- The same with stack 0 in service. -/
def inStack (s : State) : State := s.modStack 0 (fun t => { t with inService := true })

theorem meets_HandlesOpenAndFree :
    (∀ v ∈ [(0x00 : Word), 0x10], (inStack (weighing 2 (entryOf 0 unassigned 0) .none)).canonical = true ∧ (inStack (weighing 2 (entryOf 0 unassigned 0) .none)).accepts .mc 0x80010 ∧
      ((inStack (weighing 2 (entryOf 0 unassigned 0) .none)).slot (cmdSlot v)).image = some weightImage ∧ cmdSlot v < 8 ∧
      ((inStack (weighing 2 (entryOf 0 unassigned 0) .none)).slot (cmdSlot v)).state = .idle ∧ 0x10000 % 256 = 0 ∧ validRange 0x10000 (64 * 1 + 16 * (weightImage.weightMemory (cmdHandle v)).length) = true ∧
      clearOfDump 0x10000 (64 * 1 + 16 * (weightImage.weightMemory (cmdHandle v)).length) = true ∧ ((inStack (weighing 2 (entryOf 0 unassigned 0) .none)).handle (cmdHandle v)).state = .free ∧ ((inStack (weighing 2 (entryOf 0 unassigned 0) .none)).slot (cmdSlot v)).started = false ∧
      (inStack (weighing 2 (entryOf 0 unassigned 0) .none)).inUse (cmdHandle v) = false ∧ (inStack (weighing 2 (entryOf 0 unassigned 0) .none)).requested (cmdHandle v) = false ∧
      (handleSlot (cmdHandle v)).isNone = false ∧
      ((List.range 1).map (fun i => shardOf (leNat ((inStack (weighing 2 (entryOf 0 unassigned 0) .none)).mem.decodeWord (0x10000 / 64 + i)).1))).any (weightImage.shardBad (cmdHandle v)) = false ∧
      (inStack (weighing 2 (entryOf 0 unassigned 0) .none)).partitions weightImage (weightImage.weightMemory (cmdHandle v))
        ((List.range 1).map (fun i => shardOf (leNat ((inStack (weighing 2 (entryOf 0 unassigned 0) .none)).mem.decodeWord (0x10000 / 64 + i)).1))) = true) ∧
    ((inStack (weighing 2 (entryOf 0 unassigned 0) .none)).allocateAll [] ((weightImage.weightMemory (cmdHandle 0x10)).map
      (weightImage.tensorItem (inStack (weighing 2 (entryOf 0 unassigned 0) .none)).node))).isSome = true ∧
    ((weighing 0 (entryOf 0 unassigned 0) fillingHandle).handle (epoch 0)).state = .filling ∧
    (cmdNames 0x00 = true ∧ cmdHandle 0x00 = epoch 0 ∧ cmdHandle 0x08 = .base 0 ∧ cmdNames 0x08 = true ∧ (weighing 2 0 .none).baseRefs 0 = 0 ∧ (weighing 2 0 .none).inUse (.base 0) = false ∧
      (weighing 2 0 .none).requested (.base 0) = false) ∧
    (∃ s : State, s.canonical = true ∧ s.accepts .mc 0x80010 ∧ s.inUse (epoch 0) = true) ∧
    (run.canonical = true ∧ run.accepts .mc (0x80100 + 7 * 0x10)) := by
  refine ⟨fun v h => ?_, allocate_of (by decide +kernel), by decide +kernel, by decide +kernel,
    ⟨run.setSlot 0 { ctxOf weightImage with started := true }, by decide +kernel, accepts_of (by decide), by decide⟩, by decide, accepts_of (by decide)⟩
  simp only [List.mem_cons, List.not_mem_nil, or_false] at h
  rcases h with rfl | rfl <;>
    exact ⟨by decide +kernel, accepts_of (by decide +kernel), by decide +kernel, by decide, by decide +kernel, by decide, by decide +kernel, by decide +kernel, by decide +kernel,
      by decide +kernel, by decide +kernel, by decide +kernel, by decide, by decide +kernel, by decide +kernel⟩

/-- The node behind port 35, so that a path leads to it. -/
def near (s : State) : State := let s := allRun s; { s with lnk := { s.lnk with node := 5, paths := [⟨6, [35], 0, 0, 4⟩], ports := [(35, { Port.reset with state := .up })] } }

/-- An entry in a state under a handle that fills. -/
def entryIn (coding peer state : Nat) : State := near (weighing 0 (entryOf coding peer state) { fillingHandle with arrived := [0] })

/-- It can be submitted, delivered and completed. -/
def entryOn (coding peer state : Nat) : Bool :=
  let s := entryIn coding peer state
  s.canonical && decide ((s.handle (epoch 0)).state = .filling) && decide (0 < (s.handle (epoch 0)).count) && decide (s.handleImage (epoch 0) = some weightImage) && s.entryState (epoch 0) 0 == state &&
  !s.inUse (epoch 0) && (s.shard (s.handle (epoch 0)) 0).peer == peer && (s.shard (s.handle (epoch 0)) 0).coding == coding && decide (weightImage.lay (s.shard (s.handle (epoch 0)) 0).tensor = some (line 1 0x11 32 5)) &&
  (s.shard (s.handle (epoch 0)) 0).count == 1

/-- The module that serves its epoch 0, which is READY. -/
def serves : State :=
  let s := near (weighing 0 0 { fillingHandle with state := .ready })
  { s with mem := ⟨[], [], []⟩, wld := { s.wld with serveEnable := true, serveSlot := 0, serveBase := false, serveHandle := 0 } }

theorem meets_ShardsArriveAndComplete :
    (entryOn 0 unassigned 0 = true ∧ entryOn 0 6 3 = true ∧ entryOn 0 7 3 = true ∧ (entryIn 0 6 3).accepts .mc 0x80010 ∧ (entryIn 0 6 3).portsTo 6 ≠ [] ∧ (entryIn 0 7 3).portsTo 7 = []) ∧
    (entryOn 3 unassigned 1 = true ∧ entryOn 0 unassigned 1 = true ∧ ([] : Bytes).length ≠ 4128 * 1 ∧ (List.replicate 4128 (0 : Byte)).length = 4128 * 1 ∧
      (∀ coding ∈ [(0, 128), (3, 4128)], ((entryIn coding.1 unassigned 1).shard ((entryIn coding.1 unassigned 1).handle (epoch 0)) 0).length = coding.2) ∧
      decodeShard 0 4 (shardPlaces (line 1 0x11 32 5) 0 1).length [] = none ∧ (decodeShard 0 4 (shardPlaces (line 1 0x11 32 5) 0 1).length (List.replicate 128 0)).isSome = true) ∧
    (0 ∈ ((entryIn 0 unassigned 1).handle (epoch 0)).arrived ∧ (entryIn 0 unassigned 1).entryInFlight (epoch 0) 0 = false) ∧
    (serves.carries (via 35 1 5) ∧ serves.sendsTo 6 ∧ serves.serveAddrs ⟨6, 2, 1, 0x11, 0, 1⟩ = none ∧ serves.serveAddrs ⟨6, 1, 1, 0x11, 0, 1⟩ = some [0x1000] ∧ serves.mem.errs = [] ∧ 0x1000 % 4096 = 0) :=
  ⟨⟨by decide +kernel, by decide +kernel, by decide +kernel, accepts_of (by decide +kernel), by decide +kernel, by decide +kernel⟩,
    ⟨by decide +kernel, by decide +kernel, by decide, List.length_replicate .., by decide +kernel, by decide +kernel, by decide +kernel⟩, by decide +kernel,
    ⟨carries_of (by decide +kernel), sendsTo_of (by decide +kernel), by decide +kernel, by decide +kernel, by decide +kernel⟩⟩

/-- Barges and parts that an ARRIVING entry waits for are on their way. -/
theorem meets_BargeWritesLand_load :
    (entryIn 0 unassigned 1).arriving (epoch 0) 0 = true ∧ (entryIn 0 unassigned 2).arriving (epoch 0) 0 = false ∧ (entryIn 0 unassigned 1).canonical = true ∧
      (entryIn 0 unassigned 1).baseRuns (stackOf 0x1000) = true ∧ tagOk zeros badTag = false :=
  ⟨by decide +kernel, by decide +kernel, by decide +kernel, by decide +kernel, badTag_bad⟩

/-! ## Resets -/

/-- A reset in progress, before and after its assertion. -/
def resetting (level die cell : Nat) (returning asserted : Bool) : State :=
  let s := allRun (busy plain)
  { s with flt := { s.flt with resets := [⟨level, die, cell, returning, asserted, [], []⟩] } }

theorem meets_CellAndDieResets :
    ((allRun (busy plain)).canonical = true ∧ (∀ d < 16, (allRun (busy plain)).dieState d = 0) ∧ (allRun (busy plain)).findReset 1 0 0 = none ∧ (allRun (busy plain)).findReset 1 15 67 = none ∧ ((allRun (busy plain)).cell 1).shadowOf = none ∧
      ((allRun (busy plain)).slot 0).state = .active ∧ ((allRun (busy plain)).slot 0).place.bindings.any (fun b => cellKey b.die b.cell == cellKey 0 0) = true ∧ (allRun (busy plain)).quiet srcFault) ∧
    ((resetting 1 15 67 false false).canonical = true ∧ (resetting 1 15 67 false false).dieState 15 = 0 ∧ (resetting 1 15 67 false false).findReset 1 15 67 = some ⟨1, 15, 67, false, false, [], []⟩) ∧
    ((resetting 2 15 0 false false).canonical = true ∧ (resetting 2 15 0 false false).findReset 1 15 67 = none ∧ (resetting 2 15 0 false false).findReset 2 15 0 = some ⟨2, 15, 0, false, false, [], []⟩ ∧
      (∃ s : State, s.canonical = true ∧ s.findReset 1 15 67 = none ∧ s.findReset 2 15 0 = some ⟨2, 15, 0, false, false, [], []⟩ ∧ s.dieState 15 = 1 ∧ s.running = true)) ∧
    ((allRun run).canonical = true ∧ (∀ d < 30, (allRun run).dieState d = 0 ∧ (allRun run).findReset 2 d 0 = none) ∧ (∀ n < 8, ((allRun run).slot n).state ≠ .active) ∧ (allRun run).running = true ∧
      (allRun run).quiet srcFault) :=
  ⟨⟨by decide, by decide, by decide, by decide, by decide, by decide, by decide, quiet_of rfl _⟩, ⟨by decide, by decide, by decide⟩,
    ⟨by decide, by decide, by decide, { resetting 2 15 0 false false with flt := { (resetting 2 15 0 false false).flt with dieState := BitVec.ofNat 64 (2 ^ 30) } }, by decide⟩, ⟨by decide, by decide, by decide, by decide, quiet_of rfl _⟩⟩

/-- Cell 67 of die 15 is marked out of service. -/
def outOfService (s : State) : State := { s with ao := { s.ao with oos := [cellKey 15 67] } }

theorem meets_ResetsCompleteOrEscalate :
    (∀ l ∈ [1, 2, 3, 4], ∀ r ∈ [false, true], (resetting l 15 67 r true).canonical = true ∧ (outOfService (resetting l 15 67 r true)).canonical = true ∧
      (resetting l 15 67 r true).flt.resets = [⟨l, 15, 67, r, true, [], []⟩] ∧ (outOfService (resetting l 15 67 r true)).flt.resets = [⟨l, 15, 67, r, true, [], []⟩] ∧
      (resetting l 15 67 r true).ao.oos.contains (cellKey 15 67) = false ∧ (outOfService (resetting l 15 67 r true)).ao.oos.contains (cellKey 15 67) = true ∧ (resetting l 15 67 r true).ao.railsOn = true) ∧
    ((resetting 2 29 0 false true).flt.resets = [⟨2, 29, 0, false, true, [], []⟩] ∧ (resetting 1 15 67 false true).quiet srcFault) ∧
    (∃ s : State, s.canonical = true ∧ s.flt.resets = [⟨2, 16, 0, false, true, [], [(31, 74)]⟩] ∧ s.dieState 16 = 1 ∧ s.running = true ∧ ([(31, 74)].filter (fun x : Nat × Nat => x.1 == 31)).length ≤ 1) ∧
    (run.comesBack ∧ ¬ ({ run with ao := { run.ao with cmpActive := 1 } } : State).comesBack) ∧
    ((outOfService (allRun run)).accepts .mc 0x90028 ∧ (allRun run).accepts .mc 0x90028 ∧ (outOfService (allRun run)).dieState 15 = 0 ∧ (67 : BitVec 7).toNat < 68 ∧
      (outOfService (allRun run)).ao.oos.contains (cellKey 15 67) = true ∧ (allRun run).ao.oos.contains (cellKey 15 67) = false ∧ (outOfService (allRun run)).quiet srcFault) ∧
    run.accepts .mc 0x90068 := by
  refine ⟨?_, ⟨by decide, quiet_of rfl _⟩, ⟨{ allRun run with flt := { (allRun run).flt with resets := [⟨2, 16, 0, false, true, [], [(31, 74)]⟩], dieState := BitVec.ofNat 64 (2 ^ 32) } }, by decide⟩,
    ⟨⟨by decide, by decide, .inl (by decide)⟩, fun h => absurd h.2.1 (by decide)⟩, ⟨accepts_of (by decide), accepts_of (by decide), by decide, by decide, by decide, by decide, quiet_of rfl _⟩, accepts_of (by decide)⟩
  decide

/-- The state at reset with the main rails off. -/
def unpowered0 : State := { State.reset with ao := { State.reset.ao with railsOn := false } }

theorem meets_WarmAndPowerOnResets :
    ((idle plain).canonical = true ∧ (idle plain).ao.railsOn = true ∧ (5 : BitVec 8) ≠ 1 ∧ (idle plain).pwr.state ≠ .a3 ∧ (idle plain).sec.boot ≠ .wait ∧ (idle plain).sec.boot ≠ .failed ∧ (idle plain).own.owner ≠ none ∧ free.own.owner = none) ∧
    (∃ s : State, s.canonical = true ∧ s.ao.railsOn = true ∧ s.pwr.state = .a3) ∧ (∀ b ∈ [Boot.wait, .failed], ∃ s : State, s.canonical = true ∧ s.ao.railsOn = true ∧ s.sec.boot = b) ∧
    (∃ s : State, s.ao.railsOn = true ∧ s.sec.boot = .rom ∧ s.ao.resetKind = 1 ∧ s.comesBack) ∧ (∃ s : State, s.ao.railsOn = true ∧ s.sec.boot = .rom ∧ s.ao.resetKind = 1 ∧ ¬ s.comesBack) ∧ run.sec.boot ≠ .rom ∧
    unpowered0.mayPower = true ∧
    (∃ s : State, s.mayPower = false) :=
  ⟨by decide, ⟨{ run with pwr := { run.pwr with state := .a3 } }, by decide⟩, fun b _ => ⟨{ run with sec := { run.sec with boot := b } }, rfl, rfl, rfl⟩,
    ⟨{ State.reset with ao := { State.reset.ao with resetKind := 1 } }, by decide, by decide, by decide, by decide, by decide, .inl (by decide)⟩,
    ⟨{ State.reset with ao := { State.reset.ao with resetKind := 1, cmpActive := 1 } }, by decide, by decide, by decide, fun h => absurd h.2.1 (by decide)⟩, by decide, by decide,
    ⟨{ State.reset with ao := { State.reset.ao with aoPower := false } }, by decide⟩⟩

/-! ## Registers and device memory from outside -/

/-- FLT_RESET_CMD for a level, a die and a cell. -/
def resetWord (level die cell : Nat) : Word := BitVec.ofNat 64 (cell * 256 + die * 8 + level)

theorem meets_RegisterAccess :
    (run.reaches .mc = true ∧ run.own.owner = some .mc ∧ run.running = true ∧ run.canonical = true ∧ run.quiet srcFault ∧ run.reaches .host = true ∧ runHost.reaches .host = true ∧ runHost.own.owner = some .host ∧ runHost.running = true) ∧
    (0x3FFFFF8 % 8 = 0 ∧ 0x3FFFFF8 < 0x4000000 ∧ run.own.owner ≠ some .host ∧ isMessage 0x3FFFFF8 = false ∧ isMessage 0x10018 = false ∧ isMessage 0x10048 = false) ∧ 0x3FFFFF9 % 8 ≠ 0 ∧
    (0x9FFF8 < 0xA0000 ∧ 0xA0800 ≤ 0xA0800 ∧ 0xA0700 % 0x100 ≠ 0x40) ∧
    -- FLT_RESET_CMD: each level with its last die and cell, and the words that name none
    (∀ n ∈ [1, 2, 3, 4], ((resetWord n 15 67).extractLsb' 0 3).toNat = n ∧ ((resetWord n 15 67).extractLsb' 3 5).toNat = 15 ∧ ((resetWord n 15 67).extractLsb' 8 7).toNat = 67) ∧
    (((resetWord 2 29 0).extractLsb' 3 5).toNat = 29 ∧ ((resetWord 2 30 0).extractLsb' 3 5).toNat = 30 ∧ ((resetWord 1 16 0).extractLsb' 3 5).toNat = 16 ∧ ((resetWord 1 0 68).extractLsb' 8 7).toNat = 68 ∧
      ((resetWord 0 0 0).extractLsb' 0 3).toNat = 0 ∧ ((resetWord 5 0 0).extractLsb' 0 3).toNat = 5) ∧
    (∃ s : State, s.glb.d3 = true) :=
  ⟨⟨by decide, by decide, by decide, by decide, quiet_of rfl _, by decide, by decide, by decide, by decide⟩, by decide, by decide, by decide, by decide, by decide, ⟨{ run with glb := { run.glb with d3 := true } }, rfl⟩⟩

/-- A sub-word write of one byte waits, into a word that holds no codeword or a sound one. -/
def subWrite (errs : Sparse (Option WordErr)) : State := { run with flight := { Flight.none with subs := [⟨63, [7]⟩] }, mem := ⟨[], [], errs⟩ }

theorem meets_MemoryAndMessages :
    (run.reachable = true ∧ run.memoryOk 0 1 = true ∧ run.memoryOk (devLimit - 1024) 1024 = true ∧ run.mem.errs = [] ∧ run.memoryOk (devLimit - 1023) 1024 = false) ∧
    (run.reaches .host = true ∧ (∃ s : State, s.reachable = true ∧ s.glb.d3 = true) ∧ runHost.glb.d3 = false) ∧
    (2 ^ 30 - 1 + 1 ≤ run.glb.bar2Size ∧ run.memoryOk (run.glb.bar2Base.toNat + (2 ^ 30 - 1)) 1 = true) ∧
    (run.canonical = true ∧ run.own.owner ≠ some .host ∧ run.own.owner = some .mc ∧ (64 : Word).toNat % 64 = 0 ∧ (List.replicate 64 (7 : Byte)).length % 64 = 0 ∧ (List.replicate 64 (7 : Byte)).length ≤ 1024 ∧
      run.memoryOk (64 : Word).toNat 64 = true ∧ (62 : Word).toNat % 64 + [(7 : Byte)].length < 64 ∧ run.memoryOk (62 : Word).toNat 1 = true) ∧
    (runHost.canonical = true ∧ runHost.reachable = true ∧ runHost.own.owner = some .host ∧ (64 : Word).toNat = runHost.glb.bar2Base.toNat + 64 ∧ 64 + 64 ≤ runHost.glb.bar2Size) ∧
    ((subWrite []).canonical = true ∧ (subWrite []).flight.subs[0]? = some ⟨63, [7]⟩ ∧ 63 % 64 + [(7 : Byte)].length ≤ 64 ∧ sget none (subWrite []).mem.errs (63 / 64) = none) ∧
    ((subWrite [(0, some (.noCodeword 3))]).canonical = true ∧ sget none (subWrite [(0, some (.noCodeword 3))]).mem.errs (63 / 64) = some (.noCodeword 3)) ∧
    ((1 : BitVec 16) ≠ 0 ∧ (1 : BitVec 16).toNat ≤ 82 ∧ (82 : BitVec 16) ≠ 0 ∧ (82 : BitVec 16).toNat ≤ 82) :=
  ⟨by decide, ⟨by decide, ⟨{ run with glb := { run.glb with d3 := true } }, by decide⟩, by decide⟩, by decide, by decide, by decide, by decide, by decide, by decide⟩

/-! ## Ownership, PCIe resets and host DMA -/

/-- Ownership messages: token 5, token 6, no token; PREEMPT, and the target PCIe host. -/
def msg (token : Nat) (low : Nat) : Word := BitVec.ofNat 64 (token * 2 ^ 32 + low)

/-- The management controller has offered the module to the PCIe host. -/
def offered : State := { run with own := { run.own with handover := some ⟨.host, 1⟩ } }
def late : State := { offered with ao := { offered.ao with time := 1 } }

theorem meets_OwnershipMoves :
    (free.reaches .host = true ∧ free.reaches (.peer 0xFFFFF) = true ∧ free.own.owner = none ∧ free.own.allowed .host = true ∧ free.own.allowed (.peer 0xFFFFF) = false ∧ msgToken (msg 5 0) ≠ 0 ∧ msgToken (msg 0 7) = 0) ∧
    (runHost.reaches .host = true ∧ runHost.reaches .mc = true ∧ runHost.own.owner = some .host ∧ Master.host ≠ .mc ∧ (msg 5 4).getLsbD 2 = true ∧ (msg 5 3).getLsbD 2 = false ∧ run.own.owner = some .mc ∧ Master.mc ≠ .host) ∧
    (offered.reaches .host = true ∧ offered.own.handover = some ⟨.host, 1⟩ ∧ offered.now < 1 ∧ late.own.handover = some ⟨.host, 1⟩ ∧ late.reaches .host = true ∧ 1 ≤ late.now ∧ run.own.handover = none) ∧
    (run.reaches .mc = true ∧ msgToken (msg 5 1) = run.own.token ∧ msgTarget (msg 5 1) = some .host ∧ Master.host ≠ .mc ∧ run.own.allowed .host = true ∧ msgTarget (msg 5 2) = some .mc ∧ msgTarget (msg 5 0) = none ∧
      msgTarget (msg 5 0xFFFFF003) = some (.peer 0xFFFFF) ∧ run.own.allowed (.peer 0xFFFFF) = false ∧ msgToken (msg 6 0) ≠ run.own.token ∧ run.own.owner ≠ some .host) ∧
    free.own.owner = none ∧ run.quiet srcOwn ∧ free.quiet srcOwn :=
  ⟨by decide, by decide, by decide, by decide, by decide, quiet_of rfl _, quiet_of rfl _⟩

/-- START of two units, raw or by barges, with IRQ. -/
def start (barge dir base : Nat) (n : Nat) : Word := BitVec.ofNat 64 (n * 2 ^ 32 + base * 2 ^ 12 + 0x200 + barge * 0x100 + dir * 0x10 + 1)

/-- Channel 15 as given. -/
def withChan (s : State) (c : DmaChan) : State := s.setChan 15 c

/-- A transfer in progress on channel 15: three units at 0x1000, some records done. -/
def moving (barge dir aborting : Bool) (record : Nat) (fails : BitVec 24) : DmaChan :=
  { DmaChan.reset with busy := true, curLen := 2, curBarge := barge, curDir := dir, curIrq := true, curDev := 0x1000, record := record, aborting := aborting, checkFails := fails, firstFail := 3 }

/-- The record of a barge of zeros with a tag that passes, and with one that fails. -/
def recordOf (tag : BitVec 256) : Bytes := zeros ++ leBytes 32 tag.toNat

theorem zeros_length : zeros.length = 4096 := List.length_replicate ..
theorem record_length (tag : BitVec 256) : (recordOf tag).length = 4128 := by
  unfold recordOf
  rw [List.length_append, zeros_length]
  simp [leBytes]
theorem record_payload (tag : BitVec 256) : (recordOf tag).take 4096 = zeros := List.take_left' zeros_length
theorem record_tag (tag : BitVec 256) : BitVec.ofNat 256 (leNat ((recordOf tag).drop 4096)) = tag := by
  unfold recordOf
  rw [List.drop_left' zeros_length, leNat_leBytes, show 256 ^ 32 = 2 ^ 256 from rfl, Nat.mod_eq_of_lt tag.isLt, BitVec.ofNat_toNat, BitVec.setWidth_eq]

/-- A state with a channel in progress and a context of generation 9 in slot 0. -/
def transferring (c : DmaChan) : State := withChan (living 9) c

/-- The same, with a sealed barge in memory at 0x1000. -/
def storing (c : DmaChan) : State := { transferring c with mem := sealedMem 0x1000 0 }
theorem storing_mem (c : DmaChan) : (storing c).mem = sealedMem 0x1000 0 := rfl

theorem meets_PcieResetsAndHostDma :
    (run.accepts .mc (0x1000 + 15 * 0x40) ∧ (run.chan 15).busy = false ∧ (run.chan 15).dev.toNat % 64 = 0 ∧ (run.chan 15).host.toNat % 64 = 0 ∧ (start 0 0 0 2).getLsbD 8 = false ∧ run.hostRange (run.chan 15).dev.toNat (2 * 64) = true ∧
      ((start 0 0 0 2).extractLsb' 32 32).toNat = 2) ∧
    ((idle plain).accepts .mc (0x1000 + 15 * 0x40) ∧ (start 1 0 0 2).getLsbD 8 = true ∧ ((idle plain).slot ((start 1 0 0 2).extractLsb' 13 3).toNat).state ≠ .empty ∧ ((idle plain).chan 15).dev.toNat % 4096 = 0 ∧
      (idle plain).hostRange ((idle plain).chan 15).dev.toNat (2 * 4096) = true ∧ (start 1 1 0 2).getLsbD 4 = true ∧ (start 1 0 1 2).getLsbD 12 = true) ∧
    ((withChan run { DmaChan.reset with dev := 32 }).accepts .mc (0x1000 + 15 * 0x40) ∧ ((withChan run { DmaChan.reset with dev := 32 }).chan 15).dev.toNat % 64 ≠ 0 ∧ ((withChan run { DmaChan.reset with dev := 32 }).chan 15).busy = false ∧
      (run.slot ((start 1 0 0 2).extractLsb' 13 3).toNat).state = .empty ∧ (start 1 0 0 2).getLsbD 4 = false ∧ (start 1 0 0 2).getLsbD 12 = false ∧ (run.chan 15).dev.toNat % 4096 = 0 ∧
      run.hostRange (run.chan 15).dev.toNat (((start 1 1 0 0xFFFFFFFF).extractLsb' 32 32).toNat * 4096) = false ∧ (start 1 1 0 0xFFFFFFFF).getLsbD 9 = true ∧ run.quiet srcHost) ∧
    ((withChan run (moving false false false 0 0)).accepts .mc (0x1000 + 15 * 0x40) ∧ ((withChan run (moving false false false 0 0)).chan 15).busy = true) ∧
    (∀ c ∈ [moving true false true 1 0, moving true false false 1 0, moving true false false 1 5, moving true true false 0 0, { moving true false false 1 0 with curBase := true }],
      (transferring c).canonical = true ∧ (transferring c).chan 15 = c ∧ c.busy = true ∧ c.curBarge = true ∧ c.record < c.curLen ∧ c.checkFails ≠ 0xFFFFFF ∧ c.curDev % 4096 = 0) ∧
    ((recordOf goodTag).length = 4128 ∧ tagOk ((recordOf goodTag).take 4096) (BitVec.ofNat 256 (leNat ((recordOf goodTag).drop 4096))) = true ∧ (recordOf badTag).length = 4128 ∧
      tagOk ((recordOf badTag).take 4096) (BitVec.ofNat 256 (leNat ((recordOf badTag).drop 4096))) = false ∧ (transferring (moving true false false 1 0)).baseRuns (stackOf (0x1000 + 1 * 4096)) = true ∧
      (transferring (moving true false false 1 0)).isLate (0 : BitVec 3).toNat ((transferring (moving true false false 1 0)).gen (0 : BitVec 3).toNat).toNat = false) ∧
    ((storing (moving true true false 0 0)).canonical = true ∧ (storing (moving true true false 0 0)).chan 15 = moving true true false 0 0 ∧ (storing (moving true true false 0 0)).mem.errs = [] ∧
      tagOk (sread 0 (storing (moving true true false 0 0)).mem.bytes (0x1000 + 0 * 4096) 4096) ((storing (moving true true false 0 0)).mem.bargeTag (0x1000 + 0 * 4096)) = true) ∧
    (∀ c ∈ [moving true false false 2 0, moving true false true 1 0, moving false false false 0 0, moving false true false 0 0, moving false false true 0 0],
      (transferring c).canonical = true ∧ (transferring c).chan 15 = c ∧ c.busy = true ∧ c.curDev % 64 = 0 ∧ (transferring c).mem.errs = []) ∧
    ((List.replicate 128 (7 : Byte)).length = 2 * 64 ∧ (moving true false false 2 0).record = (moving true false false 2 0).curLen ∧ run.quiet srcHost) ∧
    (run.reachable = true ∧ runHost.reachable = true ∧ runHost.own.owner = some .host ∧ run.own.owner ≠ some .host ∧ run.shardArrives = false ∧ runHost.shardArrives = false ∧ run.own.pcieReset = true ∧ run.asleep = false ∧
      ∃ s : State, s.reachable = true ∧ s.own.pcieReset = false) := by
  refine ⟨⟨accepts_of (by decide), by decide, by decide, by decide, by decide, by decide, by decide⟩, ⟨accepts_of (by decide), by decide, by decide, by decide, by decide, by decide, by decide⟩,
    ⟨accepts_of (by decide), by decide, by decide, by decide, by decide, by decide, by decide, by decide, by decide, quiet_of rfl _⟩, ⟨accepts_of (by decide), by decide⟩, by decide,
    ⟨record_length _, ?_, record_length _, ?_, runs_of rfl rfl _, by decide⟩, ⟨?_, by decide, ?_, ?_⟩, by decide, ⟨List.length_replicate .., rfl, quiet_of rfl _⟩,
    ⟨by decide, by decide, by decide, by decide, by decide, by decide, by decide, by decide, { run with own := { run.own with pcieReset := false } }, by decide⟩⟩
  · rw [record_payload, record_tag]; exact goodTag_ok
  · rw [record_payload, record_tag]; exact badTag_bad
  · exact canonical_with (by decide) (sealedMem_wf _ _)
  · rw [storing_mem]; exact sealedMem_errs _ _
  · rw [storing_mem]; exact sealedMem_ok _ (by decide)

/-! ## Events -/

theorem quiet_by {s : State} {k : Nat} (hm : s.evt.mask = 0) (hp : sget none s.evt.pend k = none) : s.quiet k := by
  unfold State.quiet State.isMasked
  rw [hm]
  exact ⟨by simp, hp⟩

def evRec : EvRec := ⟨0, 0x7001, 0, 0, false, false, false, 0, srcSec, 1⟩

/-- A ring of 4,096 records at 0x1000, in host or device memory, with HEAD and TAIL, and one pending source; the vector is not masked. -/
def ringed (s : State) (device : Bool) (head tail : BitVec 16) : State :=
  { s with glb := { s.glb with msix := [(3, 0)], msixEnable := true }, evt := { s.evt with ring := some ⟨12, device, 0x1000⟩, head := head, tail := tail, pend := [(srcSec, some evRec)] } }

/-- It meets the hypotheses of a record write, with a number of free slots. -/
def ringOn (s : State) (device : Bool) (head tail : BitVec 16) (free : Nat) : Bool :=
  let t := ringed s device head tail
  t.canonical && t.ringOpen ⟨12, device, 0x1000⟩ && t.evt.ring == some ⟨12, device, 0x1000⟩ && t.evt.nextPending == some (srcSec, evRec) && !t.glb.vectorMasked && t.evt.free ⟨12, device, 0x1000⟩ == free && t.own.owner == s.own.owner

theorem meets_RingHoldsRecords :
    ((ringOn run false 0 0 4095 && ringOn run true 0 0 4095 && ringOn runHost false 0 0 4095 && ringOn runHost true 0 0 4095) = true ∧
      (ringOn run false 2 4095 2 && ringOn run true 2 4095 2 && ringOn runHost false 2 4095 2 && ringOn runHost true 2 4095 2) = true ∧
      (ringOn run false 2 1 0 && ringOn run true 2 1 0 && ringOn runHost false 2 1 0 && ringOn runHost true 2 1 0) = true ∧ ringOn run false 0 4094 1 = true) ∧
    (∃ s : State, s.ringOpen ⟨12, false, 0x1000⟩ = true ∧ s.own.owner = some .host ∧ s.glb.msixEnable = false) ∧ (∃ s : State, s.ringOpen ⟨12, false, 0x1000⟩ = true ∧ s.own.owner = some .host ∧ s.glb.msixMask = true) ∧
    (∃ s : State, s.ao.railsOn = false) ∧ (∃ s : State, s.pwr.state = .a3) ∧ (∃ s : State, (s.stack (stackOf 0x1000)).selfRefresh = true) ∧
    (run.evt.ring = none ∧ run.evt.nextPending = none) ∧
    (run.accepts .mc 0x20000 ∧ runHost.accepts .host 0x20000 ∧ runHost.evt.base.toNat % 4096 = 0 ∧ (0xC00 : Word).getLsbD 1 = false ∧ ((0xC00 : Word).extractLsb' 8 5).toNat = 12 ∧ ((0x1000 : Word).extractLsb' 8 5).toNat = 16 ∧
      ((0xB00 : Word).extractLsb' 8 5).toNat = 11 ∧ ((0x1100 : Word).extractLsb' 8 5).toNat = 17 ∧ (0xC00 : Word).getLsbD 2 = false ∧ (0xC04 : Word).getLsbD 2 = true ∧ Master.mc ≠ .host) ∧
    (∃ s : State, s.accepts .host 0x20000 ∧ s.evt.base.toNat % 4096 ≠ 0) ∧
    (run.accepts .mc 0x20018 ∧ (ringed run false 4095 1).accepts .mc 0x20018 ∧ (1 + 4096 - 4095) % 4096 ≤ (1 + 4096 - 4095) % 4096 ∧ (1 + 4096 - 4095) % 4096 < (2 + 4096 - 4095) % 4096 ∧ (65536 + 1) % 65536 = 1 ∧
      Ring.size ⟨12, false, 0x1000⟩ ≤ 4096) :=
  ⟨⟨by decide +kernel, by decide +kernel, by decide +kernel, by decide +kernel⟩,
    ⟨ringed runHost false 0 0 |> fun s => { s with glb := { s.glb with msixEnable := false } }, by decide⟩, ⟨ringed runHost false 0 0 |> fun s => { s with glb := { s.glb with msixMask := true } }, by decide⟩,
    ⟨{ run with ao := { run.ao with railsOn := false } }, rfl⟩, ⟨{ run with pwr := { run.pwr with state := .a3 } }, rfl⟩, ⟨run.modStack 0 (fun k => { k with selfRefresh := true }), by decide⟩, by decide, ⟨accepts_of (by decide), accepts_of (by decide), by decide, by decide, by decide, by decide, by decide, by decide, by decide, by decide, by decide⟩,
    ⟨{ runHost with evt := { runHost.evt with base := 64 } }, accepts_of (by decide), by decide⟩, accepts_of (by decide), accepts_of (by decide), by decide⟩

/-- An input with 64 activations at AO time 1, and one under a storm mask. -/
def stormy (n : Nat) (time : Word) : State :=
  { run with evt := { run.evt with sbTimes := sset [] [] n (List.replicate 64 1) }, ao := { run.ao with time := time } }
def masked (n : Nat) : State := { run with evt := { run.evt with sbMasked := BitVec.twoPow 16 n } }

theorem meets_SidebandInputs :
    (∀ n ∈ [0, 5], run.ao.railsOn = true ∧ run.evt.sbEnable.getLsbD n = true ∧ run.evt.sbLevel.getLsbD n = false ∧ run.evt.sbMasked.getLsbD n = false ∧ run.canonical = true ∧ run.asleep = false ∧
      64 ≤ (sget [] (stormy n 1000000).evt.sbTimes n).length ∧ (stormy n 1000000).now < (sget [] (stormy n 1000000).evt.sbTimes n).getD 63 0 + msNs ∧
      ¬ (stormy n 1000001).now < (sget [] (stormy n 1000001).evt.sbTimes n).getD 63 0 + msNs ∧ (sget [] run.evt.sbTimes n).length < 64 ∧
      (masked n).evt.sbMasked.getLsbD n = true ∧ (masked n).evt.sbLevel.getLsbD n = false ∧ (masked n).canonical = true) ∧ run.evt.sbEnable.getLsbD 15 = true ∧ (∃ s : State, s.ao.railsOn = true ∧ s.evt.sbEnable.getLsbD 5 = false) ∧
    (∃ s : State, s.ao.railsOn = true ∧ s.evt.sbLevel.getLsbD 5 = true) ∧ ∀ n ∈ [0, 5], (stormy n 1000000).quiet (0x40 + n) ∧ (stormy n 1000001).quiet (0x40 + n) := by
  refine ⟨by decide, by decide, ⟨{ run with evt := { run.evt with sbEnable := 0 } }, by decide⟩, ⟨{ run with evt := { run.evt with sbPin := 0x0F } }, by decide⟩, fun n h => ?_⟩
  simp only [List.mem_cons, List.not_mem_nil, or_false] at h
  rcases h with rfl | rfl <;> exact ⟨quiet_by rfl rfl, quiet_by rfl rfl⟩

/-! ## Start-up, security and self-test -/

/-- A header of a TYPE, a length and a UID_BIND, for version 1, security version 3, key slot 0 and a key of zeros. -/
def headOf (type length uid : Nat) : Nat := uid * 2 ^ 448 + length * 2 ^ 416 + 2 ^ 384 + 3 * 2 ^ 376 + type * 2 ^ 360 + 2 ^ 352 + 0x5746484B

/-- An object of a TYPE with a body and a signature of zeros. -/
def object (type uid : Nat) (body : Bytes) : Bytes := leBytes 128 (headOf type (29920 + body.length) uid) ++ (body ++ List.replicate sigBytes 0)

theorem object_length (type uid : Nat) (body : Bytes) : (object type uid body).length = 29920 + body.length := by
  unfold object sigBytes
  rw [List.length_append, List.length_append, List.length_replicate]
  simp only [leBytes, List.length_map, List.length_range]
  omega

theorem object_head (type uid : Nat) (body : Bytes) : leNat ((object type uid body).take 128) = headOf type (29920 + body.length) uid % 256 ^ 128 := by
  unfold object
  rw [List.take_left' (by simp [leBytes]), leNat_leBytes]

theorem object_body (type uid : Nat) (body : Bytes) : objBody (object type uid body) = body := by
  unfold objBody
  rw [object_length]
  unfold object sigBytes
  rw [List.drop_left' (by simp [leBytes]), show 29920 + body.length - 128 - 29792 = body.length by omega]
  exact List.take_left' rfl

/-- The hash of the key of zeros. -/
def zeroKeyHash : BitVec 512 := shake512 (leBytes 64 0)
theorem zeroKeyHash_ne : zeroKeyHash ≠ 0 := by decide +kernel

/-- A running module whose key slots 0 and 1 hold the hash of the key of zeros, with a security version, a unique identifier, a lifecycle and SEC_OBJ_LEN. -/
def keyed (svn life uid len : Nat) : State :=
  { run with
    fuses := { run.fuses with keyHash0 := zeroKeyHash, keyHash1 := zeroKeyHash, svn := svn, uid := BitVec.ofNat 64 uid }
    sec := { run.sec with life := BitVec.ofNat 2 life, objLen := BitVec.ofNat 64 len } }

/-- The items of 15:R387 for the key of zeros in slot 0, but for the signature, which rests on an opaque function. -/
def soundBut (s : State) (type len : Nat) (h : ObjHead) : Bool :=
  h.magic == 0x5746484B && h.format == 1 && h.reservedZero && h.length == len && lengthOk h.type len && h.type == type && h.keySlot == 0 && h.pubkey == 0 && (h.uidBind == 0 || h.uidBind == s.fuses.uid.toNat) && decide (s.fuses.svn ≤ h.svn)

theorem keyOk_zero {f : Fuses} {h : ObjHead} (any : Bool) (hf : f.keyHash0 = zeroKeyHash) (hr : f.revoked = 0) (hk : h.keySlot = 0) (hp : h.pubkey = 0) : f.keyOk any h = true := by
  have : f.keyHash 0 = zeroKeyHash := hf
  unfold Fuses.keyOk Fuses.slotGood
  rw [hk, hp, this, hr]
  have hn : ¬ zeroKeyHash = 0#512 := zeroKeyHash_ne
  simp [hn, show shake512 (leBytes 64 0) = zeroKeyHash from rfl]

theorem verify_of {svn life uid len type : Nat} {b : Bytes} (h : soundBut (keyed svn life uid len) type b.length (objHead b) = true) (hs : signatureOk (objHead b) b = true) :
    (keyed svn life uid len).verify type b = 0 := by
  simp only [soundBut, Bool.and_eq_true, Bool.or_eq_true, beq_iff_eq, decide_eq_true_eq] at h
  obtain ⟨⟨⟨⟨⟨⟨⟨⟨⟨h1, h2⟩, h3⟩, h4⟩, h5⟩, h6⟩, h7⟩, hp⟩, h8⟩, h9⟩ := h
  subst h6
  have hk (any : Bool) : (keyed svn life uid len).fuses.keyOk any (objHead b) = true := keyOk_zero any rfl rfl h7 hp
  simp only [State.verify, h1, h2, h3, h4, h5, hk, hs]
  rw [if_neg (by simp), if_neg (by simp), if_neg (by simp), if_neg (by omega), if_neg (by omega), if_neg (by simp)]

theorem object_objHead (type uid : Nat) (body : Bytes) : objHead (object type uid body) = objHead (leBytes 128 (headOf type (29920 + body.length) uid)) := by
  unfold objHead object
  rw [List.take_left' (by simp [leBytes]), List.take_of_length_le (by simp [leBytes])]

/-- A pack with one record: TEST_ID 0x10000 of KIND 1 and class 1. -/
def packBody : Bytes := leBytes 4 1 ++ (List.replicate 12 0 ++ leBytes 64 (0x10000 * 2 ^ 256 + 2 ^ 292 + 2 ^ 288))

/-- A pack of that body, a revocation of slot 1, and a return to the maker for UID 7; the signature of each must hold for it to be accepted. -/
theorem object_sound {svn life uid' len' type uid : Nat} {body : Bytes} {len : Nat} (hl : 29920 + body.length = len) (h : soundBut (keyed svn life uid' len') type len (objHead (leBytes 128 (headOf type len uid))) = true)
    (hs : signatureOk (objHead (object type uid body)) (object type uid body) = true) : (keyed svn life uid' len').verify type (object type uid body) = 0 := by
  refine verify_of ?_ hs
  rw [object_length, object_objHead, hl]
  exact h

/-- A boot state of a module whose management controller owns it. -/
def booting (b : Boot) (busy : Bool) (s : State) : State := { s with sec := { s.sec with boot := b, busy := busy, fetchLen := s.sec.objLen.toNat } }

/-- An object stands in verification. -/
def verifying (s : State) (b : Bytes) : State := { s with sec := { s.sec with boot := .verify, object := b } }

/-- `verify = 0` rests on an opaque signature check, so its witnesses suppose that the signature of the object named holds, and nothing else. -/
theorem meets_BootStates :
    (State.reset.canonical = true ∧ State.reset.ao.railsOn = true ∧ State.reset.sec.boot = .rom ∧ State.reset.ao.resetKind ≠ 1 ∧
      ∃ s : State, s.canonical = true ∧ s.ao.railsOn = true ∧ s.sec.boot = .rom ∧ s.ao.resetKind = 1 ∧ s.ao.resetCause ≠ 5) ∧
    ((booting .wait false run).accepts .mc 0x40008 ∧ (booting .wait false run).sec.busy = false ∧ (booting .wait false run).sec.boot = .wait ∧ (booting .wait true run).sec.busy = true ∧ run.sec.boot ≠ .wait ∧
      (booting .wait true run).accepts .mc 0x40008 ∧ run.accepts .mc 0x40008 ∧ run.quiet srcSec) ∧
    ((booting .fetch true (keyed 3 0 9 29920)).sec.boot = .fetch ∧ (object 1 0 []).length = (booting .fetch true (keyed 3 0 9 29920)).sec.fetchLen) ∧
    ((verifying (keyed 3 0 9 29920) (object 1 0 [])).sec.boot = .verify ∧
      (signatureOk (objHead (object 1 0 [])) (object 1 0 []) = true → (verifying (keyed 3 0 9 29920) (object 1 0 [])).verify 1 (verifying (keyed 3 0 9 29920) (object 1 0 [])).sec.object = 0)) ∧
    ((verifying run []).sec.boot = .verify ∧ (verifying run []).verify 1 (verifying run []).sec.object ≠ 0) ∧
    ((booting .init true run).canonical = true ∧ (booting .init true run).sec.boot = .init ∧ 30 ≤ (30 : Fin 34).val ∧ 30 ≤ (33 : Fin 34).val) ∧
    (run.canonical = true ∧ run.sec.busy = false ∧ run.sec.life ≠ 1 ∧ (keyed 0 1 0 0).sec.life = 1 ∧ (keyed 0 1 0 0).sec.busy = false ∧ (keyed 0 1 0 0).canonical = true ∧ (keyed 0 1 0 0).accepts .mc 0x40008 ∧
      (booting .running true run).sec.busy = true ∧ (booting .running true run).canonical = true ∧ (booting .running true run).accepts .mc 0x40008) := by
  refine ⟨⟨by decide, by decide, by decide, by decide, { State.reset with ao := { State.reset.ao with resetKind := 1 } }, by decide⟩,
    ⟨accepts_of (by decide), by decide, by decide, by decide, by decide, accepts_of (by decide), accepts_of (by decide), quiet_of rfl _⟩,
    ⟨rfl, object_length ..⟩, ⟨rfl, fun h => ?_⟩, ⟨rfl, by decide⟩, by decide,
    ⟨by decide, by decide, by decide, by decide, by decide, by decide, accepts_of (by decide), by decide, by decide, accepts_of (by decide)⟩⟩
  exact object_sound (svn := 3) (life := 0) (uid' := 9) (len' := 29920) rfl (by decide +kernel) h

/-- A report that waits to be written. -/
def reporting : State := { run with sec := { run.sec with busy := true, report := some ⟨4096, List.replicate 1744 7⟩ } }

theorem meets_SecurityCommands :
    ((keyed 3 1 7 30000).accepts .mc 0x40008 ∧ (keyed 3 1 7 30000).sec.busy = false ∧ (keyed 3 1 7 30000).running = true ∧ (object 2 0 packBody).length = (keyed 3 1 7 30000).sec.objLen.toNat ∧
      (signatureOk (objHead (object 2 0 packBody)) (object 2 0 packBody) = true → (keyed 3 1 7 30000).verify 2 (object 2 0 packBody) = 0) ∧
      (∃ u, packTable (keyed 3 1 7 30000).tst.table (objBody (object 2 0 packBody)) = some u)) ∧
    ((object 2 0 []).length = (keyed 3 1 7 29920).sec.objLen.toNat ∧ (signatureOk (objHead (object 2 0 [])) (object 2 0 []) = true → (keyed 3 1 7 29920).verify 2 (object 2 0 []) = 0) ∧
      packTable (keyed 3 1 7 29920).tst.table (objBody (object 2 0 [])) = none) ∧
    (([] : Bytes).length = (keyed 3 1 7 0).sec.objLen.toNat ∧ (keyed 3 1 7 0).verify 2 [] ≠ 0 ∧ (keyed 3 1 7 0).verify 3 [] ≠ 0 ∧ (keyed 3 1 7 0).accepts .mc 0x40008) ∧
    ((object 3 0 [1]).length = (keyed 3 1 7 29921).sec.objLen.toNat ∧ (signatureOk (objHead (object 3 0 [1])) (object 3 0 [1]) = true → (keyed 3 1 7 29921).verify 3 (object 3 0 [1]) = 0) ∧
      leNat ((objBody (object 3 0 [1])).take 1) = 1 ∧ (objHead (object 3 0 [1])).keySlot ≠ 1 ∧ (keyed 3 1 7 29921).accepts .mc 0x40008) ∧
    ((keyed 3 1 7 29920).sec.life = 1 ∧ (object 4 7 []).length = (keyed 3 1 7 29920).sec.objLen.toNat ∧ (signatureOk (objHead (object 4 7 [])) (object 4 7 []) = true → (keyed 3 1 7 29920).verify 4 (object 4 7 []) = 0) ∧
      (objHead (object 4 7 [])).uidBind = (keyed 3 1 7 29920).fuses.uid.toNat) ∧
    (run.accepts .mc 0x40008 ∧ run.sec.busy = false ∧ run.sec.life = 0 ∧ (keyed 0 2 0 0).accepts .mc 0x40008 ∧ (keyed 0 2 0 0).sec.life = 2 ∧ (keyed 0 2 0 0).sec.busy = false ∧
      (booting .running true run).sec.busy = true ∧ (booting .running true run).accepts .mc 0x40008) ∧
    (run.running = true ∧ run.sec.seedLock = false ∧ run.sec.life ≠ 2 ∧ run.sec.reportAddr.toNat % 4096 = 0 ∧ validRange run.sec.reportAddr.toNat 51600 = true ∧ clearOfDump run.sec.reportAddr.toNat 51600 = true) ∧
    (({ run with sec := { run.sec with reportAddr := 64 } } : State).running = true ∧ ({ run with sec := { run.sec with reportAddr := 64 } } : State).sec.reportAddr.toNat % 4096 ≠ 0) ∧
    (reporting.canonical = true ∧ reporting.sec.report = some ⟨4096, List.replicate 1744 7⟩ ∧ 4096 % 4096 = 0 ∧ (List.replicate 1744 (7 : Byte)).length = 1744 ∧ reporting.quiet srcSec) := by
  refine ⟨⟨accepts_of (by decide), by decide, by decide, object_length .., fun h => ?_, ?_⟩, ⟨object_length .., fun h => ?_, ?_⟩, ⟨by decide, by decide, by decide, accepts_of (by decide)⟩,
    ⟨object_length .., fun h => ?_, ?_, ?_, accepts_of (by decide)⟩, ⟨by decide, object_length .., fun h => ?_, ?_⟩,
    ⟨accepts_of (by decide), by decide, by decide, accepts_of (by decide), by decide, by decide, by decide, accepts_of (by decide)⟩, by decide, by decide, ⟨by decide, rfl, by decide, List.length_replicate .., quiet_of rfl _⟩⟩
  · exact object_sound rfl (by decide +kernel) h
  · rw [object_body]
    exact Option.isSome_iff_exists.mp (by decide +kernel)
  · exact object_sound rfl (by decide +kernel) h
  · rw [object_body]; decide
  · exact object_sound rfl (by decide +kernel) h
  · rw [object_body]; decide
  · rw [object_objHead]; decide +kernel
  · exact object_sound rfl (by decide +kernel) h
  · rw [object_objHead]; decide +kernel

theorem meets_LifecycleAndPackChain :
    ((keyed 3 1 7 0).accepts .mc 0x40008 ∧ (keyed 3 1 7 0).sec.life = 1 ∧ ([] : Bytes).length = (keyed 3 1 7 0).sec.objLen.toNat ∧ (keyed 3 1 7 0).verify 4 [] ≠ 0) ∧
    ((keyed 3 2 7 0).accepts .mc 0x40008 ∧ (keyed 3 2 7 0).sec.life = 2) ∧ run.ao.railsOn = true ∧ unpowered0.mayPower = true :=
  ⟨⟨accepts_of (by decide), by decide, by decide, by decide⟩, ⟨accepts_of (by decide), by decide⟩, by decide, by decide⟩

/-- A logic self-test of cells (KIND 1, class 1) that expects signature 5, with an interval of some hours. -/
def testRow (hours : BitVec 16) : TestRec := ⟨0x10000, 5, 0, 0, 0, hours, 0xFF, 1, 1⟩

/-- A state whose test table holds it. -/
def testing (s : State) (hours : BitVec 16) : State := let s := allRun s; { s with tst := { s.tst with table := [testRow hours] } }

/-- That test on cell 67 of die 15, as commanded. -/
def testJob : TestJob := ⟨0x10000, 15, 67, 0, false, true, false⟩
def underTest (j : TestJob) : State :=
  let s := (testing run 1).modCell (cellKey 15 67) (fun c => { c with power := 2 })
  { s with tst := { s.tst with running := [j], busy := true, testId := 0x10000, unit := 15, cell := 67 } }

/-- That test is deferred. -/
def deferring : State := let s := testing run 1; { s with tst := { s.tst with deferred := [testJob] } }

/-- TST_CMD for a test, a unit and a cell. -/
def testWord (id unit cell : Nat) : Word := BitVec.ofNat 64 (id * 2 ^ 32 + unit * 2 ^ 8 + cell)

theorem testWord_fields : (testWord 0x10000 15 67).extractLsb' 32 32 = 0x10000#32 ∧ (testWord 0x10000 15 67).extractLsb' 8 8 = 15#8 ∧ (testWord 0x10000 15 67).extractLsb' 0 7 = 67#7 := by decide

theorem meets_SelfTests :
    ((testing run 1).accepts .mc 0x50000 ∧ (testing run 1).tst.busy = false ∧ (testing run 1).testRefused 0x10000 15 67 = false ∧ (testing run 1).testWaits 1 15 67 = false ∧ (testing run 1).classOf 0x10000 = 1) ∧
    ((testing (busy plain) 1).accepts .mc 0x50000 ∧ (testing (busy plain) 1).tst.busy = false ∧ (testing (busy plain) 1).testRefused 0x10000 0 0 = false ∧
      (testing (busy plain) 1).classOf 0x10000 = 1 ∧ (testing (busy plain) 1).testWaits 1 0 0 = true ∧ (testing (busy plain) 1).tst.deferred.length < 256) ∧
    ((underTest testJob).accepts .mc 0x50000 ∧ (underTest testJob).tst.busy = true ∧ (underTest testJob).testWaits 1 15 66 = true ∧ ∀ p ∈ [PowerState.a2, .a3], ∃ s : State, s.pwr.state = p ∧ s.testWaits 1 15 67 = true) ∧
    ((testing run 1).testRefused 0x10001 15 67 = true ∧ (testing run 1).testRefused 0x10000 16 67 = true ∧ (testing run 1).testRefused 0x10000 15 68 = true) ∧
    ((testing run 1).running = true ∧ (testing run 1).testOf 0x10000 = some (testRow 1) ∧ unitCell 1 67 = 67 ∧ (testRow 1).intervalH ≠ 0 ∧ (testing (busy plain) 1).running = true ∧ (testing (busy plain) 1).testOf 0x10000 = some (testRow 1) ∧
      (testing run 0).running = true ∧ (testing run 0).testOf 0x10000 = some (testRow 0) ∧ (testRow 0).intervalH = 0 ∧
      (testing run 1).testHeld 0x10000 15 67 = false ∧ (testing (busy plain) 1).testHeld 0x10000 0 0 = false ∧ (underTest testJob).testHeld 0x10000 15 67 = true) ∧
    (∃ s : State, unitCell (s.classOf testJob.id) testJob.cell = testJob.cell ∧ s.tst.deferred.find? (fun x => x.id == testJob.id && x.unit == testJob.unit && x.cell == testJob.cell) = some testJob) ∧
    ((∀ j ∈ [testJob, { testJob with cmd := false }, { testJob with out := true }], (underTest j).canonical = true ∧ (underTest j).tst.deferred = [] ∧
        (underTest j).tst.running.find? (fun x => x.id == j.id && x.unit == j.unit && x.cell == j.cell) = some j ∧ (underTest j).testOf j.id = some (testRow 1) ∧ (underTest j).tst.testId = j.id ∧
        (underTest j).tst.unit = j.unit ∧ (underTest j).tst.cell = j.cell ∧
        ((underTest j).cell (cellKey j.unit.toNat j.cell.toNat)).power ≠ 0) ∧
      testPasses (testRow 1) 5 = true ∧ testPasses (testRow 1) 4 = false ∧ (testRow 1).cls = 1 ∧ testJob.unit.toNat < 16 ∧ testJob.cell.toNat < 68 ∧ (underTest testJob).quiet srcTest) :=
  ⟨⟨accepts_of (by decide), by decide, by decide, by decide, by decide⟩, ⟨accepts_of (by decide), by decide, by decide, by decide, by decide, by decide⟩,
    ⟨accepts_of (by decide), by decide, by decide, fun p h => ⟨{ testing run 1 with pwr := { run.pwr with state := p } }, rfl, by
      simp only [List.mem_cons, List.not_mem_nil, or_false] at h
      rcases h with rfl | rfl <;> decide⟩⟩,
    by decide, by decide, ⟨deferring, by decide⟩, ⟨by decide, by decide, by decide, by decide, by decide, by decide, quiet_of rfl _⟩⟩

/-! ## Power -/

/-- A running module in a power state, with a transition in progress or none. -/
def powered (p : PowerState) (t : Option Transition) (s : State) : State := { s with pwr := { s.pwr with state := p, trans := t } }

/-- The same, watching source 0x123. -/
def watching (p : PowerState) : State := let s := powered p none run; { s with evt := { s.evt with wakeEn := 0x8000, wakeSrc := [(15, 0x123)] } }

/-- It watches source 0x123, sideband input 5 and comparator 1. -/
def watchingAll (p : PowerState) : State := let s := powered p none run; { s with evt := { s.evt with wakeEn := 0xE000, wakeSrc := [(13, 0x45), (14, 0x51), (15, 0x123)] } }
/-- The same, in an entry, with a wake that waits or none. -/
def entering (x : Transition) (w : Option (BitVec 9)) : State := let s := watching x.old; { s with pwr := { s.pwr with trans := some x, laterWake := w } }

theorem meets_PowerStates :
    (∀ p ∈ [PowerState.a0, .a1], (powered p none run).accepts .mc 0x30000 ∧ (powered p none run).pwr.trans = none ∧ (powered p none run).sleepReason 2 = 0 ∧ (powered p none run).sleepReason 3 = 0 ∧
      (powered p none (busy plain)).accepts .mc 0x30000 ∧ (powered p none (busy plain)).sleepReason 2 = 1 ∧ (powered p none (busy plain)).sleepReason 3 = 1 ∧ (powered p none (idle plain)).sleepReason 3 = 5 ∧
      (powered p none (idle plain)).sleepReason 2 = 0 ∧ (powered p none (busy plain)).quiet srcPower) ∧
    ((powered .a2 none run).accepts .mc 0x30000 ∧ (powered .a2 none run).sleepReason 3 = 0 ∧ (powered .a2 none (idle plain)).accepts .mc 0x30000 ∧ (powered .a2 none (idle plain)).sleepReason 3 = 5) ∧
    ((powered .a0 (some ⟨.a0, .a2, 0x1FF⟩) run).accepts .mc 0x30000 ∧ (powered .a0 (some ⟨.a0, .a2, 0x1FF⟩) run).pwr.trans ≠ none) ∧
    (run.running = true ∧ run.pwr.trans = none ∧ run.pwr.state = .a0 ∧ run.sch.exec = none ∧ run.tst.running = [] ∧ run.generatorRuns = false ∧ (busy plain).running = true ∧ (busy plain).pwr.trans = none ∧
      (busy plain).sch.exec ≠ none ∧ (underTest testJob).tst.running ≠ [] ∧ (powered .a1 none due).running = true ∧ (powered .a1 none due).pwr.state = .a1 ∧ (powered .a1 none due).dueSlot ≠ none) ∧
    (∀ p ∈ [PowerState.a2, .a3], (watching p).ao.railsOn = true ∧ (watching p).pwr.trans = none ∧ (watching p).pwr.state = p ∧ (watching p).evt.watches (0x123 : BitVec 9).toNat = true) ∧
    run.evt.watches (0x123 : BitVec 9).toNat = false ∧
    -- the other sources that may wake: a sideband input, a comparator
    (∀ p ∈ [PowerState.a2, .a3], (watchingAll p).pwr.state = p ∧ (watchingAll p).ao.railsOn = true ∧ (watchingAll p).pwr.trans = none ∧ (watchingAll p).evt.watches 0x45 = true ∧ (watchingAll p).evt.watches 0x51 = true ∧
      (5 : Fin 16).val < 6 ∧ (watchingAll p).evt.sbEnable.getLsbD 5 = true ∧ (watchingAll p).evt.sbLevel.getLsbD 5 = false ∧ (watchingAll p).evt.sbMasked.getLsbD 5 = false) ∧
    -- a wake during an entry, and its end
    (∀ x ∈ [(⟨.a0, .a2, 0x1FF⟩ : Transition), ⟨.a1, .a3, 0x1FF⟩, ⟨.a2, .a3, 0x1FF⟩], (entering x none).ao.railsOn = true ∧ (entering x none).pwr.trans = some x ∧ (x.new = .a2 ∨ x.new = .a3) ∧
      (entering x none).evt.watches (0x123 : BitVec 9).toNat = true ∧ x.old ≠ x.new ∧ (entering x (some 0x123)).pwr.laterWake = some 0x123 ∧ (entering x (some 0x123)).evt.watches srcPower = false) ∧
    (∀ x ∈ [(⟨.a0, .a2, 0x1FF⟩ : Transition), ⟨.a1, .a3, 0x1FF⟩, ⟨.a2, .a3, 0x1FF⟩, ⟨.a0, .a1, 0x1FC⟩, ⟨.a1, .a0, 0x1FD⟩, ⟨.a2, .a0, 0x123⟩, ⟨.a3, .a0, 0x1FE⟩],
      (powered x.old (some x) (busy plain)).canonical = true ∧ (powered x.old (some x) (busy plain)).pwr.trans = some x ∧ (powered x.old (some x) (busy plain)).pwr.laterWake = none ∧ (powered x.old (some x) (busy plain)).pwr.laterReq = none ∧
      (powered x.old (some x) (busy plain)).evt.watches srcPower = false ∧ (powered x.old (some x) (busy plain)).tst.deferred = [] ∧ x.old ≠ x.new ∧
      (powered x.old (some x) (busy plain)).running = true) := by
  refine ⟨fun p h => ?_, ⟨accepts_of (by decide), by decide, accepts_of (by decide), by decide⟩, ⟨accepts_of (by decide), by decide⟩, by decide, by decide, by decide, by decide, by decide, by decide⟩
  simp only [List.mem_cons, List.not_mem_nil, or_false] at h
  rcases h with rfl | rfl <;> exact ⟨accepts_of (by decide), by decide, by decide, by decide, accepts_of (by decide), by decide, by decide, by decide, by decide, quiet_of rfl _⟩

/-- The cell of the executing context is gated off; the budget is halved or not. -/
def toStart (halved : Bool) : State := let s := (busy plain).modCell 0 (fun c => { c with power := 0 }); { s with pwr := { s.pwr with halved := halved } }

theorem meets_CellStartsAndStretch :
    ((toStart false).startsNow = true ∧ (toStart false).nextStart = some (cellKey 0 0) ∧ (toStart true).startsNow = true ∧ (toStart true).nextStart = some (cellKey 0 0) ∧ (toStart false).nextStart ≠ some (cellKey 15 67) ∧
      (toStart false).quiet srcPower) ∧
    ((toStart true).pwr.halved = true ∧ (toStart false).pwr.halved = false) ∧
    ((allRun run).tickRuns = true ∧ (allRun run).dieState 0 = 0 ∧ (allRun run).dieState 15 = 0 ∧ (allRun run).pwr.stretching = false ∧ ∃ s : State, s.pwr.stretching = true) :=
  ⟨⟨by decide, by decide, by decide, by decide, by decide, quiet_of rfl _⟩, by decide, ⟨by decide, by decide, by decide, by decide, ⟨{ run with pwr := { run.pwr with stretching := true } }, by decide⟩⟩⟩

/-- Sensors 0 and 32, the first of the dies and of the stacks, at given readings in m°C. -/
def heated (die dram : Int) : State := { run with pwr := { run.pwr with sensors := [(0, ⟨true, BitVec.ofInt 32 die⟩), (32, ⟨true, BitVec.ofInt 32 dram⟩)] } }

/-- Sensors 43 and 44 hold a current in mA and a power in mW. -/
def drawing (mW mA : Nat) : State := { run with pwr := { run.pwr with sensors := [(43, ⟨true, BitVec.ofNat 32 mA⟩), (44, ⟨true, BitVec.ofNat 32 mW⟩)] } }

theorem meets_SensorsAndThrottle :
    (∀ n ∈ [0, 32, 39, 40, 45, 81], run.canonical = true ∧ n ≠ 46 ∧ n ≠ 47 ∧ run.sensorPowered n = true ∧ run.pwr.sensorBad.contains n = false) ∧
    ((heated 0 0).canonical = true ∧ (heated 0 0).ao.railsOn = true ∧ ((heated 0 0).sensor 0).valid = true ∧ (heated 0 0).quiet srcPower ∧
      85000 < (85001 : BitVec 32).toInt ∧ (79999 : BitVec 32).toInt < 80000 ∧ 80000 ≤ (80000 : BitVec 32).toInt ∧ (85000 : BitVec 32).toInt ≤ 85000) ∧
    ((heated 105000 0).tickRuns = true ∧ ((heated 105000 0).sensor 0).valid = true ∧ 105000 ≤ ((heated 105000 0).sensor 0).value.toInt ∧ ((heated 0 95000).sensor 32).valid = true ∧ 95000 ≤ ((heated 0 95000).sensor 32).value.toInt ∧
      ((heated 99999 89999).sensor 0).valid = true ∧ ((heated 99999 89999).sensor 32).valid = true ∧ (∀ i < 32, (heated 99999 89999).sensor i = ⟨true, 99999⟩ ∨ ((heated 99999 89999).sensor i).valid = false) ∧
      (∀ i < 8, (heated 99999 89999).sensor (32 + i) = ⟨true, 89999⟩ ∨ ((heated 99999 89999).sensor (32 + i)).valid = false) ∧ ((heated 100000 0).sensor 0).value.toInt = 100000 ∧ (heated 105000 0).sch.thermalQ = 0) ∧
    -- the power: above the cap, above the current's limit, below both lower limits, and one with no valid reading
    (∀ s ∈ [drawing 3600001 0, drawing 0 76001, drawing 3419999 71999], s.ao.railsOn = true ∧ s.pwr.state ≠ .a3 ∧ s.sch.powerQ = 0 ∧ (s.sensor 44).valid = true ∧ (s.sensor 43).valid = true ∧
      min 3600 (max 1200 s.pwr.cap.toNat) * 1000 = 3600000) ∧
    (((drawing 3600001 0).sensor 44).value.toInt = 3600001 ∧ ((drawing 0 76001).sensor 43).value.toInt = 76001 ∧ 3600000 < 3600001 ∧ 76000 < 76001 ∧ 100 * 3419999 < 95 * 3600000 ∧ 71999 < 72000 ∧
      (run.sensor 44).valid = false ∧ run.ao.railsOn = true ∧ run.pwr.state ≠ .a3) ∧
    (∀ b : Bool, ∃ s : State, s.pwr.flowSince = some 0 ∧ s.pwr.flowPosted = b ∧ (s.sensor 46).valid = true ∧ s.sensorPowered 46 = true) ∧ (∃ s : State, s.pwr.flowSince = some 0 ∧ (s.sensor 46).valid = false) :=
  ⟨by decide, ⟨by decide, by decide, by decide, quiet_of rfl _, by decide, by decide, by decide, by decide⟩, by decide, by decide, by decide,
    fun b => ⟨{ run with pwr := { run.pwr with flowSince := some 0, flowPosted := b, sensors := [(46, ⟨true, 1⟩)] } }, rfl, rfl, rfl, rfl⟩, ⟨{ run with pwr := { run.pwr with flowSince := some 0 } }, rfl, rfl⟩⟩

/-- The main rails are off, after a trip or not, the input seen low since or not. -/
def unpowered (trip fell : Bool) : State := { State.reset with ao := { State.reset.ao with railsOn := false, tripLatched := trip, inputFell := fell } }

/-- The main rails are off, and sensor 42 reads a voltage in mV. -/
def reading42 (mV : Nat) : State := { unpowered false false with pwr := { State.reset.pwr with sensors := [(42, ⟨true, BitVec.ofNat 32 mV⟩)] } }

/-- Every comparator is enabled, port 35 is watched, and comparator 7 compares with AO time 9. -/
def comparing : State := { run with pwr := { run.pwr with cmpEn := 0xFF, sigdet := BitVec.twoPow 36 35, aoCmp := 9 } }

theorem meets_AlwaysOnDomain :
    (comparing.ao.aoPower = true ∧ comparing.ao.railsOn = true ∧ (∀ m < 8, comparing.ao.cmpActive.getLsbD m = false ∧ comparing.pwr.cmpEn.getLsbD m = true) ∧ comparing.signalWatched = true ∧ (comparing.mayOccur 0 45999 = true ∧ comparing.mayOccur 0 59001 = true ∧ comparing.mayOccur 1 3099 = true ∧ comparing.mayOccur 2 40001 = true ∧
      comparing.mayOccur 3 70001 = true ∧ comparing.mayOccur 4 0 = true ∧ comparing.mayOccur 5 0 = true ∧ comparing.mayOccur 6 0 = true) ∧ comparing.asleep = false ∧
      comparing.pwr.aoCmp ≠ 0 ∧ comparing.quiet 0x51 ∧ comparing.quiet 0x56 ∧ comparing.quiet 0x57) ∧
    (∃ s : State, s.ao.aoPower = true ∧ s.ao.cmpActive.getLsbD 7 = true) ∧ run.ao.railsOn = true ∧
    (run.ao.aoPower = true ∧ (∀ m < 2, run.mayClear m 46499 = decide (m = 1)) ∧ run.mayClear 0 46500 = true ∧ run.mayClear 0 58500 = true ∧ run.mayClear 0 58501 = false ∧ run.mayClear 1 3150 = true ∧ run.mayClear 1 3149 = false ∧
      run.mayClear 2 38000 = true ∧ run.mayClear 2 38001 = false ∧ run.mayClear 3 68000 = true ∧ run.mayClear 3 68001 = false) ∧
    ((unpowered false false).ao.railsOn = false ∧ (unpowered false false).ao.aoPower = true ∧ (unpowered false false).ao.cmpActive.getLsbD 0 = false ∧ (unpowered false false).ao.tripLatched = false ∧
      (unpowered true true).ao.inputFell = true ∧ (unpowered true true).ao.railsOn = false ∧ (unpowered true false).ao.tripLatched = true ∧ (unpowered true false).ao.inputFell = false) ∧
    (∀ mV ∈ [47000, 58500], ∃ s : State, s.ao.railsOn = false ∧ s.ao.aoPower = true ∧ s.ao.cmpActive.getLsbD 0 = false ∧ s.sensor 42 = ⟨true, BitVec.ofNat 32 mV⟩) ∧
    (∀ mV ∈ [46999, 58501], ∃ s : State, s.ao.railsOn = false ∧ s.ao.aoPower = true ∧ s.sensor 42 = ⟨true, BitVec.ofNat 32 mV⟩) ∧
    (run.ao.aoPower = true ∧ ∃ s : State, s.ao.aoPower = false) :=
  ⟨⟨by decide, by decide, by decide, by decide, by decide, by decide, by decide, quiet_of rfl _, quiet_of rfl _, quiet_of rfl _⟩, ⟨{ run with ao := { run.ao with cmpActive := 0x80 } }, by decide⟩, by decide, by decide, by decide,
    fun mV _ => ⟨reading42 mV, rfl, rfl, show State.reset.ao.cmpActive.getLsbD 0 = false by decide, rfl⟩, fun mV _ => ⟨reading42 mV, rfl, rfl, rfl⟩, ⟨by decide, { run with ao := { run.ao with aoPower := false } }, rfl⟩⟩

theorem meets_OccurrencesLatch :
    (run.isMasked srcSec = false ∧ sget none run.evt.pend srcSec = none ∧ isLogged 0x5010 = true ∧ isLogged 0x0010 = false) ∧
    ((ringed run false 0 0).isMasked srcSec = false ∧ sget none (ringed run false 0 0).evt.pend srcSec = some evRec) ∧ (∃ s : State, s.isMasked 511 = true) ∧ run.ao.railsOn = true := by
  have h : run.isMasked srcSec = false := by
    unfold State.isMasked
    simp [run, State.reset, Evt.reset]
  exact ⟨⟨h, by decide, by decide, by decide⟩, ⟨h, by decide⟩, ⟨{ run with evt := { run.evt with mask := BitVec.twoPow 512 511 } }, by simp [State.isMasked]⟩, by decide⟩

/-! ## Worked values of the manual -/

/-- 10:R262: the check value of the nine digits. -/
theorem test_crc32c : crc32c [0x31, 0x32, 0x33, 0x34, 0x35, 0x36, 0x37, 0x38, 0x39] = 0xE3069283 := by decide +kernel

/-- 03, after Table 3.1: FP6 E3M2 0x1F is 28, FP8 E4M3 0x01 is 2^-9. -/
theorem test_smallFormats : eqVal (decodeVal 0x02 127 0x1F 0) (.fin false 28 0) = true ∧ eqVal (decodeVal 0x04 127 0x01 0) (.fin false 1 (-9)) = true := by decide

/-- 03:R76, the example's block: 9, -2.625, 0.6875, 1.3125, -0.1875, 0.046875, 5, as multiples of 2^-6. -/
def exampleBlock : List Int := [576, -168, 44, 84, -12, 3, 320]

/-- The scale byte and the codes of tensor W. -/
theorem test_blockNearest : (convertBlock 0x01 false (exampleBlock.map (fun q => some (Val.ofInt q (-6), none)))).1 = 0x80 ∧
    (convertBlock 0x01 false (exampleBlock.map (fun q => some (Val.ofInt q (-6), none)))).2.map (·.1) = [6, 0xB, 1, 1, 8, 0, 4] := by decide +kernel

/-- The codes of tensor G under the example's random words. -/
theorem test_blockStochastic :
    (convertBlock 0x01 false ((exampleBlock.zip [0x3A000000, 0x71000000, 0xAFFFFFFF, 0x4FFFFFFF, 0x22222222, 0x0C000000, 0x90000000]).map (fun x => some (Val.ofInt x.1 (-6), some x.2)))).2.map (·.1) =
      [7, 0xB, 1, 2, 8, 0, 4] := by decide +kernel

/-- 02, the first example: four BF16 products in ANC32 give 17,301,528 under anchor 6, and the results of both roundings. -/
def exampleTerms : List Val := [.fin false 3 0, .fin true 15 (-5), .fin true 3 (-1), .fin false 387 (-28)]

theorem test_anchoredSum : anchor2 0x10 128 128 4 = 6 ∧ sumTerms exampleTerms 6 30 = ⟨.fin, 17301528⟩ ∧ (convertVal 0x11 0 none true ((⟨.fin, 17301528⟩ : Acc).val 6 30)).1 = 0x3F84000C ∧
    (convertVal 0x10 0 none true ((⟨.fin, 17301528⟩ : Acc).val 6 30)).1 = 0x3F84 := by decide +kernel

/-- 02, the example across modules: the partials as they travel. -/
theorem test_partials : (sumTerms (exampleTerms.take 2) 6 30).pattern 0x20 = 0x02880000 ∧ (sumTerms (exampleTerms.drop 2) 6 30).pattern 0x20 = 0xFE800018 ∧
    combineAnc 0x20 (patternAcc 0x20 0x80000001) (patternAcc 0x20 0xFE800018) = (⟨.ninf, 0⟩, false) := by decide +kernel

/-- 06:R156, the example: bank, bank word and byte of four rows. -/
theorem test_swizzle : [0x40150, 0x40950, 0x41150, 0x41950].map (fun a => let x := Layout.swizzled { line 1 0x11 32 5 with swzShift := 11, swzBits := 5 } a; (bits x 10 6, bits x 21 11, bits x 5 0)) = [(5, 128, 16), (4, 129, 16), (7, 130, 16), (6, 131, 16)] := by decide

/-- 09, the example of R236: pseudo-channel and burst row. -/
theorem test_pseudoChannel : pseudoOf 0x240052700 = 51 ∧ burstRow 0x240052700 = 0x90014 := by decide

/-- 10, the example of a tag: bytes 4 to 31. -/
theorem test_tag : (leBytes 32 (TagFields.pack ⟨sourceCell 9 37, 1200, 0xA2B, 7, 5, 0x123, false, true, false, false, true, true, 4, 2, 3⟩)).drop 4 =
    [0x03, 0x02, 0x04, 0x13, 0x23, 0x01, 0x00, 0x00, 0x05, 0x00, 0x00, 0x00, 0x00, 0x07, 0x00, 0x2B, 0x0A, 0x00, 0x4B, 0x00, 0x00, 0x00, 0x90, 0x25, 0x00, 0x00, 0x00, 0x00] := by decide +kernel

/-- 10, the example of slot weights 8, 4, 2, 2. -/
theorem test_dmaPattern : pattern [8, 4, 2, 2, 0, 0, 0, 0] = [0, 1, 0, 2, 3, 0, 1, 0, 0, 1, 0, 2, 3, 0, 1, 0] := by decide

/-- 12, the plane-split example: 80 40 3F BF is 80 3F 40 BF. -/
theorem test_planeSplit : unsplit 2 2 [0x80, 0x40, 0x3F, 0xBF] = [0x80, 0x3F, 0x40, 0xBF] := by decide

/-- 05, the update's arithmetic: 1 - 3 * 2^-12 is 0x3F7FD000. -/
theorem test_subtract : subF32 0x3F800000 0x3A400000 = ⟨0x3F7FD000, false⟩ := by decide +kernel

/-- 16:R426: 3,000 W over 21.5 K at the default heat capacity is 2.003 L/min. -/
theorem test_flow : Flow.milli ⟨3000000, 21500, 4180⟩ = 2002 ∧ Flow.low ⟨3000000, 21500, 4180⟩ = false := by decide

/-- 16:R429: lane 77's N contact for receiving is at (57, 12). -/
theorem test_contacts : linkContact 77 true true = (57, 12) ∧ portLane 19 1 = 77 ∧ pcieContact 0 false false = (1, 37) := by decide

/-! ## Single steps -/

/-- 14:Table 14.5: a CLAIM of the host with a token takes an unowned module; one without a token is refused with RESULT 4. -/
theorem test_claim : (match exec (.ownClaim .host (msg 5 0)) free with | .next t => t.own.owner == some .host && t.own.epoch == 1 && t.own.resultHost == ⟨1, 1⟩ | _ => false) = true ∧
    (match exec (.ownClaim .host (msg 0 0)) free with | .next t => t.own.owner == none && t.own.resultHost == ⟨1, 4⟩ | _ => false) = true := by decide +kernel

/-- 08:R226: CTX_LOAD of the owner puts slot 0 in LOADING. -/
theorem test_ctxLoad : (match exec (.ctxLoad .mc) run with | .next t => (t.slot 0).state == .loading && t.ctx.busy | _ => false) = true := by decide +kernel

/-- 15:R402, Table 15.12: an unknown test is refused with RESULT 3. -/
theorem test_tstCmd : (match exec (.tstCmd .mc (testWord 9 0 0)) run with | .next t => t.tst.result == 3 && !t.tst.busy | _ => false) = true := by decide +kernel

/-- 16:R425: a thermal trip drives THERMTRIP_N and takes the main rails off. -/
theorem test_thermtrip : (match exec (.thermtrip 0) run with | .next t => t.out == [.mainGood false, .thermtrip] && !t.ao.railsOn && t.own.owner == none | _ => false) = true := by decide +kernel

/-- 14:R360: a write of a master that is not the owner is dropped and counted. -/
theorem test_dropped : (match exec (.registerWrite .host 0x60000 true ⟨7, none⟩) run with | .next t => t.own.droppedHost == 1 && t.ctx == run.ctx | _ => false) = true := by decide +kernel

/-- 12:R310: a frame with a compressed block (literals `abc`, one sequence) that an encoder of RFC 8878 made of ten times `abc`; with another checksum it is no frame. -/
theorem test_zstd : zstdDecode [40, 181, 47, 253, 36, 30, 77, 0, 0, 24, 97, 98, 99, 1, 0, 134, 110, 8, 87, 67, 221, 199] =
      some (List.replicate 10 [0x61, 0x62, 0x63]).flatten ∧
    zstdDecode [40, 181, 47, 253, 36, 30, 77, 0, 0, 24, 97, 98, 99, 1, 0, 134, 110, 8, 87, 67, 221, 198] = none := by decide +kernel

/-- The queue: a step takes the front, and an idle step changes no block but the AO time. -/
theorem test_queue : step { run with pending := [.reqA0 .host, .scan .mc] } = exec (.reqA0 .host) { run with pending := [.scan .mc] } ∧
    step run = .next { run with ao := { run.ao with time := 40 } } := ⟨rfl, rfl⟩

end Sys2Proof.Tests
end

section
/-! SUPPORT. The step number across a step boundary (01:R28): where a slot stands, and that the work of the boundary, item by item of 07:R183, leaves it there but for the increment, the pause and the fault. -/

namespace Sys2Proof.Machine

open Sys2Proof

set_option Elab.async false

/-- Slot n of a canonical slot table stands at step x in state st, and e is the executing slot: what the items of a boundary hand on to each other about the step number. -/
structure State.StandsAt (s : State) (n : Nat) (x : BitVec 40) (st : SlotState) (e : Option (Fin 8)) : Prop where
  wf : swf .reset s.ctx.slots = true
  step : (s.slot n).step = x
  state : (s.slot n).state = st
  exec : s.sch.exec = e

namespace State.StandsAt

variable {s t : State} {n m : Nat} {x : BitVec 40} {st : SlotState} {e : Option (Fin 8)}

/-- An update of other blocks leaves the slot where it stands: for a plain record update both equations hold by computation. -/
theorem frame (h : s.StandsAt n x st e) (hc : t.ctx.slots = s.ctx.slots := by rfl) (he : t.sch.exec = s.sch.exec := by rfl) : t.StandsAt n x st e := by
  have hs : t.slot n = s.slot n := congrArg (fun slots => sget Slot.reset slots n) hc
  exact ⟨hc ▸ h.wf, hs ▸ h.step, hs ▸ h.state, he ▸ h.exec⟩

theorem ite {c : Prop} [Decidable c] (hs : s.StandsAt n x st e) (ht : t.StandsAt n x st e) : (if c then s else t).StandsAt n x st e := by
  split
  · exact hs
  · exact ht

theorem ite_pos {c : Prop} [Decidable c] (hc : c) (hs : s.StandsAt n x st e) : (if c then s else t).StandsAt n x st e := by
  rwa [if_pos hc]

theorem foldl {α : Type} {f : State → α → State} {l : List α} (h : s.StandsAt n x st e) (hf : ∀ t a, t.StandsAt n x st e → (f t a).StandsAt n x st e) :
    (l.foldl f s).StandsAt n x st e := foldl_keeps hf l s h

/-- An update of any slot, this one too, that leaves its step number and its state alone. -/
theorem modSlot {f : Slot → Slot} (h : s.StandsAt n x st e) (hx : ∀ sl, (f sl).step = sl.step := by exact fun _ => rfl)
    (hst : ∀ sl, (f sl).state = sl.state := by exact fun _ => rfl) : (s.modSlot m f).StandsAt n x st e := by
  refine ⟨swf_sset _ h.wf _ _, ?_, ?_, h.exec⟩ <;> by_cases hm : n = m
  · rw [← hm, s.modSlot_slot n f h.wf, hx, h.step]
  · rw [s.modSlot_slot_ne f hm, h.step]
  · rw [← hm, s.modSlot_slot n f h.wf, hst, h.state]
  · rw [s.modSlot_slot_ne f hm, h.state]

/-- A new state of the slot itself. -/
theorem setState {st' : SlotState} {f : Slot → Slot} (h : s.StandsAt n x st e) (hx : ∀ sl, (f sl).step = sl.step := by exact fun _ => rfl)
    (hst : ∀ sl, (f sl).state = st' := by exact fun _ => rfl) : (s.modSlot n f).StandsAt n x st' e :=
  ⟨swf_sset _ h.wf _ _, by rw [s.modSlot_slot n f h.wf, hx, h.step], by rw [s.modSlot_slot n f h.wf, hst], h.exec⟩

/-- A new step number of the slot itself. -/
theorem setStep {y : BitVec 40} (h : s.StandsAt n x st e) : (s.modSlot n (fun sl => { sl with step := y })).StandsAt n y st e :=
  ⟨swf_sset _ h.wf _ _, by rw [s.modSlot_slot n _ h.wf], by rw [s.modSlot_slot n _ h.wf]; exact h.state, h.exec⟩

/-! ## Events, the checks and the memory base dies -/

theorem post {code source : Nat} {slot : Option Nat} {p : BitVec 128} (h : s.StandsAt n x st e) : (s.post code source slot p).StandsAt n x st e :=
  h.frame (congrArg Ctx.slots (s.post_ctx ..)) (congrArg Sch.exec (s.post_sch ..))

theorem faultAtSill (h : s.StandsAt n x st e) : (s.faultAtSill m).StandsAt n x st e := h.modSlot

theorem failedHop {hop source tensor block src ctx gen : Nat} (h : s.StandsAt n x st e) : (s.failedHop hop source tensor block src ctx gen).StandsAt n x st e :=
  ite h.post.faultAtSill h.post

theorem failedHopTag {hop source : Nat} {tag : BitVec 256} (h : s.StandsAt n x st e) : (s.failedHopTag hop source tag).StandsAt n x st e := h.failedHop

theorem writeWord {w : Nat} {d : Bytes} {tag : Option (BitVec 4)} (h : s.StandsAt n x st e) : (s.writeWord w d tag).StandsAt n x st e := h.frame

theorem writeBarge {a : Nat} {p : Bytes} {tag : BitVec 256} (h : s.StandsAt n x st e) : (s.writeBarge a p tag).StandsAt n x st e :=
  h.foldl (fun _ _ ht => ht.writeWord)

theorem retire {a : Nat} (h : s.StandsAt n x st e) : (s.retire a).StandsAt n x st e := ite h (ite h.frame h.post)

theorem correctedError {r : Reader} {w : Nat} {d : Bytes} (h : s.StandsAt n x st e) : (s.correctedError r w d).StandsAt n x st e :=
  ite h.frame.retire h.frame

theorem uncorrectableError {r : Reader} {w : Nat} (h : s.StandsAt n x st e) : (s.uncorrectableError r w).StandsAt n x st e := h.frame.post.retire

theorem readWord {r : Reader} {w : Nat} (h : s.StandsAt n x st e) : (s.readWord r w).1.StandsAt n x st e := by
  simp only [State.readWord]
  split
  · exact h
  · exact h.correctedError
  · exact h.uncorrectableError

theorem readWords {r : Reader} {w k : Nat} (h : s.StandsAt n x st e) : (s.readWords r w k).1.StandsAt n x st e := by
  induction k generalizing s w with
  | zero => exact h
  | succ k ih => exact ih h.readWord

theorem readRange {r : Reader} {a k : Nat} (h : s.StandsAt n x st e) : (s.readRange r a k).1.StandsAt n x st e := by
  simp only [State.readRange]
  split
  · exact h
  · exact h.readWords

/-- Bytes that the module itself writes: the read, the check of hop 3 and the stored barge leave the slot where it stands. -/
theorem tensorWrite {g : Image} {tensor off step : Nat} {d : Bytes} (h : s.StandsAt n x st e) : (s.tensorWrite m g tensor off d step).StandsAt n x st e := by
  have hread (a : Nat) : (if decide (d.length = 4096) then (s, d, false) else s.readWords (controlReader (some m)) (a / 64) 64).1.StandsAt n x st e := by
    split
    · exact h
    · exact h.readWords
  dsimp only [State.tensorWrite]
  cases s.bargeAddr m g tensor (off / 4096) with
  | none => exact h
  | some a => exact ite (hread a).frame.failedHopTag (ite (hread a).faultAtSill (hread a)).writeBarge

/-! ## Item 1: what is on its way lands, the digest records, the counts -/

theorem landBurst {b : AccBurst} (h : s.StandsAt n x st e) : (s.landBurst b).StandsAt n x st e := by
  refine ite h.frame (ite h.frame.failedHop (ite h.frame (ite h.frame.failedHop ?_)))
  split
  · exact h
  split
  · exact h
  refine h.foldl (fun t a ht => ?_)
  split
  · exact ht
  · exact ht.frame

theorem countRegion {tensor k : Nat} (h : s.StandsAt n x st e) : (s.countRegion m tensor k).StandsAt n x st e := h.modSlot

theorem readWork {a : Nat} (h : s.StandsAt n x st e) : (s.readWork a).1.StandsAt n x st e := h.readRange

theorem writeWork {a : Nat} {v : Acc} (h : s.StandsAt n x st e) : (s.writeWork a v).StandsAt n x st e := h.writeWord

theorem retireOne {k : Nat} {c : Contribution} (h : s.StandsAt n x st e) : (s.retireOne k c).StandsAt n x st e := by
  have h' : (s.modStack k (fun t => { t with addRetired := t.addRetired + 1 })).StandsAt n x st e := h.frame
  dsimp only [State.retireOne]
  generalize s.modStack k (fun t => { t with addRetired := t.addRetired + 1 }) = s' at h' ⊢
  split
  · exact h'
  rename_i r _
  have hadd : (match (s'.slot c.slot.val).image.bind (fun g => s'.workPlace c.slot.val g c.tensor c.cell) with
      | none => s'
      | some a => (s'.readWork a).1.writeWork a ((s'.readWork a).2.combine (convertContribution r c.format c.bits c.anchor).1)).StandsAt n x st e := by
    split
    · exact h'
    · exact h'.readWork.writeWork
  exact ite h'.countRegion (ite (ite hadd.countRegion hadd).post (ite hadd.countRegion hadd))

theorem retireAll {k q : Nat} (h : s.StandsAt n x st e) : (s.retireAll k q).StandsAt n x st e := by
  induction q generalizing s with
  | zero => exact h
  | succ q ih =>
    unfold State.retireAll
    split
    · exact h
    · exact ih h.frame.retireOne

theorem landStep (h : s.StandsAt n x st e) : (s.landStep m).StandsAt n x st e :=
  (h.frame.foldl (fun _ _ ht => ht.landBurst)).foldl (fun _ _ ht => ht.retireAll)

theorem writeDigest {g : Image} {d : DigestRec} {a : DigestAcc} {faulted : Bool} (h : s.StandsAt n x st e) : (s.writeDigest m g d a faulted).StandsAt n x st e := by
  unfold State.writeDigest
  split
  · exact h
  · exact h.tensorWrite.modSlot

theorem writeDigests (h : s.StandsAt n x st e) : (s.writeDigests m).StandsAt n x st e := by
  unfold State.writeDigests
  split
  · exact h
  · exact h.foldl (fun _ _ ht => ht.writeDigest)

theorem writeCounts {g : Image} (h : s.StandsAt n x st e) : (s.writeCounts m g).StandsAt n x st e := by
  have hcounts : (s.modSlot m Slot.closeCounts).StandsAt n x st e := h.modSlot
  dsimp only [State.writeCounts]
  split
  · exact hcounts
  split
  · exact hcounts
  · exact hcounts.foldl (fun _ _ ht => ht.tensorWrite)

theorem threshEvent (h : s.StandsAt n x st e) : (s.threshEvent m).StandsAt n x st e := ite h.post h

theorem setNumSlot {k : Nat} {v : NumSlot} (h : s.StandsAt n x st e) : (s.setNumSlot k v).StandsAt n x st e := h.frame

theorem boundaryRecords {g : Image} (h : s.StandsAt n x st e) : (s.boundaryRecords m g).StandsAt n x st e :=
  h.landStep.writeDigests.modSlot.setNumSlot.writeCounts.threshEvent

/-! ## Item 2: the weight root and the weight mode -/

theorem rootSwitch {g : Image} (h : s.StandsAt n x st e) : (s.rootSwitch m g).StandsAt n x st e := ite h (ite h.modSlot h.post)

theorem modeSwitch {g : Image} (h : s.StandsAt n x st e) : (s.modeSwitch m g).StandsAt n x st e :=
  ite h (ite (ite h.modSlot h.modSlot.post) h.modSlot)

theorem zeroSkims {g : Image} {step : Nat} (h : s.StandsAt n x st e) : (s.zeroSkims m g step).StandsAt n x st e := by
  refine h.foldl (fun t r ht => ?_)
  split
  · exact ht
  refine ht.foldl (fun u b hu => ?_)
  split
  · exact hu
  · exact hu.writeBarge

theorem weightSwitch {g : Image} {step : Nat} (h : s.StandsAt n x st e) : (s.weightSwitch m g step).StandsAt n x st e :=
  ite h.rootSwitch.modeSwitch.zeroSkims.modSlot h.rootSwitch.modeSwitch

/-! ## Item 4: the tests of the boundary -/

theorem setLnk {v : Lnk} (h : s.StandsAt n x st e) : ({ s with lnk := v } : State).StandsAt n x st e := h.frame

theorem sendPort {q node sends : Nat} {p : Packet} (h : s.StandsAt n x st e) : (s.sendPort q node p sends).StandsAt n x st e := ite h.frame h.frame

theorem sendAgain {node sends : Nat} {p : Packet} (h : s.StandsAt n x st e) : (s.sendAgain node p sends).StandsAt n x st e := by
  refine ite h ?_
  split
  · exact h.frame
  · exact h.sendPort

theorem flood (h : s.StandsAt n x st e) : s.flood.StandsAt n x st e := ite h (h.frame.foldl (fun _ _ ht => ht.frame))

theorem rebuild (h : s.StandsAt n x st e) : s.rebuild.StandsAt n x st e := (h.frame.foldl (fun _ _ ht => ht.sendAgain)).flood

theorem resetPorts {die : Nat} {p : PortState} (h : s.StandsAt n x st e) : (s.resetPorts die p).StandsAt n x st e :=
  (h.foldl (fun _ _ ht => ht.setLnk)).setLnk.rebuild

theorem setDieState {d v : Nat} (h : s.StandsAt n x st e) : (s.setDieState d v).StandsAt n x st e := h.frame

theorem isolate {cls unit cell : Nat} (h : s.StandsAt n x st e) : (s.isolate cls unit cell).StandsAt n x st e := by
  unfold State.isolate
  split
  · exact h.frame
  · exact ite h.frame.setDieState h
  · exact ite h.resetPorts.setDieState h
  · exact h.frame
  · exact h.frame
  · exact h

theorem setTst {v : Tst} (h : s.StandsAt n x st e) : ({ s with tst := v } : State).StandsAt n x st e := h.frame

theorem startTest {j : TestJob} (h : s.StandsAt n x st e) : (s.startTest j).StandsAt n x st e := h.isolate.setTst

theorem startDeferred (h : s.StandsAt n x st e) : s.startDeferred.StandsAt n x st e := h.foldl (fun _ _ ht => ite ht ht.frame.startTest)

theorem modCell {k : Nat} {f : Cell → Cell} (h : s.StandsAt n x st e) : (s.modCell k f).StandsAt n x st e := h.frame

theorem noSpareEvents (h : s.StandsAt n x st e) : s.noSpareEvents.StandsAt n x st e := h.foldl (fun _ _ ht => ite (post ht.frame) ht)

theorem takeOver {die cell spare : Nat} (h : s.StandsAt n x st e) : (s.takeOver die cell spare).StandsAt n x st e :=
  (h.foldl (fun _ _ ht => ht.modSlot)).modCell.noSpareEvents

theorem returnMoved (h : s.StandsAt n x st e) : s.returnMoved.StandsAt n x st e := (h.foldl (fun _ _ ht => ht.modCell)).setTst

theorem moveForTest {j : TestJob} (h : s.StandsAt n x st e) : (s.moveForTest j).StandsAt n x st e := by
  refine ite h ?_
  split
  · exact h
  · exact h.takeOver.setTst.modCell.startTest

theorem runOverdue {j : TestJob} (h : s.StandsAt n x st e) : (s.runOverdue j).StandsAt n x st e := ite (startTest h.frame) h

/-- The overdue tests run where none of them is too long. -/
theorem runDue {long : Prop} [Decidable long] {due : List TestJob} (h : s.StandsAt n x st e) :
    (if long then s else due.foldl (fun s j => s.runOverdue j) s).StandsAt n x st e := ite h (h.foldl (fun _ _ ht => ht.runOverdue))

theorem setBoundaryMs {v : Nat} (h : s.StandsAt n x st e) : ({ s with sch := { s.sch with boundaryMs := v } } : State).StandsAt n x st e := h.frame

theorem boundaryTests (h : s.StandsAt n x st e) : s.boundaryTests.1.StandsAt n x st e :=
  ite (h.returnMoved.foldl (fun _ _ ht => ht.moveForTest)).setBoundaryMs.runDue.setTst.post
    (h.returnMoved.foldl (fun _ _ ht => ht.moveForTest)).setBoundaryMs.runDue

/-! ## Item 5: the pause -/

/-- No context executes any more. -/
theorem setIdle {v : Sch} (h : s.StandsAt n x st e) (hv : v.exec = none := by rfl) : ({ s with sch := v } : State).StandsAt n x st none :=
  ⟨h.wf, h.step, h.state, hv⟩

theorem pause (h : s.StandsAt n x st e) : (s.pause n).StandsAt n x .idle none := h.setState.post.setIdle

theorem targetEvent (h : s.StandsAt n x st e) : (s.targetEvent m).StandsAt n x st e := h.post

/-- Whether the context goes on or pauses, its step number stays. -/
theorem switchOver_step {forTests : Bool} (h : s.StandsAt n x st e) : ((s.switchOver n forTests).slot n).step = x := by
  have htarget {t : State} (ht : t.StandsAt n x .idle none) : (match t.runTarget with
      | some m => if m ≠ n ∧ (t.slot m).state ≠ SlotState.idle then t.targetEvent m else t
      | none => t).StandsAt n x .idle none := by
    split
    · exact ite ht.targetEvent ht
    · exact ht
  dsimp only [State.switchOver]
  split
  · exact h.step
  · exact (htarget (ite h.pause.frame h.pause)).startDeferred.step

/-! ## A context fault (08:R230) -/

theorem postOpEvents {due : Nat → Bool} (h : s.StandsAt n x st e) : (s.postOpEvents m due).StandsAt n x st e :=
  h.modSlot.foldl (fun _ _ ht => ht.post)

theorem writeFired (h : s.StandsAt n x st e) : (s.writeFired m).StandsAt n x st e := by
  unfold State.writeFired
  split
  · exact h
  · exact h.foldl (fun _ _ ht => ite ht.writeDigest ht)

theorem endHold (h : s.StandsAt n x st e) : s.endHold.StandsAt n x st e := by
  unfold State.endHold
  split
  · exact h
  · exact h.frame

/-- The executing context stops: no context executes, and its slot stands as before. -/
theorem stopExec (h : s.StandsAt n x st e) (he : e.map (·.val) = some n) : (s.stopExec n).StandsAt n x st none := by
  refine ite_pos ?_ ((h.foldl (fun _ _ ht => ht.modCell)).foldl (fun _ _ ht => ht.modCell)).endHold.setIdle
  rw [(h.foldl (fun _ _ ht => ht.modCell)).exec, he]

/-- The executing context faults: FAULTED at its step, and no context executes. -/
theorem faultSlot (h : s.StandsAt n x .active e) (he : e.map (·.val) = some n) : (s.faultSlot n).StandsAt n x .faulted none :=
  ite_pos (.inr h.state) (ite_pos h.state ((ite h.postOpEvents.writeFired h).setState.stopExec he))

/-! ## Item 3 and the boundary as a whole -/

/-- The step number goes up by one, and the boundary goes on. -/
theorem boundarySwitch_next {g : Image} (h : s.StandsAt n x st e) (hx : x.toNat ≠ 2 ^ 40 - 1) :
    (s.boundarySwitch n g).1.StandsAt n (x + 1) st e ∧ (s.boundarySwitch n g).2 = true := by
  dsimp only [State.boundarySwitch]
  rw [h.step, if_neg hx]
  exact ⟨h.weightSwitch.setStep, rfl⟩

/-- The last step number has no successor: the context faults, and the boundary ends there. -/
theorem boundarySwitch_last {g : Image} (h : s.StandsAt n x .active e) (he : e.map (·.val) = some n) (hx : x.toNat = 2 ^ 40 - 1) :
    (s.boundarySwitch n g).1.StandsAt n x .faulted none ∧ (s.boundarySwitch n g).2 = false := by
  dsimp only [State.boundarySwitch]
  rw [h.step, if_pos hx]
  exact ⟨(h.weightSwitch.faultSlot he).startDeferred, rfl⟩

/-- The boundary of a step with a successor: records, switches, the increment, tests, and the context goes on or pauses. -/
theorem boundary_next {g : Image} (h : s.StandsAt n x st e) (hx : x.toNat ≠ 2 ^ 40 - 1) : ((s.boundary n g).slot n).step = x + 1 := by
  obtain ⟨hnext, hgoes⟩ := (h.boundaryRecords (m := n) (g := g)).boundarySwitch_next (g := g) hx
  dsimp only [State.boundary]
  rw [if_pos hgoes]
  exact (boundaryTests hnext.frame).switchOver_step

/-- The boundary of the last step: the records are written, and then the context faults. -/
theorem boundary_last {g : Image} (h : s.StandsAt n x .active e) (he : e.map (·.val) = some n) (hx : x.toNat = 2 ^ 40 - 1) :
    (s.boundary n g).StandsAt n x .faulted none := by
  obtain ⟨hlast, hends⟩ := (h.boundaryRecords (m := n) (g := g)).boundarySwitch_last (g := g) he hx
  dsimp only [State.boundary]
  rw [if_neg (by simp [hends])]
  exact hlast

end State.StandsAt

/-- A canonical state's slots stand where they are. -/
theorem State.standsAt_of_canonical {s : State} (h : s.canonical = true) (n : Nat) : s.StandsAt n (s.slot n).step (s.slot n).state s.sch.exec := by
  refine ⟨?_, rfl, rfl, rfl⟩
  simp only [State.canonical, State.tablesWf, Bool.and_eq_true, and_assoc] at h
  exact h.2.1

/-- After the last pound of a step the command does the work of the boundary. -/
theorem exec_stepBoundary {s : State} {w : Now} (hw : s.nowAt = some w) (hb : s.sch.begun = true) (hs : s.sch.state = .boundary)
    (hp : s.sch.pound = w.g.pounds.length) : exec .stepBoundary s = .next (s.boundary w.slot w.g) := by
  change execStepBoundary s = _
  simp only [execStepBoundary, hw]
  rw [if_pos ⟨hb, hs, hp⟩]

/-- Settles O58: every item of the boundary but the increment leaves the step number alone, and at 2^40 − 1 the fault takes the increment's place. -/
theorem stepNumbersAdvance : Obligations.StepNumbersAdvance := by
  unfold Obligations.StepNumbersAdvance
  intro s w hcan hw hb hs hp
  have hstands := State.standsAt_of_canonical hcan w.slot
  refine ⟨fun hx => ⟨_, exec_stepBoundary hw hb hs hp, hstands.boundary_next hx⟩, fun hx hactive he => ?_⟩
  rw [hactive] at hstands
  have hlast := hstands.boundary_last (g := w.g) he hx
  exact ⟨_, exec_stepBoundary hw hb hs hp, hlast.state, hlast.exec, hlast.step⟩

end Sys2Proof.Machine
end

section
/-! SUPPORT. An occurrence of an event (14:R374): posting it is `latch` on the event controller and `logRecord` on the error log (13:R352), and a warm reset leaves nothing pending. -/

namespace Sys2Proof.Machine

open Sys2Proof

variable {s t : State} {source : Nat} {r q : EvRec}

/-! ## The event controller -/

theorem State.latch_new (hm : s.isMasked source = false) (hp : sget none s.evt.pend source = none) :
    s.latch source r = { s with evt := { s.evt with pend := sset none s.evt.pend source (some r) } } := by
  simp only [State.latch, hm, hp, Bool.false_eq_true, if_false]

theorem State.latch_again (hm : s.isMasked source = false) (hp : sget none s.evt.pend source = some q) :
    s.latch source r = { s with evt := { s.evt with
      pend := sset none s.evt.pend source (some { q with coalesced := true })
      coalesced := s.evt.coalesced + 1 } } := by
  simp only [State.latch, hm, hp, Bool.false_eq_true, if_false]

/-- What an occurrence does to the event controller depends on the event controller alone. -/
theorem State.latch_evt_congr (h : t.evt = s.evt) : (t.latch source r).evt = (s.latch source r).evt := by
  have hmask : t.isMasked source = s.isMasked source := by rw [State.isMasked, State.isMasked, h]
  by_cases hm : s.isMasked source = true
  · rw [State.latch_masked t (hmask.trans hm), State.latch_masked s hm, h]
  · rw [Bool.not_eq_true] at hm
    cases hp : sget none s.evt.pend source with
    | none => rw [State.latch_new hm hp, State.latch_new (hmask.trans hm) (h ▸ hp), h]
    | some q => rw [State.latch_again hm hp, State.latch_again (hmask.trans hm) (h ▸ hp), h]

variable (s) (code : Nat) (slot : Option Nat) (sev : Nat) (p : BitVec 128)

/-- The copy into the error log and the wake leave the event controller alone. -/
theorem State.postSev_evt : (s.postSev code source slot sev p).evt = (s.latch source (s.eventRecord code source slot sev p)).evt := by
  simp only [State.postSev, State.wakeOn_evt]
  refine State.latch_evt_congr ?_
  split <;> rfl

/-! ## The error log -/

/-- Of the always-on domain an occurrence changes the error log alone, and that for the logged classes. -/
theorem State.postSev_ao : (s.postSev code source slot sev p).ao =
    if isLogged code then (s.logRecord (s.eventRecord code source slot sev p)).ao else s.ao := by
  simp only [State.postSev, State.wakeOn_ao, State.latch_ao]
  split
  · rfl
  · rfl

/-- The record stands at the index that was next. -/
theorem State.logRecord_log (r : EvRec) : sget none (s.logRecord r).ao.log s.ao.logNext.toNat = some r :=
  sget_sset_new _ _ _ nofun

@[simp] theorem State.logRecord_logCount (r : EvRec) : (s.logRecord r).ao.logCount = s.ao.logCount + 1 := rfl

/-! ## The warm reset -/

@[simp] theorem State.warmed_evt_pend (cause : Nat) : (s.warmed cause).evt.pend = [] := rfl

/-- With the rails on, a warm reset of any cause, one by PCIe too, loses what was latched. -/
theorem State.warmReset_evt_pend (h : s.ao.railsOn = true) (cause die : Nat) : (s.warmReset cause die).evt.pend = [] := by
  by_cases hpcie : cause = 5
  · simp only [State.warmReset, h, Bool.not_true, Bool.false_eq_true, if_false, if_pos hpcie, State.warmed_evt_pend]
  · simp only [State.warmReset, h, Bool.not_true, Bool.false_eq_true, if_false, if_neg hpcie, State.warmed_evt_pend]

/-- With nothing latched every word of EVT_PENDING reads zero (14:R383). -/
theorem Evt.pendingWord_of_pend_nil {e : Evt} (h : e.pend = []) (k : Nat) : e.pendingWord k = 0 := by
  simp only [Evt.pendingWord, h]
  exact foldl_keeps (P := (· = 0)) (fun _ _ hzero => hzero) _ 0 rfl

theorem exec_warmReset (c : BitVec 8) : exec (.warmReset c) s = .next (s.warmReset c.toNat 0) := rfl

end Sys2Proof.Machine
end

section
namespace Sys2Proof.Machine

open Sys2Proof

/-- Settles O59: the event controller changes as `latch` says in each of its three cases, the error log as `logRecord` says, and a warm reset leaves no record pending. -/
theorem occurrencesLatch : Obligations.OccurrencesLatch := by
  unfold Obligations.OccurrencesLatch
  refine ⟨fun s code source slot sev p => ?_, fun s c hrails => ?_⟩
  · simp only [State.postSev_evt, State.postSev_ao]
    refine ⟨fun hm hp => ⟨s.latch_pend_new hm hp, ?_⟩, fun q hm hp => ⟨s.latch_pend_again hm hp, ?_⟩, fun hm => ?_,
      fun k hk => s.latch_pend_ne hk, fun hlog => ?_, fun hlog => ?_⟩
    · rw [State.latch_new hm hp]
      exact ⟨rfl, rfl⟩
    · rw [State.latch_again hm hp]
      exact ⟨rfl, rfl⟩
    · rw [State.latch_masked s hm]
      exact ⟨rfl, rfl, rfl⟩
    · rw [if_pos hlog]
      exact ⟨s.logRecord_log _, s.logRecord_logCount _⟩
    · rw [hlog, if_neg Bool.false_ne_true]
  · have hpend := s.warmReset_evt_pend hrails c.toNat 0
    exact ⟨_, exec_warmReset s c, hpend, Evt.pendingWord_of_pend_nil hpend⟩

end Sys2Proof.Machine
end

section
/-! SUPPORT. LIFECYCLE and LOAD_PACK (15:R394, R398, R399): what each can do, how an accepted security command runs, and the pack chain at a warm and a power-on reset. -/

namespace Sys2Proof.Machine

open Sys2Proof

variable {s : State} {m : Master} {o : Option Bytes} {b : Bytes}

/-! ## Posted events -/

/-- The next occurrence of a quiet source shows its code there. -/
theorem State.shows_post {code source : Nat} {slot : Option Nat} {p : BitVec 128} (h : s.quiet source) : (s.post code source slot p).shows source code := by
  obtain ⟨hmask, hpend⟩ := h
  exact ⟨_, s.post_pend_new hmask hpend, rfl⟩

@[simp] theorem State.answerWrite_shows (code source done : Nat) : (s.answerWrite m done).shows source code ↔ s.shows source code := by
  simp only [State.shows, State.answerWrite_evt]

/-! ## Signed objects and SEC_STATUS (15:R387, R409) -/

/-- A fetched object is the one supplied, and has the length of SEC_OBJ_LEN. -/
theorem State.fetched_eq_some : s.fetched o = some b ↔ o = some b ∧ b.length = s.sec.objLen.toNat := by
  rw [State.fetched, Option.filter_eq_some_iff, beq_iff_eq]

/-- The six items of the verification have the REASONs 2 to 7. -/
theorem State.verify_le (type : Nat) : s.verify type b ≤ 7 := by
  dsimp only [State.verify]
  repeat' split
  all_goals decide

/-- The REASON of an unsound object is not zero in SEC_STATUS. -/
theorem State.verify_reason_ne_zero {type : Nat} (h : s.verify type b ≠ 0) : BitVec.ofNat 8 (s.verify type b) ≠ 0 := by
  have hle := s.verify_le (b := b) type
  rw [Ne, ← BitVec.toNat_inj, BitVec.toNat_ofNat]
  change ¬ s.verify type b % 256 = 0
  omega

@[simp] theorem State.secResult_sec (cmd reason : Nat) :
    (s.secResult cmd reason).sec = { s.sec with lastCmd := BitVec.ofNat 4 cmd, reason := BitVec.ofNat 8 reason } := rfl

@[simp] theorem State.secResult_fuses (cmd reason : Nat) : (s.secResult cmd reason).fuses = s.fuses := rfl

/-! ## LIFECYCLE (15:R393, R394) -/

theorem exec_lifecycle (h : s.accepts m 0x40008) : exec (.lifecycle m o) s = .next ((s.lifecycle o).answerWrite m 0) := by
  obtain ⟨hreach, howner, hanswers⟩ := h
  exact congrArg Host.Outcome.next (s.command_accepted hreach howner hanswers)

/-- The TYPE 4 object that takes a module in FIELD to RETURN: fetched whole, sound, and bound to this module. -/
def State.returnObject (s : State) (o : Option Bytes) : Prop :=
  ∃ b, o = some b ∧ b.length = s.sec.objLen.toNat ∧ s.verify 4 b = 0 ∧ (objHead b).uidBind = s.fuses.uid.toNat

/-- A LIFECYCLE command is refused with a REASON, or in MANUFACTURE it fuses FIELD, or, where neither MANUFACTURE nor RETURN is in force, a valid object makes it fuse RETURN. -/
theorem State.lifecycle_cases :
    (∃ r, BitVec.ofNat 8 r ≠ 0 ∧ s.lifecycle o = s.secResult 6 r) ∨ (s.sec.life = 0 ∧ s.lifecycle o = s.fuseLife false) ∨
    (s.sec.life ≠ 0 ∧ s.sec.life ≠ 2 ∧ s.returnObject o ∧ s.lifecycle o = s.fuseLife true) := by
  dsimp only [State.lifecycle]
  split
  · exact .inl ⟨1, by decide, rfl⟩
  split
  · next hmade => exact .inr (.inl ⟨hmade, rfl⟩)
  next hmade =>
  split
  · exact .inl ⟨9, by decide, rfl⟩
  next hback =>
  split
  · exact .inl ⟨8, by decide, rfl⟩
  next b hfetched =>
  obtain ⟨hsome, hlength⟩ := State.fetched_eq_some.mp hfetched
  split
  · next hbad => exact .inl ⟨_, State.verify_reason_ne_zero hbad, rfl⟩
  next hgood =>
  split
  · exact .inl ⟨5, by decide, rfl⟩
  · next hbound => exact .inr (.inr ⟨hmade, hback, ⟨b, hsome, hlength, Classical.not_not.mp hgood, Classical.not_not.mp hbound⟩, rfl⟩)

/-- Where the lifecycle in force admits no transition the command is refused. -/
theorem State.lifecycle_refused (hmade : s.sec.life ≠ 0) (hno : s.sec.life = 2 ∨ ¬ s.returnObject o) :
    ∃ r, BitVec.ofNat 8 r ≠ 0 ∧ s.lifecycle o = s.secResult 6 r := by
  rcases s.lifecycle_cases (o := o) with hrefused | ⟨hlife, -⟩ | ⟨-, hlife, hobject, -⟩
  · exact hrefused
  · exact absurd hlife hmade
  · exact absurd hno (not_or.mpr ⟨hlife, Classical.not_not.mpr hobject⟩)

/-- Where no transition is admitted, no fuse changes and SEC_STATUS tells the refusal of command 6. -/
theorem exec_lifecycle_refused (h : s.accepts m 0x40008) (hmade : s.sec.life ≠ 0) (hno : s.sec.life = 2 ∨ ¬ s.returnObject o) :
    ∃ t, exec (.lifecycle m o) s = .next t ∧ t.fuses = s.fuses ∧ t.sec.reason ≠ 0 ∧ t.sec.lastCmd = 6 := by
  obtain ⟨r, hr, hrefused⟩ := State.lifecycle_refused hmade hno
  refine ⟨_, exec_lifecycle h, ?_⟩
  rw [hrefused, State.answerWrite_fuses, State.answerWrite_sec]
  exact ⟨rfl, hr, rfl⟩

/-- A transition posts its event. -/
theorem State.fuseLife_shows (ret : Bool) (h : s.quiet srcSec) : (s.fuseLife ret).shows srcSec 0x7007 :=
  State.shows_post h

/-- REASON 0 tells an accepted transition, which has posted its event. -/
theorem State.lifecycle_shows (hr : (s.lifecycle o).sec.reason = 0) (hq : s.quiet srcSec) : (s.lifecycle o).shows srcSec 0x7007 := by
  rcases s.lifecycle_cases (o := o) with ⟨r, hne, hrefused⟩ | ⟨-, hfused⟩ | ⟨-, -, -, hfused⟩
  · rw [hrefused] at hr
    exact absurd hr hne
  · exact hfused ▸ State.fuseLife_shows false hq
  · exact hfused ▸ State.fuseLife_shows true hq

/-! ## LOAD_PACK and the pack chain (15:R398, R399) -/

theorem exec_loadPack (h : s.accepts m 0x40008) : exec (.loadPack m o) s = .next ((s.loadPack o).answerWrite m 0) := by
  obtain ⟨hreach, howner, hanswers⟩ := h
  exact congrArg Host.Outcome.next (s.command_accepted hreach howner hanswers)

@[simp] theorem State.packRefused_sec (r : Nat) : (s.packRefused r).sec = { s.sec with lastCmd := 2, reason := BitVec.ofNat 8 r } :=
  (s.secResult 2 r).post_sec ..

section
variable (hidle : ¬ (s.sec.busy = true ∨ s.sec.boot ≠ .running)) (hfetched : s.fetched o = some b)
include hidle hfetched

theorem State.loadPack_unsound (hunsound : s.verify 2 b ≠ 0) : s.loadPack o = s.packRefused (s.verify 2 b) := by
  rw [State.loadPack, if_neg hidle, hfetched]
  exact if_pos hunsound

variable (hsound : s.verify 2 b = 0)
include hsound

/-- A sound object whose records the test table does not take (15:R400). -/
theorem State.loadPack_badRecords (hrecords : packTable s.tst.table (objBody b) = none) : s.loadPack o = s.packRefused 10 := by
  simp only [State.loadPack, if_neg hidle, hfetched, hsound, hrecords, ne_eq, not_true, if_false]

theorem State.loadPack_accepted_sec {table : List TestRec} (hrecords : packTable s.tst.table (objBody b) = some table) :
    (s.loadPack o).sec = { s.sec with lastCmd := 2, reason := 0, packChain := extendChain s.sec.packChain b } := by
  simp only [State.loadPack, if_neg hidle, hfetched, hsound, hrecords, ne_eq, not_true, if_false, State.post_sec]
  rfl

end

/-- LOAD_PACK is refused with a REASON, or it takes an object and extends the chain with it. -/
theorem State.loadPack_cases :
    (∃ r, BitVec.ofNat 8 r ≠ 0 ∧ s.loadPack o = s.packRefused r) ∨
    (∃ b, o = some b ∧ (s.loadPack o).sec = { s.sec with lastCmd := 2, reason := 0, packChain := extendChain s.sec.packChain b }) := by
  by_cases hbusy : s.sec.busy = true ∨ s.sec.boot ≠ .running
  · exact .inl ⟨1, by decide, if_pos hbusy⟩
  cases hfetched : s.fetched o with
  | none => exact .inl ⟨8, by decide, by rw [State.loadPack, if_neg hbusy, hfetched]⟩
  | some b =>
    obtain ⟨hsome, -⟩ := State.fetched_eq_some.mp hfetched
    by_cases hsound : s.verify 2 b = 0
    · cases hrecords : packTable s.tst.table (objBody b) with
      | none => exact .inl ⟨10, by decide, State.loadPack_badRecords hbusy hfetched hsound hrecords⟩
      | some table => exact .inr ⟨b, hsome, State.loadPack_accepted_sec hbusy hfetched hsound hrecords⟩
    · exact .inl ⟨_, State.verify_reason_ne_zero hsound, State.loadPack_unsound hbusy hfetched hsound⟩

/-- REASON 0 tells an accepted pack, which has extended the chain; a refused one has left it alone. -/
theorem State.loadPack_packChain :
    ((s.loadPack o).sec.reason = 0 → ∃ b, o = some b ∧ (s.loadPack o).sec.packChain = extendChain s.sec.packChain b) ∧
    ((s.loadPack o).sec.reason ≠ 0 → (s.loadPack o).sec.packChain = s.sec.packChain) := by
  rcases s.loadPack_cases (o := o) with ⟨r, hne, hrefused⟩ | ⟨b, hsome, hsec⟩
  · rw [hrefused, State.packRefused_sec]
    exact ⟨fun hzero => absurd hzero hne, fun _ => rfl⟩
  · rw [hsec]
    exact ⟨fun _ => ⟨b, hsome, rfl⟩, fun hne => absurd rfl hne⟩

/-! ## The resets (15:R398) -/

@[simp] theorem Sec.warm_packChain (c : Sec) (f : Fuses) : (c.warm f).packChain = 0 := rfl

@[simp] theorem State.warmed_packChain (cause : Nat) : (s.warmed cause).sec.packChain = 0 := Sec.warm_packChain ..

@[simp] theorem State.poweredOn_packChain (kind cause : Nat) : (s.poweredOn kind cause).sec.packChain = 0 := rfl

/-- With the rails on, a warm reset of any cause, one by PCIe too, zeroes the chain. -/
theorem State.warmReset_packChain (h : s.ao.railsOn = true) (cause die : Nat) : (s.warmReset cause die).sec.packChain = 0 := by
  by_cases hpcie : cause = 5
  · simp only [State.warmReset, h, Bool.not_true, Bool.false_eq_true, if_false, if_pos hpcie, State.warmed_packChain]
  · simp only [State.warmReset, h, Bool.not_true, Bool.false_eq_true, if_false, if_neg hpcie, State.warmed_packChain]

theorem exec_powerOnReset (h : s.mayPower = true) : exec .powerOnReset s = .next (s.poweredOn 3 6) := if_pos h

end Sys2Proof.Machine
end

section
namespace Sys2Proof.Machine

open Sys2Proof

/-- Settles O60: a LIFECYCLE command is refused or fuses a transition, a pack is refused or extends the chain, and a warm and a power-on reset zero the chain. -/
theorem lifecycleAndPackChain : Obligations.LifecycleAndPackChain := by
  unfold Obligations.LifecycleAndPackChain
  refine ⟨fun s m o h => ⟨fun hfield hinvalid => ?_, fun hreturn => ?_, ?_, ?_⟩, fun s c hrails => ?_, fun s hmay => ?_⟩
  · have hno : ¬ s.returnObject o := fun ⟨b, hsome, hlength, hsound, hbound⟩ => hinvalid b hsome hlength hsound hbound
    exact exec_lifecycle_refused h (by rw [hfield]; decide) (.inr hno)
  · exact exec_lifecycle_refused h (by rw [hreturn]; decide) (.inl hreturn)
  · refine ⟨_, exec_lifecycle h, fun hr hq => ?_⟩
    rw [State.answerWrite_sec] at hr
    exact (State.answerWrite_shows ..).mpr (State.lifecycle_shows hr hq)
  · refine ⟨_, exec_loadPack h, ?_⟩
    rw [State.answerWrite_sec]
    exact State.loadPack_packChain
  · exact ⟨_, exec_warmReset s c, State.warmReset_packChain hrails c.toNat 0⟩
  · exact ⟨_, exec_powerOnReset hmay, State.poweredOn_packChain 3 6⟩

end Sys2Proof.Machine
end
